-- ==== Sys2Proof/Word.lean ====
section
/-! DEFINITION. The word types of the Mytex L9 and their plainest arithmetic (spec/00_scope.md R4, spec/05_memory.md R74). -/

namespace Sys2Proof

/-- One byte of memory. -/
abbrev Byte := BitVec 8
/-- A g, o or k register (R74). -/
abbrev Word := BitVec 64
/-- A v register: 1,024 bits (R74). -/
abbrev Vec := BitVec 1024
/-- A capability, tag bit included: bit 127 is TAG (R83). -/
abbrev Cap := BitVec 128
/-- A program counter: slot in [14:12], line in [11:0] (R169). -/
abbrev Pc := BitVec 15
/-- A cause code (R244). -/
abbrev Cause := BitVec 8

end Sys2Proof
end

