-- ==== Sys2Proof/Syntax.lean ====
section
/-! DEFINITION. The syntax of the machine's steps: the fields of a 96-bit instruction word (spec/10_encoding.md R171, R173)
and ONE constructor for each row of spec/opcode_table.json. Rows without a word are device events: they have no
word, and the decoder never yields them. -/

namespace Sys2Proof

/-- An operand specifier read into its file and index (R173); `imm` is the specifier 0x0FF (R174). `pd n` names distance n + 1. -/
inductive Operand where
  | g (n : BitVec 6)
  | v (n : BitVec 5)
  | o (n : BitVec 3)
  | pd (n : BitVec 2)
  | imm
  | k (n : BitVec 3)
  | h (n : BitVec 4)
  | s (n : BitVec 3)
  | b (n : BitVec 4)
  deriving DecidableEq, Repr

/-- The fields of an instruction word below its opcode (R171). -/
structure Fld where
  pk : BitVec 3
  ps : Bool
  dst : Operand
  sa : Operand
  sb : Operand
  sc : Operand
  talloc : BitVec 4
  tw0 : BitVec 4
  tw1 : BitVec 4
  mod : BitVec 2
  imm : BitVec 32
  deriving DecidableEq, Repr

/-- The three contexts of a frame (R27); CTX codes 0, 1, 2 (R29). -/
inductive CtxKind where
  | loader
  | computer
  | storer
  deriving DecidableEq, Repr

/-- A context: core number 48y + x, frame 0 to 3, and its sequencer. -/
structure CtxId where
  core : Nat
  frm : Nat
  kind : CtxKind
  deriving DecidableEq, Repr

/-- What issues an instruction: a context, or the waystation processor of a slice (R222). -/
inductive Agent where
  | ctx (c : CtxId)
  | handler (slice : Nat)
  deriving DecidableEq, Repr

/-- A pending imprecise cause with its EADDR and EINFO (R242). -/
structure PendCause where
  cause : Cause
  eaddr : BitVec 64
  einfo : BitVec 32
  deriving DecidableEq, Repr

/-- A barrier object: the space, the 16-bit id, and the instance that the id's scope selects (R210). -/
structure ObjKey where
  sid : Nat
  id : BitVec 16
  inst : Nat
  deriving DecidableEq, Repr

/-- Where a proxy shadow leads (R67): the other die, or the peer of a Gleit link. -/
inductive ProxyDest where
  | die (d : Nat)
  | link (n : Nat)
  deriving DecidableEq, Repr

/-- What the world outside the model decides about a start (R261): the signature's verdict, the image's SHA-256, and a
failing later step as (BOOTSTAT CODE, unit). -/
structure StartEnv where
  sigOk : Bool
  hash : BitVec 256
  fail : Option (BitVec 8 × BitVec 3)
  deriving DecidableEq, Repr

/-- The registers that take a written value with no behaviour of their own (R260, R228). A launch page is 8 x stack + page. -/
inductive HostReg where
  | accept (n : BitVec 2)
  | fwaddr
  | fwlen
  | argp (page : Nat)
  | sel (page : Nat)
  deriving DecidableEq, Repr

/-- One step of the machine: an instruction issued, or a device event (spec/opcode_table.json). -/
inductive Instr where
  /-- ACAS (R309). -/
  | acas (f : Fld)
  /-- ADD (R310). -/
  | add (f : Fld)
  /-- AND (R310). -/
  | and (f : Fld)
  /-- ARED (R311). -/
  | ared (f : Fld)
  /-- ATOM (R312). -/
  | atom (f : Fld)
  /-- BADD (R313). -/
  | badd (f : Fld)
  /-- BAR (R314). -/
  | bar (f : Fld)
  /-- BARA (R315). -/
  | bara (f : Fld)
  /-- BARW (R316). -/
  | barw (f : Fld)
  /-- BCNT (R317). -/
  | bcnt (f : Fld)
  /-- BCVT (R318). -/
  | bcvt (f : Fld)
  /-- BFI (R319). -/
  | bfi (f : Fld)
  /-- BFILL (R102). -/
  | bfill (f : Fld)
  /-- BFMA (R102). -/
  | bfma (f : Fld)
  /-- BFX (R319). -/
  | bfx (f : Fld)
  /-- BMAX (R102). -/
  | bmax (f : Fld)
  /-- BMIN (R102). -/
  | bmin (f : Fld)
  /-- BR (R320). -/
  | br (f : Fld)
  /-- BRED (R321). -/
  | bred (f : Fld)
  /-- BRK (R322). -/
  | brk (f : Fld)
  /-- BRX (R323). -/
  | brx (f : Fld)
  /-- BSCL (R105). -/
  | bscl (f : Fld)
  /-- BSE (R324). -/
  | bse (f : Fld)
  /-- BSMX (R325). -/
  | bsmx (f : Fld)
  /-- BSYNC (R326). -/
  | bsync (f : Fld)
  /-- CALL (R327). -/
  | call (f : Fld)
  /-- CBACQ (R34). -/
  | cbacq (f : Fld)
  /-- CBCLOSE (R330). -/
  | cbclose (f : Fld)
  /-- CBPUB (R329). -/
  | cbpub (f : Fld)
  /-- CBREL (R331). -/
  | cbrel (f : Fld)
  /-- CBWAIT (R332). -/
  | cbwait (f : Fld)
  /-- CDROP (R333). -/
  | cdrop (f : Fld)
  /-- CGET (R333). -/
  | cget (f : Fld)
  /-- CLZ (R334). -/
  | clz (f : Fld)
  /-- CMP (R335). -/
  | cmp (f : Fld)
  /-- CNARROW (R333). -/
  | cnarrow (f : Fld)
  /-- CONT (R336). -/
  | cont (f : Fld)
  /-- CPY_SCRATCH_FROM_DEVICE (R339). -/
  | cpyScratchFromDevice (f : Fld)
  /-- CPY_DEVICE_FROM_SCRATCH (R339). -/
  | cpyDeviceFromScratch (f : Fld)
  /-- CPY_SCRATCH_FROM_SCRATCH (R339). -/
  | cpyScratchFromScratch (f : Fld)
  /-- CPY_DEVICE_FROM_DEVICE (R339). -/
  | cpyDeviceFromDevice (f : Fld)
  /-- CPYA (R133). -/
  | cpya (f : Fld)
  /-- CPYX (R131). -/
  | cpyx (f : Fld)
  /-- DDROP (R144). -/
  | ddrop (f : Fld)
  /-- DIV (R342). -/
  | div (f : Fld)
  /-- DONE (R343). -/
  | done (f : Fld)
  /-- DREG (R137). -/
  | dreg (f : Fld)
  /-- DSTAT (R144). -/
  | dstat (f : Fld)
  /-- DSYNC (R144). -/
  | dsync (f : Fld)
  /-- EBAG (R132). -/
  | ebag (f : Fld)
  /-- END (R345). -/
  | endCtx (f : Fld)
  /-- ERET (R346). -/
  | eret (f : Fld)
  /-- EVSIG (R347). -/
  | evsig (f : Fld)
  /-- EXT (R334). -/
  | ext (f : Fld)
  /-- FCANCEL (R349). -/
  | fcancel (f : Fld)
  /-- FEAT (R263). -/
  | feat (f : Fld)
  /-- FENCE (R350). -/
  | fence (f : Fld)
  /-- FENCE_WIN (R203). -/
  | fenceWin (f : Fld)
  /-- FJOIN (R351). -/
  | fjoin (f : Fld)
  /-- FMTP (R154). -/
  | fmtp (f : Fld)
  /-- FREST (R353). -/
  | frest (f : Fld)
  /-- FSAVE (R354). -/
  | fsave (f : Fld)
  /-- FTEST (R348). -/
  | ftest (f : Fld)
  /-- FWAIT (R356). -/
  | fwait (f : Fld)
  /-- GETS (R357). -/
  | gets (f : Fld)
  /-- IDLE (R360). -/
  | idle (f : Fld)
  /-- JBIND (R121). -/
  | jbind (f : Fld)
  /-- JOB (R362). -/
  | job (f : Fld)
  /-- JOIN (R363). -/
  | join (f : Fld)
  /-- JTAB_SCRATCH (R364). -/
  | jtabScratch (f : Fld)
  /-- JTAB_DEVICE (R364). -/
  | jtabDevice (f : Fld)
  /-- KACC (R365). -/
  | kacc (f : Fld)
  /-- KCNT (R122). -/
  | kcnt (f : Fld)
  /-- KISECT (R123). -/
  | kisect (f : Fld)
  /-- KLOOK (R126). -/
  | klook (f : Fld)
  /-- KSEEK (R123). -/
  | kseek (f : Fld)
  /-- KLOG (R367). -/
  | klog (f : Fld)
  /-- KMOV (R367). -/
  | kmov (f : Fld)
  /-- LD (R368). -/
  | ld (f : Fld)
  /-- LDG (R368). -/
  | ldg (f : Fld)
  /-- LDC (R369). -/
  | ldc (f : Fld)
  /-- LEASE (R370). -/
  | lease (f : Fld)
  /-- LFREE (R371). -/
  | lfree (f : Fld)
  /-- MAX (R310). -/
  | max (f : Fld)
  /-- MIN (R310). -/
  | min (f : Fld)
  /-- MLDA (R373). -/
  | mlda (f : Fld)
  /-- MLDB (R374). -/
  | mldb (f : Fld)
  /-- MMAC (R375). -/
  | mmac (f : Fld)
  /-- MMACG (R376). -/
  | mmacg (f : Fld)
  /-- MMVB (R114). -/
  | mmvb (f : Fld)
  /-- MOV (R377). -/
  | mov (f : Fld)
  /-- MOVI (R301). -/
  | movi (f : Fld)
  /-- MSCL (R378). -/
  | mscl (f : Fld)
  /-- MSG_SCRATCH (R379). -/
  | msgScratch (f : Fld)
  /-- MSG_HANDLER (R379). -/
  | msgHandler (f : Fld)
  /-- MST (R380). -/
  | mst (f : Fld)
  /-- MUL (R310). -/
  | mul (f : Fld)
  /-- MULH (R310). -/
  | mulh (f : Fld)
  /-- MZERO (R381). -/
  | mzero (f : Fld)
  /-- NOP (R382). -/
  | nop (f : Fld)
  /-- OR (R310). -/
  | or (f : Fld)
  /-- PHASE (R383). -/
  | phase (f : Fld)
  /-- POPC (R334). -/
  | popc (f : Fld)
  /-- QFENCE (R384). -/
  | qfence (f : Fld)
  /-- RALLY (R385). -/
  | rally (f : Fld)
  /-- REM (R310). -/
  | rem (f : Fld)
  /-- RET (R386). -/
  | ret (f : Fld)
  /-- SAR (R310). -/
  | sar (f : Fld)
  /-- SHL (R310). -/
  | shl (f : Fld)
  /-- SHR (R310). -/
  | shr (f : Fld)
  /-- SBIND (R388). -/
  | sbind (f : Fld)
  /-- SSKIP (R389). -/
  | sskip (f : Fld)
  /-- SPOS_READ (R389). -/
  | sposRead (f : Fld)
  /-- SPOS_SET (R389). -/
  | sposSet (f : Fld)
  /-- SFREE (R389). -/
  | sfree (f : Fld)
  /-- SEL (R188). -/
  | sel (f : Fld)
  /-- SEMS (R390). -/
  | sems (f : Fld)
  /-- SEMW (R390). -/
  | semw (f : Fld)
  /-- SETS (R391). -/
  | sets (f : Fld)
  /-- SHEAT (R392). -/
  | sheat (f : Fld)
  /-- SHIP_HANDLER (R394). -/
  | shipHandler (f : Fld)
  /-- SHIP_RED (R394). -/
  | shipRed (f : Fld)
  /-- SLOTSET (R395). -/
  | slotset (f : Fld)
  /-- SPAWN (R397). -/
  | spawn (f : Fld)
  /-- ST (R399). -/
  | st (f : Fld)
  /-- STG (R399). -/
  | stg (f : Fld)
  /-- STC (R400). -/
  | stc (f : Fld)
  /-- SUB (R310). -/
  | sub (f : Fld)
  /-- SVC (R401). -/
  | svc (f : Fld)
  /-- VABS (R403). -/
  | vabs (f : Fld)
  /-- VADD (R403). -/
  | vadd (f : Fld)
  /-- VSUB (R403). -/
  | vsub (f : Fld)
  /-- VMUL (R403). -/
  | vmul (f : Fld)
  /-- VFMA (R403). -/
  | vfma (f : Fld)
  /-- VMIN (R403). -/
  | vmin (f : Fld)
  /-- VMAX (R403). -/
  | vmax (f : Fld)
  /-- VAND (R403). -/
  | vand (f : Fld)
  /-- VOR (R403). -/
  | vor (f : Fld)
  /-- VXOR (R403). -/
  | vxor (f : Fld)
  /-- VSHL (R403). -/
  | vshl (f : Fld)
  /-- VSHR (R403). -/
  | vshr (f : Fld)
  /-- VRCP (R164). -/
  | vrcp (f : Fld)
  /-- VRSQ (R165). -/
  | vrsq (f : Fld)
  /-- VEXP (R163). -/
  | vexp (f : Fld)
  /-- VSEL (R403). -/
  | vsel (f : Fld)
  /-- VBCST (R405). -/
  | vbcst (f : Fld)
  /-- VGETL (R405). -/
  | vgetl (f : Fld)
  /-- VIOTA (R405). -/
  | viota (f : Fld)
  /-- VPERM (R405). -/
  | vperm (f : Fld)
  /-- VSETL (R405). -/
  | vsetl (f : Fld)
  /-- VCMP (R406). -/
  | vcmp (f : Fld)
  /-- VCVT (R407). -/
  | vcvt (f : Fld)
  /-- VRED (R410). -/
  | vred (f : Fld)
  /-- VSCAN (R410). -/
  | vscan (f : Fld)
  /-- VARED (R404). -/
  | vared (f : Fld)
  /-- VGATH (R408). -/
  | vgath (f : Fld)
  /-- VSCAT (R408). -/
  | vscat (f : Fld)
  /-- VLD (R409). -/
  | vld (f : Fld)
  /-- VST (R409). -/
  | vst (f : Fld)
  /-- VLDG (R409). -/
  | vldg (f : Fld)
  /-- VSTG (R409). -/
  | vstg (f : Fld)
  /-- XBEGIN (R218). -/
  | xbegin (f : Fld)
  /-- XSEND (R219). -/
  | xsend (f : Fld)
  /-- XEND (R220). -/
  | xend (f : Fld)
  /-- XFLUSH (R412). -/
  | xflush (f : Fld)
  /-- XMIG (R413). -/
  | xmig (f : Fld)
  /-- XOR (R310). -/
  | xor (f : Fld)
  /-- YIELD (R414). -/
  | yield (f : Fld)
  /-- UNASSIGNED_OPCODE (R186): An issued instruction whose opcode is unassigned, including groups 0xE and 0xF, raises illegal instruction (0x01) and takes no effect. -/
  | unassignedOpcode (opc : BitVec 10)
  /-- JOB_CARD_ACCEPT (R21): A job card taken from a page queue is checked and accepted into the active set. -/
  | jobCardAccept (page : Nat)
  /-- LEASE_GRANT (R51): Checks, expands and pins a card's lease entries in order, waiting while the pool is full. -/
  | leaseGrant (job : Nat)
  /-- CTRL_SPACE (R258): A SPACE control message installs a space and its tables. -/
  | ctrlSpace (page : Nat)
  /-- CTRL_RETIRE (R93): A RETIRE control message retires a space id and advances its generation. -/
  | ctrlRetire (page : Nat)
  /-- CTRL_BINDPAGE (R258): A BINDPAGE control message binds an inbound page to a space, or unbinds it. -/
  | ctrlBindpage (page : Nat)
  /-- CTRL_HCOPY (R258): An HCOPY control message copies bytes between host memory and an object. -/
  | ctrlHcopy (page : Nat)
  /-- CTRL_LOADSTORE (R258): A LOADSTORE control message loads instruction store or handler lines from an object. -/
  | ctrlLoadstore (page : Nat)
  /-- CTRL_KILL_JOB (R415): A KILL control message naming a job ends the job's work in the package. -/
  | ctrlKillJob (page : Nat)
  /-- CTRL_KILL_FRAME (R40): A KILL control message naming a frame kills that frame. -/
  | ctrlKillFrame (page : Nat)
  /-- CTRL_LAUNCHPAGE_REGISTER (R228): A LAUNCHPAGE control message with OP 1 registers a launch page. -/
  | ctrlLaunchpageRegister (page : Nat)
  /-- CTRL_LAUNCHPAGE_REMOVE (R228): A LAUNCHPAGE control message with OP 0 removes a launch page. -/
  | ctrlLaunchpageRemove (page : Nat)
  /-- CTRL_COLDIDLE (R233): A COLDIDLE control message sets the idle time for compression, or disables it. -/
  | ctrlColdidle (page : Nat)
  /-- CHUNK_DEAL (R55): The package dealer deals a chunk of argument records to a qualifying span cluster. -/
  | chunkDeal (job : Nat)
  /-- SPAWN_ENTRY_ARRIVAL (R56): A spawned record, or a record delivered by a proxy queue, enters a dispatcher source. -/
  | spawnEntryArrival (cluster : Nat)
  /-- DISPATCH_BIND (R61): In a cycle with a free frame, the dispatcher offers candidates and binds the first that fits. -/
  | dispatchBind (cluster : Nat)
  /-- AGE_GUARD (R61): When AGE reaches 1,024, the next binding is offered only the lowest non-empty level. -/
  | ageGuard (cluster : Nat)
  /-- RECORD_RESERVED (R62): A candidate passed over 256 times becomes the cluster's reserved record. -/
  | recordReserved (cluster level : Nat)
  /-- DCTL_WRITE (R57): A supervisor store to DCTL sets the spill ring size and the keyed levels. -/
  | dctlWrite (cluster : Nat) (v : BitVec 64)
  /-- SPILL_WRITE (R57): A supervisor store to SPILL sets the spill rings' device address and enable. -/
  | spillWrite (cluster : Nat) (v : BitVec 64)
  /-- TASK_START (R28): Initialises a bound frame's state and readies its three contexts. -/
  | taskStart (core frm : Nat)
  /-- TASK_END (R38): When all contexts have ended and every asynchronous operation has completed, the frame is released and counted. -/
  | taskEnd (core frm : Nat)
  /-- JOB_SWEEP (R45): Every microsecond, a reduction tree sweeps the job's sweep set for idleness and message sums. -/
  | jobSweep (job : Nat)
  /-- DECREMENT_APPLY (R43): A continuation decrement is applied, discarded if its generation is old. -/
  | decrementApply (cluster : Nat)
  /-- PROXY_FORWARD_WRITE (R67): A forwarding engine sends gathered shadow entries to the true queue as one fabric write. -/
  | proxyForwardWrite (die : Nat) (dest : ProxyDest)
  /-- TAGGED_DATA_ARRIVAL (R176): A tagged producer's data arrives and is written to its destination. -/
  | taggedDataArrival (c : CtxId) (n : Nat)
  /-- STORE_HOME_PERFORM (R193): A held plain store is performed at its home. -/
  | storeHomePerform (a : Agent) (n : Nat)
  /-- ATOMIC_HOME_APPLY (R201): An atomic request is performed at its home, through the replay filter. -/
  | atomicHomeApply (req : Nat)
  /-- ATOMIC_REPLY (R201): An atomic reply reaches the core, or a router splits it, and the destination is written. -/
  | atomicReply (req : Nat)
  /-- BANK_COMMAND_PERFORM (R111): A bank command is performed atomically at its row's bank. -/
  | bankCommandPerform (core n : Nat)
  /-- COPY_BEGIN (R339): A queued engine operation begins once its queue, its stores and its QFENCEs allow. -/
  | copyBegin (core q units : Nat)
  /-- COPY_COMPLETE (R339): An engine operation ends its writes and marking, publishes its slot and completes its handle. -/
  | copyComplete (core q : Nat)
  /-- MATRIX_QUEUE_PERFORM (R372): The matrix unit performs the next queued matrix instruction of a frame. -/
  | matrixQueuePerform (core frm : Nat)
  /-- MATRIX_STEP (R66): At a step boundary, the matrix unit grants a 32-cycle step under the slot table. -/
  | matrixStep (core : Nat)
  /-- IMPRECISE_DELIVERY (R242): A pending imprecise cause is delivered at a boundary with IE = 1 and SV = 0. -/
  | impreciseDelivery (c : CtxId)
  /-- TOLLGATE_BARRIER_ARRIVE (R206): An ST.D to a tollgate barrier line counts an arrival and fires the line at COUNT. -/
  | tollgateBarrierArrive (cluster line : Nat) (who : CtxId)
  /-- TOLLGATE_BARRIER_LOAD (R206): An LD.D of a barrier line waits for the firing or returns the phase. -/
  | tollgateBarrierLoad (c : CtxId) (n : Nat)
  /-- TOLLGATE_BARRIER_CONFIG (R206): A store to a barrier line's configuration word resets it and answers its waiters. -/
  | tollgateBarrierConfig (cluster line : Nat) (v : BitVec 64)
  /-- TOLLGATE_MUTEX_ACQUIRE (R207): An LD.D of a mutex line takes it or waits in order. -/
  | tollgateMutexAcquire (c : CtxId) (n : Nat)
  /-- TOLLGATE_MUTEX_FREE (R207): An ST.D from the holder frees a mutex line and grants the next waiter. -/
  | tollgateMutexFree (cluster line : Nat) (who : CtxId)
  /-- TOLLGATE_EVENT_WAIT (R208): An LD.D of an event line waits while the count is 0, then takes 1. -/
  | tollgateEventWait (c : CtxId) (n : Nat)
  /-- TOLLGATE_EVENT_SIGNAL (R208): An ST.D of 0x1 adds 1 to an event line's count. -/
  | tollgateEventSignal (cluster line : Nat)
  /-- TOLLGATE_EVENT_CLEAR (R208): An ST.D of 0x0 sets an event line's count to 0. -/
  | tollgateEventClear (cluster line : Nat)
  /-- ROUTER_ARRIVAL_FORWARD (R211): A router forwards the summed arrivals it holds once marked ports report or 32 cycles pass. -/
  | routerArrivalForward (o : ObjKey)
  /-- BARRIER_ROOT_ARRIVAL (R211): The root adds arrivals and fires the phase when the sum reaches COUNT. -/
  | barrierRootArrival (o : ObjKey)
  /-- BARRIER_RELEASE_ARRIVAL (R212): A released phase reaches a waiting context, which acquires. -/
  | barrierReleaseArrival (c : CtxId)
  /-- XBEGIN_RELEASE (R218): The exchange release reaches every member in the same cycle T. -/
  | xbeginRelease (o : ObjKey)
  /-- XSEND_SLOT_SEND (R219): A waiting XSEND sends in its slot once the slot's cycle is reached. -/
  | xsendSlotSend (c : CtxId)
  /-- FRAME_SAVE_COMPLETE (R68): A pre-emption drains the frame's work, writes its save area and frees its resources. -/
  | frameSaveComplete (n : Nat)
  /-- PREEMPT_ABANDON (R69): A drain not finished within 64 µs abandons the pre-emption. -/
  | preemptAbandon (n : Nat)
  /-- FRAME_RESTORE_BIND (R71): A restore binds the saved frame or domain anew and resumes it. -/
  | frameRestoreBind (n : Nat)
  /-- LEASE_EXTENSION_PINNED (R370): A lease extension is pinned, its handle completes and any bound arrival is delivered. -/
  | leaseExtensionPinned (n : Nat)
  /-- STALE_READ_HOLD (R142): A read of a stale tile is held at its home slice. -/
  | staleReadHold (d tile : Nat)
  /-- TILE_RECOMPUTE (R142): A recompute attempt of a tile completes, writing the tile and answering the held reads or retrying. -/
  | tileRecompute (d tile : Nat)
  /-- SLAB_COMPRESS (R233): A slab idle for the set time is coded into a compressed image. -/
  | slabCompress (sid obj slab : Nat)
  /-- SLAB_DECODE (R234): A cold slab is decoded into a free physical slab once the pool has room. -/
  | slabDecode (sid obj slab : Nat)
  /-- MIGRATION_COPY_COMPLETE (R235): A slab's copy to the target slice ends and the held requests are released. -/
  | migrationCopyComplete (n : Nat)
  /-- TRANSLATION_WALK_REPLY (R94): A translation walk reply returns to the marked ports. -/
  | translationWalkReply (n : Nat)
  /-- HANDLER_RUN_START (R223): A waystation takes the next trigger from its queue and starts a handler run. -/
  | handlerRunStart (slice : Nat)
  /-- HANDLER_RUN_END (R225): A handler run ends at END or at a fault, and its chain's handle may complete. -/
  | handlerRunEnd (slice : Nat)
  /-- LAUNCH_NOTIFY (R229): A store to a launch page's NOTIFY starts handler 0 on the selected slices. -/
  | launchNotify (page : Nat) (v : BitVec 64) (rel : Bool)
  /-- LAUNCH_COMPLETE (R229): When every run of a launch has ended, DONE advances and BUSY clears. -/
  | launchComplete (page : Nat)
  /-- REDUCTION_BLOCK_START (R231): A reduction engine takes the next block, checks it and sums the eight vectors. -/
  | reductionBlockStart (stack : Nat)
  /-- REDUCTION_CLIMB_PAIR (R231): A tree node pairs two climbing vectors of equal TAG and adds them. -/
  | reductionClimbPair (node : Nat)
  /-- REDUCTION_CLIMB_DISCARD (R231): A vector that waits 1 ms at a node without its partner is discarded. -/
  | reductionClimbDiscard (node : Nat)
  /-- IDLE_TIMEOUT (R360): An IDLE with n > 0 ends when n × 1,024 cycles of its core have passed without a pending cause, writing 0 to gd. -/
  | idleTimeout (c : CtxId)
  /-- RALLY_TIMEOUT (R385): A waiting RALLY is released when w cycles of its core have passed since its issue. -/
  | rallyTimeout (c : CtxId)
  /-- YIELD_WAIT_END (R414): A context that executed YIELD becomes ready again after max(n, 1) cycles. -/
  | yieldWaitEnd (c : CtxId)
  /-- CTRL_KILL_SID (R258): A KILL control message naming a space kills every frame of that space. -/
  | ctrlKillSid (page : Nat)
  /-- CTRL_PREEMPT (R258): A PREEMPT control message saves a frame as FSAVE does. -/
  | ctrlPreempt (page : Nat)
  /-- CTRL_RESTORE (R258): A RESTORE control message restores a saved frame as FREST does. -/
  | ctrlRestore (page : Nat)
  /-- CTRL_ACKOUT (R259): An ACKOUT control message frees acknowledged entries of an outbound page. -/
  | ctrlAckout (page : Nat)
  /-- CTRL_LINK (R258): A LINK control message sets the package id, the pod and the Gleit link peers, and retrains the links. -/
  | ctrlLink (page : Nat)
  /-- CTRL_ATTEST (R264): An ATTEST control message writes a signed attestation report to host memory. -/
  | ctrlAttest (page : Nat)
  /-- CTRL_UNKNOWN_KIND (R258): A control message of an unknown kind is answered with cause 0x01. -/
  | ctrlUnknownKind (page : Nat)
  /-- CAUSE_ARRIVAL (R242): An imprecise cause arrives and is held pending, or kills the frame when it is the fifth. -/
  | causeArrival (c : CtxId) (p : PendCause)
  /-- REFRESH_SUBARRAY_END (R236): A subarray refresh ends after 120 ns and its waiting accesses are served. -/
  | refreshSubarrayEnd (channel bank : Nat)
  /-- LOCK_FEATURES (R262): A write of 1 to LOCK locks the accepted feature set and releases the held mailbox messages. -/
  | lockFeatures
  /-- TOKEN_TIMEOUT (R267): Package 0 sends a new token with the next EPOCH after 1 ms without one. -/
  | tokenTimeout
  /-- THERMAL_CLOCK_RAISE (R268): Raises the arithmetic clock one step after 10 ms at or below 85 °C. -/
  | thermalClockRaise
  /-- ROUTER_ATOMIC_FORWARD (R201): A router forwards a merged atomic request once the 8-cycle merge window ends. -/
  | routerAtomicForward (first second : Nat)
  /-- STREAM_ELEMENT_FETCH (R96): A bound stream fetches an element ahead of the reads that consume it. -/
  | streamElementFetch (c : CtxId) (n : Nat)
  /-- LINK_TRAINING_COMPLETE (R265): A Gleit link in training reaches STATE up, and a link event is written to every installed space. -/
  | linkTrainingComplete (link : Nat)
  /-- POWER_ON (R261): Power-on runs a cold start. -/
  | powerOn (e : StartEnv)
  /-- START_COLD (R261): A write of 1 to START runs the cold start path. -/
  | startCold (e : StartEnv)
  /-- START_WARM (R261): A write of 2 to START runs the warm start path. -/
  | startWarm (e : StartEnv)
  /-- START_WARM_PRESERVING (R261): A write of 3 to START runs a warm start that keeps memory. -/
  | startWarmPreserving (e : StartEnv)
  /-- HELD_START_RUN (R261): The held START is run once the running start ends. -/
  | heldStartRun (e : StartEnv)
  /-- REGISTER_WRITE (R260): A write to a register with no behaviour of its own, such as ACCEPT, FWADDR, FWLEN, ARGP or SEL, takes the value. -/
  | registerWrite (r : HostReg) (v : BitVec 64)
  /-- UNSUPPORTED_REQUEST (R255): A request to an undecoded function offset completes with unsupported-request status. -/
  | unsupportedRequest (off : Nat)
  /-- MAILBOX_MESSAGE (R256): A 128-byte Wilsen write at a slot boundary is copied into its page's queue. -/
  | mailboxMessage (page : Nat) (msg : List Byte)
  /-- BAD_MAILBOX_WRITE (R256): Any other write to a mailbox page is discarded and counted in BADW. -/
  | badMailboxWrite (page : Nat)
  /-- MIRROR_ENTRY_ARRIVAL (R266): A forwarded record arrives at a peer package, creating a mirror job if needed. -/
  | mirrorEntryArrival (link : Nat) (entry : BitVec 256)
  /-- MIRROR_RETURN (R266): The sender applies a mirror return's accepted, done and failed counts. -/
  | mirrorReturn (link : Nat) (entry : BitVec 256)
  /-- TOKEN_PASS (R267): A package holding the milestone token writes its summary, forwards steals and asks to steal. -/
  | tokenPass (tok : List Byte)
  /-- LINK_REPLAY (R202): A link replays a lost request or reply with the same id. -/
  | linkReplay (link : Nat) (req : Nat)
  /-- LINK_FAILURE (R265): A link that cannot deliver a flit after 1 ms of replays is declared failed. -/
  | linkFailure (link : Nat)
  /-- THERMAL_CLOCK_LOWER (R268): Lowers the arithmetic clock one step while a die is above the throttle limit. -/
  | thermalClockLower (die : Nat)
  /-- THERMAL_SHUTDOWN (R268): At 105 °C, stops all work and waits for START. -/
  | thermalShutdown (die : Nat)
  /-- REFRESH_SUBARRAY_START (R236): A DRAM bank starts refreshing its next subarray. -/
  | refreshSubarrayStart (channel bank : Nat)
  deriving DecidableEq, Repr

end Sys2Proof
end

