-- ==== Sys2Proof/WellFormed.lean ====
section
/-! DEFINITION. The static well-formedness of an instruction: the field tables of the reference entries as data (R172, R173,
R308 to R414), the checks of ranks 0x02 and 0x07 of R184 that need nothing but the word, and the reading of the fields. -/

namespace Sys2Proof

/-- The specifier classes (R173, R174). -/
inductive Cls where
  | g | v | o | pd | imm | k | h | s | b
  deriving DecidableEq, Repr

def Operand.cls : Operand → Cls
  | .g _ => .g | .v _ => .v | .o _ => .o | .pd _ => .pd | .imm => .imm
  | .k _ => .k | .h _ => .h | .s _ => .s | .b _ => .b

def Operand.isV : Operand → Bool | .v _ => true | _ => false
def Operand.isPd : Operand → Bool | .pd _ => true | _ => false
def Operand.isB : Operand → Bool | .b _ => true | _ => false
def Operand.isK : Operand → Bool | .k _ => true | _ => false
def Operand.isGO : Operand → Bool | .g _ => true | .o _ => true | _ => false

namespace Fld
variable (f : Fld)

/-- ACTL or MODX: IMM[31:24] (R172). -/
def actl : BitVec 8 := f.imm.extractLsb' 24 8
/-- IMM[23:0] (R172). -/
def off24 : BitVec 24 := f.imm.extractLsb' 0 24
/-- MODX[1:0]: 0 plain, 1 .ACQ, 2 .REL. -/
def ord : BitVec 2 := f.imm.extractLsb' 24 2
/-- MODX[4:2], coded as R30. -/
def scope : BitVec 3 := f.imm.extractLsb' 26 3
/-- MODX[7:5] as the hint. -/
def hint : BitVec 3 := f.imm.extractLsb' 29 3
/-- MODX[7:5] as the queue, BCVT's target or BRED's operation. -/
def queue : BitVec 3 := f.imm.extractLsb' 29 3
/-- The size of groups 0, 4 and 5 in bits: w = 8 x 2^MOD (R187). -/
def width : Nat := 8 * 2 ^ f.mod.toNat
/-- A nonzero immediate needs a 0x0FF source (R310). -/
def immUsed : Bool := f.off24 == 0 || f.sa == .imm || f.sb == .imm
/-- A nonzero immediate needs SB = 0x0FF (R402). -/
def immUsedB : Bool := f.off24 == 0 || f.sb == .imm
def bfPos : Nat := (f.imm.extractLsb' 0 6).toNat
def bfLen : Nat := (f.imm.extractLsb' 6 6).toNat + 1
/-- The load MODX of R368; `h` is the largest hint. -/
def modxLoad (h : BitVec 3) : Bool :=
  (f.ord == 0 && f.scope == 0 || f.ord == 1 && f.scope ≤ 4) && f.hint ≤ h
/-- The store MODX of R398. -/
def modxStore (h : BitVec 3) : Bool :=
  (f.ord == 0 && f.scope == 0 || f.ord == 2 && f.scope ≤ 4) && f.hint ≤ h
/-- The atomic MODX of R308, with SB = 0 in the local form. -/
def modxAtom : Bool := f.ord ≤ 2 && f.scope ≤ 4 && f.hint == 0 && (f.sa.isB || f.sb == .g 0)
def atomOp : BitVec 4 := f.imm.extractLsb' 20 4
def atomOpOk : Bool := f.atomOp ≤ 8 || f.atomOp == 9 && f.mod == 2
/-- The run length of BSCL and BRED (R105). -/
def run : Nat := f.off24.toNat
def runOk : Bool := 1 ≤ f.run && f.run ≤ 512
/-- CPY's LEN (R337). -/
def len : Nat := (f.imm.extractLsb' 0 20).toNat
def cpyOk : Bool := f.imm.extractLsb' 24 5 == 0 && f.queue ≤ 3 && 16 ≤ f.len && f.len ≤ 0x80000 && f.len % 16 == 0
/-- ROWB of CPYX, CPYA and EBAG (R130). -/
def rowb : Nat := (f.imm.extractLsb' 0 12).toNat
def mean : Bool := f.imm.getLsbD 18
def rowOk : Bool :=
  f.imm.extractLsb' 24 5 == 0 && f.queue ≤ 3 && f.imm.extractLsb' 12 6 == 0 && 64 ≤ f.rowb && f.rowb ≤ 2048 && f.rowb % 64 == 0
def kc : Nat := (f.imm.extractLsb' 0 10).toNat
def accN : Nat := (f.imm.extractLsb' 30 2).toNat
/-- A barrier id in IMM[15:0] (R210). -/
def id : BitVec 16 := f.imm.extractLsb' 0 16
def idScope : Nat := f.id.toNat / 4096
def idOpt : Bool := f.id == 0 || 1 ≤ f.idScope && f.idScope ≤ 4
/-- BAR, BARA, BARW and DONE (R215): the id stands in IMM when SA is g0. -/
def barOk : Bool :=
  f.imm.toNat < 2 ^ 16 && if f.sa == .g 0 then 1 ≤ f.idScope && f.idScope ≤ 4 else f.imm == 0
/-- KLOOK and KACC (R120): [8:5] PROBE - 1, [4:0] NB from 0 to 20. -/
def nb : Nat := (f.imm.extractLsb' 0 5).toNat
def probe : Nat := (f.imm.extractLsb' 5 4).toNat + 1
def tableOk : Bool := f.imm.toNat < 512 && f.nb ≤ 20
/-- DREG (R134, R135): the rule code and its parameters. -/
def rule : Nat := (f.imm.extractLsb' 0 4).toNat
def sfmt : Nat := (f.imm.extractLsb' 4 4).toNat
def tfmt : Nat := (f.imm.extractLsb' 8 4).toNat
def cols : Nat := (f.imm.extractLsb' 14 18).toNat + 1
def roww : Nat := (f.imm.extractLsb' 4 10).toNat + 1
def fcol : Nat := (f.imm.extractLsb' 14 10).toNat
def nf : Nat := (f.imm.extractLsb' 24 8).toNat + 1
def dregOk : Bool :=
  f.mod == 0 && (f.rule == 3 || f.sb == .g 0 && f.sc == .g 0) &&
  match f.rule with
  | 0 => f.tfmt == f.sfmt && (f.sfmt ≤ 2 || 5 ≤ f.sfmt && f.sfmt ≤ 7) && ¬ f.imm.getLsbD 13
  | 1 | 5 => f.sfmt ≤ 2 && f.tfmt ≤ 9 && ¬ f.imm.getLsbD 13
  | 2 => f.sfmt ≤ 2 && f.tfmt == 0 && ¬ f.imm.getLsbD 13
  | 3 => f.fcol + f.nf ≤ f.roww
  | 4 => f.imm == 4
  | _ => false
def dregCls : Option Operand :=
  if f.rule = 3 then (if f.sb.isB then (if f.sc.isB then none else some f.sc) else some f.sb) else none
/-- SPAWN's IMM (R396). -/
def spawnOk : Bool :=
  f.mod == 0 && f.imm.toNat < 2 ^ 17 && (f.imm.extractLsb' 5 5).toNat ≤ 23 &&
  (¬ f.imm.getLsbD 4 || f.imm.extractLsb' 5 12 == 0) && (¬ f.imm.getLsbD 16 || f.imm.extractLsb' 10 6 == 0) &&
  (¬ f.imm.getLsbD 3 || f.imm.extractLsb' 0 3 == 0)
/-- MOV's legal class pairs (R377); the offender is SA. -/
def movPair : Option Operand :=
  match f.dst.cls, f.sa.cls with
  | .g, .b | .o, .b => some f.sa
  | .g, _ | .o, _ => none
  | .h, .h | .b, .b => none
  | _, _ => some f.sa
/-- KMOV's legal class pairs (R367). -/
def kmovPair : Option Operand :=
  if f.dst.isK || f.sa.isK then none else some f.sa

end Fld

/-- The system registers that R240 assigns. -/
def sysregAssigned (n : Nat) : Bool :=
  n ≤ 6 || 0x10 ≤ n && n ≤ 0x14 || 0x20 ≤ n && n ≤ 0x27 || 0x30 ≤ n && n ≤ 0x32

/-- Which TALLOC an entry takes (R176): none; 1 to 15; 0 allowed only for g0; nonzero exactly when DST is not g0; GETS's. -/
inductive TagRule where
  | no | need | optG0 | iffNotG0 | cycle
  deriving DecidableEq, Repr

/-- Which of PK, PS, TWAIT0 and TWAIT1 an entry takes (DEDUCED, LOG 12). -/
inductive CtlRule where
  | full | predOnly | none
  deriving DecidableEq, Repr

/-- One reference entry's field table. An empty class list means that the field must be zero. -/
structure Shape where
  opc : BitVec 10
  dst : List Cls
  sa : List Cls
  sb : List Cls
  sc : List Cls
  ok : Fld → Bool
  tag : TagRule := .no
  ctl : CtlRule := .full
  cls : Fld → Option Operand := fun _ => none

/-- What a static check finds: 0x02, or 0x07 with the specifier at fault. -/
inductive StaticFault where
  | reserved
  | operandClass (o : Operand)
  deriving DecidableEq, Repr

def TagRule.ok (r : TagRule) (f : Fld) : Bool :=
  match r with
  | .no => f.talloc == 0
  | .need => f.talloc != 0
  | .optG0 => f.talloc != 0 || f.dst == .g 0
  | .iffNotG0 => (f.talloc != 0) == (f.dst != .g 0)
  | .cycle => (f.talloc != 0) == (f.imm == 0x13)

def CtlRule.ok (r : CtlRule) (f : Fld) : Bool :=
  match r with
  | .full => true
  | .predOnly => f.tw0 == 0 && f.tw1 == 0
  | .none => f.tw0 == 0 && f.tw1 == 0 && f.pk == 0 && ! f.ps

/-- A field with no use is zero (R172). -/
def zeroIfUnused (l : List Cls) (o : Operand) : Bool := ! l.isEmpty || o == .g 0

/-- A field with a use holds one of its classes (R173). -/
def classIn (l : List Cls) (o : Operand) : Bool := l.isEmpty || l.contains o.cls

/-- The rank-0x02 checks of one entry. -/
def Shape.reservedOk (p : Shape) (f : Fld) : Bool :=
  p.ctl.ok f && p.tag.ok f && zeroIfUnused p.dst f.dst && zeroIfUnused p.sa f.sa && zeroIfUnused p.sb f.sb &&
  zeroIfUnused p.sc f.sc && p.ok f

/-- The rank-0x07 checks of one entry: the first specifier of a wrong class. -/
def Shape.badClass (p : Shape) (f : Fld) : Option Operand :=
  if classIn p.dst f.dst then
    if classIn p.sa f.sa then
      if classIn p.sb f.sb then
        if classIn p.sc f.sc then p.cls f else some f.sc
      else some f.sb
    else some f.sa
  else some f.dst

/-- All static checks of one entry, 0x02 before 0x07 (R184). -/
def Shape.check (p : Shape) (f : Fld) : Option StaticFault :=
  if p.reservedOk f then
    match p.badClass f with
    | some o => some (.operandClass o)
    | none => none
  else some .reserved

/-- The field table of each instruction with the fields it holds; an event has none. -/
def Instr.shape : Instr → Option (Shape × Fld)
  | .acas f => some ({ opc := 0x142, dst := [.g, .o], sa := [.g, .o, .b], sb := [.g, .o], sc := [.g, .o], ok := fun f => 2 ≤ f.mod && f.modxAtom, tag := .iffNotG0 }, f)
  | .add f => some ({ opc := 0x000, dst := [.g, .o], sa := [.g, .o, .pd, .imm], sb := [.g, .o, .pd, .imm], sc := [], ok := fun f => f.actl == 0 && f.immUsed }, f)
  | .and f => some ({ opc := 0x006, dst := [.g, .o], sa := [.g, .o, .pd, .imm], sb := [.g, .o, .pd, .imm], sc := [], ok := fun f => f.actl == 0 && f.immUsed }, f)
  | .ared f => some ({ opc := 0x141, dst := [], sa := [.g, .o, .b], sb := [.g, .o], sc := [.g, .o], ok := fun f => 2 ≤ f.mod && f.modxAtom && f.atomOpOk }, f)
  | .atom f => some ({ opc := 0x140, dst := [.g, .o], sa := [.g, .o, .b], sb := [.g, .o], sc := [.g, .o], ok := fun f => 2 ≤ f.mod && f.modxAtom && f.atomOpOk, tag := .iffNotG0 }, f)
  | .badd f => some ({ opc := 0x180, dst := [], sa := [.g, .o], sb := [.v, .g, .o], sc := [], ok := fun f => f.actl == 0 }, f)
  | .bar f => some ({ opc := 0x2c0, dst := [], sa := [.g, .o], sb := [], sc := [], ok := fun f => f.mod == 0 && f.barOk }, f)
  | .bara f => some ({ opc := 0x2c1, dst := [], sa := [.g, .o], sb := [], sc := [], ok := fun f => f.mod == 0 && f.barOk }, f)
  | .barw f => some ({ opc := 0x2c2, dst := [], sa := [.g, .o], sb := [], sc := [], ok := fun f => f.mod == 0 && f.barOk }, f)
  | .bcnt f => some ({ opc := 0x186, dst := [], sa := [.g, .o], sb := [.k], sc := [], ok := fun f => (f.mod == 0 || f.mod == 3) && f.actl == 0 }, f)
  | .bcvt f => some ({ opc := 0x187, dst := [], sa := [.g, .o], sb := [], sc := [], ok := fun f => f.actl &&& 0x1F == 0 && f.queue ≤ 5 }, f)
  | .bfi f => some ({ opc := 0x016, dst := [.g, .o], sa := [.g, .o, .pd, .imm], sb := [], sc := [], ok := fun f => f.imm.toNat < 2 ^ 12 && f.bfPos + f.bfLen ≤ f.width }, f)
  | .bfill f => some ({ opc := 0x188, dst := [], sa := [.g, .o], sb := [.v, .g, .o], sc := [], ok := fun f => f.actl == 0 }, f)
  | .bfma f => some ({ opc := 0x184, dst := [], sa := [.g, .o], sb := [.v, .g, .o], sc := [.v, .g, .o], ok := fun f => f.actl == 0 }, f)
  | .bfx f => some ({ opc := 0x015, dst := [.g, .o], sa := [.g, .o, .pd, .imm], sb := [], sc := [], ok := fun f => f.imm.toNat < 2 ^ 12 && f.bfPos + f.bfLen ≤ f.width }, f)
  | .bmax f => some ({ opc := 0x181, dst := [], sa := [.g, .o], sb := [.v, .g, .o], sc := [], ok := fun f => f.actl == 0 }, f)
  | .bmin f => some ({ opc := 0x182, dst := [], sa := [.g, .o], sb := [.v, .g, .o], sc := [], ok := fun f => f.actl == 0 }, f)
  | .br f => some ({ opc := 0x080, dst := [], sa := [], sb := [], sc := [], ok := fun f => f.mod == 0 && f.imm.toNat < 2 ^ 15, ctl := .predOnly }, f)
  | .bred f => some ({ opc := 0x189, dst := [], sa := [.g, .o], sb := [.g, .o], sc := [], ok := fun f => f.actl &&& 0x1F == 0 && f.queue ≤ 2 && f.runOk }, f)
  | .brk f => some ({ opc := 0x34b, dst := [], sa := [], sb := [], sc := [], ok := fun f => f.mod == 0 && f.imm.toNat < 2 ^ 16, ctl := .predOnly }, f)
  | .brx f => some ({ opc := 0x081, dst := [], sa := [.g, .o, .pd], sb := [], sc := [], ok := fun f => f.mod == 0 && f.imm == 0 }, f)
  | .bscl f => some ({ opc := 0x183, dst := [], sa := [.g, .o], sb := [.g, .o], sc := [], ok := fun f => f.actl == 0 && f.runOk }, f)
  | .bse f => some ({ opc := 0x085, dst := [], sa := [.s], sb := [], sc := [], ok := fun f => f.mod == 0 && f.imm.toNat < 3 * 2 ^ 15, ctl := .predOnly }, f)
  | .bsmx f => some ({ opc := 0x185, dst := [], sa := [.g, .o], sb := [.v, .g, .o], sc := [], ok := fun f => f.mod == 0 && f.actl == 0 }, f)
  | .bsync f => some ({ opc := 0x18a, dst := [], sa := [], sb := [], sc := [], ok := fun f => f.mod == 0 && f.imm == 0 }, f)
  | .call f => some ({ opc := 0x082, dst := [.g, .o], sa := [], sb := [], sc := [], ok := fun f => f.mod == 0 && f.imm.toNat < 2 ^ 15 }, f)
  | .cbacq f => some ({ opc := 0x1c4, dst := [.g, .o], sa := [], sb := [], sc := [], ok := fun f => f.mod == 0 && f.imm.toNat < 8 }, f)
  | .cbclose f => some ({ opc := 0x1c8, dst := [], sa := [], sb := [], sc := [], ok := fun f => f.mod == 0 && f.imm.toNat < 8 }, f)
  | .cbpub f => some ({ opc := 0x1c5, dst := [], sa := [], sb := [], sc := [], ok := fun f => f.mod == 0 && f.imm.toNat < 8 }, f)
  | .cbrel f => some ({ opc := 0x1c7, dst := [], sa := [], sb := [], sc := [], ok := fun f => f.mod == 0 && f.imm.toNat < 8 }, f)
  | .cbwait f => some ({ opc := 0x1c6, dst := [.g, .o], sa := [], sb := [], sc := [], ok := fun f => f.mod == 0 && f.imm.toNat < 8 }, f)
  | .cdrop f => some ({ opc := 0x043, dst := [.b], sa := [.b], sb := [], sc := [], ok := fun f => f.mod == 0 && f.imm.toNat < 128 }, f)
  | .cget f => some ({ opc := 0x044, dst := [.g, .o], sa := [.b], sb := [], sc := [], ok := fun f => f.mod == 0 && f.imm.toNat < 7 }, f)
  | .clz f => some ({ opc := 0x013, dst := [.g, .o], sa := [.g, .o, .pd, .imm], sb := [], sc := [], ok := fun f => f.actl == 0 && f.immUsed }, f)
  | .cmp f => some ({ opc := 0x00e, dst := [.g, .o, .k], sa := [.g, .o, .pd, .imm], sb := [.g, .o, .pd, .imm], sc := [], ok := fun f => f.actl ≤ 9 && f.immUsed }, f)
  | .cnarrow f => some ({ opc := 0x042, dst := [.b], sa := [.b], sb := [.g, .o], sc := [.g, .o], ok := fun f => f.mod == 0 && f.imm.toNat < 128 }, f)
  | .cont f => some ({ opc := 0x302, dst := [.g, .o], sa := [.b], sb := [.g, .o], sc := [.g, .o], ok := fun f => f.mod == 0 && f.imm.toNat < 2 ^ 15 && (¬ f.imm.getLsbD 13 || f.imm.extractLsb' 10 3 == 0) }, f)
  | .cpyScratchFromDevice f => some ({ opc := 0x200, dst := [.h], sa := [.g, .o, .k], sb := [.b], sc := [.g, .o], ok := fun f => f.mod == 0 && f.cpyOk && f.imm.extractLsb' 20 4 == 0 }, f)
  | .cpyDeviceFromScratch f => some ({ opc := 0x200, dst := [.h], sa := [.b], sb := [.g, .o], sc := [.g, .o], ok := fun f => f.mod == 1 && f.cpyOk && f.imm.extractLsb' 20 4 == 0 }, f)
  | .cpyScratchFromScratch f => some ({ opc := 0x200, dst := [.h], sa := [.g, .o, .k], sb := [], sc := [.g, .o], ok := fun f => f.mod == 2 && f.cpyOk && f.imm.extractLsb' 20 4 == 0 }, f)
  | .cpyDeviceFromDevice f => some ({ opc := 0x200, dst := [.h], sa := [.b], sb := [.g, .o], sc := [.b], ok := fun f => f.mod == 3 && f.cpyOk }, f)
  | .cpya f => some ({ opc := 0x202, dst := [.h], sa := [.b], sb := [.g, .o], sc := [.g, .o], ok := fun f => f.mod != 3 && f.rowOk && f.mean == false }, f)
  | .cpyx f => some ({ opc := 0x201, dst := [.h], sa := [.g, .o, .k], sb := [.b], sc := [.g, .o], ok := fun f => f.mod == 0 && f.rowOk && f.mean == false }, f)
  | .ddrop f => some ({ opc := 0x287, dst := [], sa := [.b], sb := [], sc := [], ok := fun f => f.mod == 0 && f.imm == 0 }, f)
  | .div f => some ({ opc := 0x004, dst := [.g, .o], sa := [.g, .o, .pd, .imm], sb := [.g, .o, .pd, .imm], sc := [], ok := fun f => f.actl &&& 0xEF == 0 && f.immUsed }, f)
  | .done f => some ({ opc := 0x2c3, dst := [], sa := [.g, .o], sb := [], sc := [], ok := fun f => f.mod == 0 && f.barOk }, f)
  | .dreg f => some ({ opc := 0x286, dst := [.b], sa := [.b], sb := [.g, .b], sc := [.g, .b], ok := Fld.dregOk, cls := Fld.dregCls }, f)
  | .dstat f => some ({ opc := 0x289, dst := [.g, .o], sa := [.b], sb := [.g, .o], sc := [], ok := fun f => f.mod == 0 && f.imm == 0, tag := .optG0 }, f)
  | .dsync f => some ({ opc := 0x288, dst := [.h], sa := [.b], sb := [], sc := [], ok := fun f => f.mod == 0 && f.imm == 0 }, f)
  | .ebag f => some ({ opc := 0x203, dst := [.h], sa := [.g, .o, .k], sb := [.b], sc := [.g, .o], ok := fun f => f.mod != 3 && f.rowOk }, f)
  | .endCtx f => some ({ opc := 0x086, dst := [], sa := [], sb := [], sc := [], ok := fun f => f.mod == 0 && f.imm == 0 }, f)
  | .eret f => some ({ opc := 0x348, dst := [], sa := [], sb := [], sc := [], ok := fun f => f.mod == 0 && f.imm == 0, ctl := .none }, f)
  | .evsig f => some ({ opc := 0x2c6, dst := [], sa := [.g, .o], sb := [], sc := [], ok := fun f => f.mod == 0 && (f.ord == 0 || f.ord == 2) && f.scope == 0 && f.hint == 0 }, f)
  | .ext f => some ({ opc := 0x012, dst := [.g, .o], sa := [.g, .o, .pd, .imm], sb := [], sc := [], ok := fun f => f.actl == 0 && f.immUsed }, f)
  | .fcancel f => some ({ opc := 0x209, dst := [], sa := [.h], sb := [], sc := [], ok := fun f => f.mod == 0 && f.imm == 0 }, f)
  | .feat f => some ({ opc := 0x349, dst := [.g, .o], sa := [], sb := [], sc := [], ok := fun f => f.mod == 0 && f.imm.toNat < 32 && f.imm.toNat % 16 < 4 }, f)
  | .fence f => some ({ opc := 0x2c5, dst := [], sa := [], sb := [], sc := [], ok := fun f => f.mod == 0 && f.off24 == 0 && f.ord == 0 && f.hint == 0 && f.scope ≤ 4 }, f)
  | .fenceWin f => some ({ opc := 0x2c5, dst := [], sa := [], sb := [], sc := [], ok := fun f => f.mod == 0 && f.off24 == 0 && f.ord == 0 && f.hint == 1 && f.scope ≤ 4 }, f)
  | .fjoin f => some ({ opc := 0x20a, dst := [.h], sa := [.h], sb := [.h], sc := [], ok := fun f => f.mod == 0 && f.imm == 0, cls := fun f => if f.sa = f.sb then some f.sb else none }, f)
  | .fmtp f => some ({ opc := 0x240, dst := [], sa := [], sb := [], sc := [], ok := fun f => f.mod == 0 && f.imm.toNat < 2 ^ 15 && (f.imm.extractLsb' 12 3).toNat ≤ 4 && f.imm.extractLsb' 10 2 != 3 && f.imm.extractLsb' 8 2 != 3 }, f)
  | .frest f => some ({ opc := 0x347, dst := [.h], sa := [.g, .o], sb := [.b], sc := [.g, .o], ok := fun f => f.mod == 0 && f.imm == 0 }, f)
  | .fsave f => some ({ opc := 0x346, dst := [.h], sa := [.g, .o], sb := [.b], sc := [.g, .o], ok := fun f => f.mod == 0 && f.imm == 0 }, f)
  | .ftest f => some ({ opc := 0x208, dst := [.g, .o], sa := [.h], sb := [], sc := [], ok := fun f => f.mod == 0 && f.imm == 0 }, f)
  | .fwait f => some ({ opc := 0x207, dst := [.g, .o], sa := [.h], sb := [], sc := [], ok := fun f => f.mod == 0 && f.imm == 0 }, f)
  | .gets f => some ({ opc := 0x340, dst := [.g, .o], sa := [], sb := [], sc := [], ok := fun f => f.mod == 0 && sysregAssigned f.imm.toNat, tag := .cycle }, f)
  | .idle f => some ({ opc := 0x34a, dst := [.g, .o], sa := [], sb := [], sc := [], ok := fun f => f.mod == 0 && f.imm.toNat < 2 ^ 16 }, f)
  | .jbind f => some ({ opc := 0x280, dst := [.s], sa := [.b], sb := [.g, .o], sc := [.g, .o], ok := fun f => f.mod != 3 && f.imm == 0 }, f)
  | .job f => some ({ opc := 0x301, dst := [], sa := [.b], sb := [.g, .o], sc := [], ok := fun f => f.mod == 0 && f.actl == 0 }, f)
  | .join f => some ({ opc := 0x303, dst := [], sa := [.g, .o], sb := [], sc := [], ok := fun f => f.mod == 0 && f.imm == 0 }, f)
  | .jtabScratch f => some ({ opc := 0x084, dst := [], sa := [.g, .o], sb := [.g, .o], sc := [], ok := fun f => f.mod == 0 && f.imm != 0 && f.imm.toNat < 2 ^ 16 }, f)
  | .jtabDevice f => some ({ opc := 0x084, dst := [], sa := [.g, .o], sb := [.b], sc := [.g, .o], ok := fun f => f.mod == 1 && f.imm != 0 && f.imm.toNat < 2 ^ 16 }, f)
  | .kacc f => some ({ opc := 0x285, dst := [], sa := [.g, .o, .b], sb := [.g, .o], sc := [.v, .g, .o], ok := fun f => f.tableOk }, f)
  | .kcnt f => some ({ opc := 0x283, dst := [.g, .o], sa := [.s], sb := [], sc := [], ok := fun f => f.mod ≤ 1 && f.imm == 0 }, f)
  | .kisect f => some ({ opc := 0x282, dst := [.g, .o], sa := [.s], sb := [.s], sc := [], ok := fun f => f.mod == 0 && f.imm == 0, cls := fun f => if f.sa = f.sb then some f.sb else none }, f)
  | .klook f => some ({ opc := 0x284, dst := [.g, .o], sa := [.g, .o, .b], sb := [.g, .o], sc := [], ok := fun f => f.mod == 0 && f.tableOk, tag := .optG0 }, f)
  | .kseek f => some ({ opc := 0x281, dst := [], sa := [.s], sb := [.g, .o], sc := [], ok := fun f => f.mod == 0 && f.imm == 0 }, f)
  | .klog f => some ({ opc := 0x040, dst := [.k], sa := [.k], sb := [.k], sc := [], ok := fun f => f.mod == 0 && f.imm ≤ 5 }, f)
  | .kmov f => some ({ opc := 0x041, dst := [.g, .o, .k], sa := [.g, .o, .pd, .imm, .k], sb := [], sc := [], ok := fun f => f.mod == 0 && f.actl == 0 && f.immUsed, cls := Fld.kmovPair }, f)
  | .ld f => some ({ opc := 0x100, dst := [.g, .o], sa := [.g, .o], sb := [], sc := [], ok := fun f => f.modxLoad 0, tag := .optG0 }, f)
  | .ldg f => some ({ opc := 0x102, dst := [.g, .o], sa := [.b], sb := [.g, .o], sc := [], ok := fun f => f.modxLoad 1, tag := .optG0 }, f)
  | .ldc f => some ({ opc := 0x045, dst := [.b], sa := [.b], sb := [.g, .o], sc := [], ok := fun f => f.mod == 0 && f.actl == 0, tag := .need }, f)
  | .lease f => some ({ opc := 0x343, dst := [.h], sa := [.b], sb := [.g, .o], sc := [.g, .o], ok := fun f => f.mod == 0 && f.imm.toNat < 2 ^ 18 && f.idOpt }, f)
  | .lfree f => some ({ opc := 0x344, dst := [], sa := [.g, .o], sb := [], sc := [], ok := fun f => f.mod == 0 && f.imm == 0 }, f)
  | .max f => some ({ opc := 0x00d, dst := [.g, .o], sa := [.g, .o, .pd, .imm], sb := [.g, .o, .pd, .imm], sc := [], ok := fun f => f.actl &&& 0xEF == 0 && f.immUsed }, f)
  | .min f => some ({ opc := 0x00c, dst := [.g, .o], sa := [.g, .o, .pd, .imm], sb := [.g, .o, .pd, .imm], sc := [], ok := fun f => f.actl &&& 0xEF == 0 && f.immUsed }, f)
  | .mlda f => some ({ opc := 0x241, dst := [], sa := [.g, .o], sb := [.v], sc := [.g, .o], ok := fun f => f.mod == 0 && (f.imm == 64 || f.imm == 128 || f.imm == 192 || f.imm == 256) }, f)
  | .mldb f => some ({ opc := 0x242, dst := [], sa := [.g, .o], sb := [], sc := [], ok := fun f => f.mod == 0 && 64 ≤ f.imm.toNat && f.imm.toNat ≤ 16384 && f.imm.toNat % 64 == 0 }, f)
  | .mmac f => some ({ opc := 0x244, dst := [], sa := [], sb := [], sc := [], ok := fun f => f.mod == 0 && f.imm.extractLsb' 10 20 == 0 && f.kc != 0 }, f)
  | .mmacg f => some ({ opc := 0x245, dst := [], sa := [], sb := [], sc := [], ok := fun f => f.mod == 0 && f.imm.extractLsb' 10 20 == 0 && f.kc != 0 && f.accN % 2 == 0 }, f)
  | .mmvb f => some ({ opc := 0x246, dst := [.h], sa := [.g, .o], sb := [.v], sc := [.v], ok := fun f => f.mod == 0 && f.imm.extractLsb' 16 9 == 0 && f.idOpt }, f)
  | .mov f => some ({ opc := 0x011, dst := [.g, .o, .h, .b], sa := [.g, .o, .pd, .imm, .h, .s, .b], sb := [], sc := [], ok := fun f => f.mod == 3 && f.actl == 0 && f.immUsed, cls := Fld.movPair }, f)
  | .movi f => some ({ opc := 0x010, dst := [.g, .o], sa := [], sb := [], sc := [], ok := fun _ => true }, f)
  | .mscl f => some ({ opc := 0x243, dst := [], sa := [.g, .o], sb := [], sc := [], ok := fun f => f.mod == 0 && f.imm.toNat < 2 ^ 16 }, f)
  | .msgScratch f => some ({ opc := 0x206, dst := [], sa := [.g, .o], sb := [.g, .o], sc := [.g, .o], ok := fun f => f.mod == 0 && f.imm == 0 }, f)
  | .msgHandler f => some ({ opc := 0x206, dst := [], sa := [.b], sb := [.g, .o], sc := [.g], ok := fun f => f.mod == 1 && f.actl == 0 && f.imm.extractLsb' 4 14 == 0 }, f)
  | .mst f => some ({ opc := 0x248, dst := [], sa := [.g, .o], sb := [.g, .o], sc := [.g, .o], ok := fun f => f.mod == 0 && f.imm.extractLsb' 0 30 == 0 }, f)
  | .mul f => some ({ opc := 0x002, dst := [.g, .o], sa := [.g, .o, .pd, .imm], sb := [.g, .o, .pd, .imm], sc := [], ok := fun f => f.actl == 0 && f.immUsed }, f)
  | .mulh f => some ({ opc := 0x003, dst := [.g, .o], sa := [.g, .o, .pd, .imm], sb := [.g, .o, .pd, .imm], sc := [], ok := fun f => f.actl &&& 0xEF == 0 && f.immUsed }, f)
  | .mzero f => some ({ opc := 0x247, dst := [], sa := [], sb := [], sc := [], ok := fun f => f.mod == 0 && f.imm.extractLsb' 0 30 == 0 }, f)
  | .nop f => some ({ opc := 0x088, dst := [], sa := [], sb := [], sc := [], ok := fun f => f.mod == 0 && f.imm == 0 }, f)
  | .or f => some ({ opc := 0x007, dst := [.g, .o], sa := [.g, .o, .pd, .imm], sb := [.g, .o, .pd, .imm], sc := [], ok := fun f => f.actl == 0 && f.immUsed }, f)
  | .phase f => some ({ opc := 0x2c4, dst := [], sa := [], sb := [], sc := [], ok := fun f => f.mod == 0 && f.off24 == 0 && f.ord == 0 && f.hint == 0 && f.scope ≤ 4 }, f)
  | .popc f => some ({ opc := 0x014, dst := [.g, .o], sa := [.g, .o, .pd, .imm], sb := [], sc := [], ok := fun f => f.actl == 0 && f.immUsed }, f)
  | .qfence f => some ({ opc := 0x204, dst := [], sa := [], sb := [], sc := [], ok := fun f => f.mod == 0 && f.imm != 0 && f.imm.toNat < 16 }, f)
  | .rally f => some ({ opc := 0x087, dst := [], sa := [], sb := [], sc := [], ok := fun f => f.mod == 0 && f.imm.toNat < 256 }, f)
  | .rem f => some ({ opc := 0x005, dst := [.g, .o], sa := [.g, .o, .pd, .imm], sb := [.g, .o, .pd, .imm], sc := [], ok := fun f => f.actl &&& 0xEF == 0 && f.immUsed }, f)
  | .ret f => some ({ opc := 0x083, dst := [], sa := [.g, .o, .pd], sb := [], sc := [], ok := fun f => f.mod == 0 && f.imm == 0 }, f)
  | .sar f => some ({ opc := 0x00b, dst := [.g, .o], sa := [.g, .o, .pd, .imm], sb := [.g, .o, .pd, .imm], sc := [], ok := fun f => f.actl == 0 && f.immUsed }, f)
  | .shl f => some ({ opc := 0x009, dst := [.g, .o], sa := [.g, .o, .pd, .imm], sb := [.g, .o, .pd, .imm], sc := [], ok := fun f => f.actl == 0 && f.immUsed }, f)
  | .shr f => some ({ opc := 0x00a, dst := [.g, .o], sa := [.g, .o, .pd, .imm], sb := [.g, .o, .pd, .imm], sc := [], ok := fun f => f.actl == 0 && f.immUsed }, f)
  | .sbind f => some ({ opc := 0x1c0, dst := [.s], sa := [.g, .o], sb := [], sc := [], ok := fun f => f.mod == 0 && f.actl == 0 }, f)
  | .sskip f => some ({ opc := 0x1c1, dst := [], sa := [.s], sb := [.g, .o], sc := [], ok := fun f => f.mod == 0 && f.imm == 0 }, f)
  | .sposRead f => some ({ opc := 0x1c2, dst := [.g, .o], sa := [.s], sb := [], sc := [], ok := fun f => f.mod == 0 && f.imm == 0 }, f)
  | .sposSet f => some ({ opc := 0x1c2, dst := [], sa := [.s], sb := [.g, .o], sc := [], ok := fun f => f.mod == 1 && f.imm == 0 }, f)
  | .sfree f => some ({ opc := 0x1c3, dst := [], sa := [.s], sb := [], sc := [], ok := fun f => f.mod == 0 && f.imm == 0 }, f)
  | .sel f => some ({ opc := 0x00f, dst := [.g, .o], sa := [.g, .o, .pd, .imm], sb := [.g, .o, .pd, .imm], sc := [.k], ok := fun f => f.actl == 0 && f.immUsed }, f)
  | .sems f => some ({ opc := 0x1ca, dst := [], sa := [], sb := [], sc := [], ok := fun f => f.mod == 0 && f.imm.toNat < 8 }, f)
  | .semw f => some ({ opc := 0x1c9, dst := [], sa := [], sb := [], sc := [], ok := fun f => f.mod == 0 && f.imm.toNat < 8 }, f)
  | .sets f => some ({ opc := 0x341, dst := [], sa := [.g, .o, .pd], sb := [], sc := [], ok := fun f => f.mod == 0 && sysregAssigned f.imm.toNat }, f)
  | .sheat f => some ({ opc := 0x34e, dst := [.g, .o], sa := [.b], sb := [.g, .o], sc := [], ok := fun f => f.mod ≤ 1 && f.imm == 0 }, f)
  | .shipHandler f => some ({ opc := 0x205, dst := [.h], sa := [.b], sb := [.g, .o], sc := [.g, .o], ok := fun f => f.mod == 0 && f.actl == 0 && f.imm.extractLsb' 5 13 == 0 && (f.imm.extractLsb' 0 5).toNat < 16 }, f)
  | .shipRed f => some ({ opc := 0x205, dst := [.h], sa := [.b], sb := [.g, .o], sc := [.g, .o], ok := fun f => f.mod == 0 && f.actl == 0 && f.imm.extractLsb' 5 13 == 0 && f.imm.extractLsb' 0 5 == 16 }, f)
  | .slotset f => some ({ opc := 0x345, dst := [], sa := [.g, .o], sb := [], sc := [], ok := fun f => f.mod == 0 && f.imm == 0 }, f)
  | .spawn f => some ({ opc := 0x300, dst := [], sa := [.g, .o], sb := [.g, .o], sc := [.g, .o], ok := Fld.spawnOk }, f)
  | .st f => some ({ opc := 0x101, dst := [], sa := [.g, .o], sb := [.g, .o, .pd], sc := [], ok := fun f => f.modxStore 0 }, f)
  | .stg f => some ({ opc := 0x103, dst := [], sa := [.b], sb := [.g, .o], sc := [.g, .o, .pd], ok := fun f => f.modxStore 1 }, f)
  | .stc f => some ({ opc := 0x046, dst := [], sa := [.b], sb := [.g, .o], sc := [.b], ok := fun f => f.mod == 0 && f.actl == 0 }, f)
  | .sub f => some ({ opc := 0x001, dst := [.g, .o], sa := [.g, .o, .pd, .imm], sb := [.g, .o, .pd, .imm], sc := [], ok := fun f => f.actl == 0 && f.immUsed }, f)
  | .svc f => some ({ opc := 0x34c, dst := [], sa := [], sb := [], sc := [], ok := fun f => f.mod == 0 && f.imm.toNat < 2 ^ 16, ctl := .predOnly }, f)
  | .vabs f => some ({ opc := 0x0d1, dst := [.v], sa := [.v, .g, .o, .pd], sb := [], sc := [], ok := fun f => f.imm == 0 }, f)
  | .vadd f => some ({ opc := 0x0c0, dst := [.v], sa := [.v, .g, .o, .pd], sb := [.v, .g, .o, .pd, .imm], sc := [], ok := fun f => f.actl == 0 && f.immUsedB }, f)
  | .vsub f => some ({ opc := 0x0c1, dst := [.v], sa := [.v, .g, .o, .pd], sb := [.v, .g, .o, .pd, .imm], sc := [], ok := fun f => f.actl == 0 && f.immUsedB }, f)
  | .vmul f => some ({ opc := 0x0c2, dst := [.v], sa := [.v, .g, .o, .pd], sb := [.v, .g, .o, .pd, .imm], sc := [], ok := fun f => f.actl == 0 && f.immUsedB }, f)
  | .vfma f => some ({ opc := 0x0c3, dst := [.v], sa := [.v, .g, .o, .pd], sb := [.v, .g, .o, .pd, .imm], sc := [.v, .g, .o, .pd], ok := fun f => f.actl == 0 && f.immUsedB }, f)
  | .vmin f => some ({ opc := 0x0c4, dst := [.v], sa := [.v, .g, .o, .pd], sb := [.v, .g, .o, .pd, .imm], sc := [], ok := fun f => (f.actl == 0 || f.actl == 0x10 && f.mod == 3) && f.immUsedB }, f)
  | .vmax f => some ({ opc := 0x0c5, dst := [.v], sa := [.v, .g, .o, .pd], sb := [.v, .g, .o, .pd, .imm], sc := [], ok := fun f => (f.actl == 0 || f.actl == 0x10 && f.mod == 3) && f.immUsedB }, f)
  | .vand f => some ({ opc := 0x0cc, dst := [.v], sa := [.v, .g, .o, .pd], sb := [.v, .g, .o, .pd, .imm], sc := [], ok := fun f => f.actl == 0 && f.immUsedB }, f)
  | .vor f => some ({ opc := 0x0cd, dst := [.v], sa := [.v, .g, .o, .pd], sb := [.v, .g, .o, .pd, .imm], sc := [], ok := fun f => f.actl == 0 && f.immUsedB }, f)
  | .vxor f => some ({ opc := 0x0ce, dst := [.v], sa := [.v, .g, .o, .pd], sb := [.v, .g, .o, .pd, .imm], sc := [], ok := fun f => f.actl == 0 && f.immUsedB }, f)
  | .vshl f => some ({ opc := 0x0cf, dst := [.v], sa := [.v, .g, .o, .pd], sb := [.v, .g, .o, .pd, .imm], sc := [], ok := fun f => f.actl == 0 && f.immUsedB }, f)
  | .vshr f => some ({ opc := 0x0d0, dst := [.v], sa := [.v, .g, .o, .pd], sb := [.v, .g, .o, .pd, .imm], sc := [], ok := fun f => f.actl &&& 0xEF == 0 && f.immUsedB }, f)
  | .vrcp f => some ({ opc := 0x0c6, dst := [.v], sa := [.v, .g, .o, .pd], sb := [], sc := [], ok := fun f => f.mod != 3 && f.imm == 0 }, f)
  | .vrsq f => some ({ opc := 0x0c7, dst := [.v], sa := [.v, .g, .o, .pd], sb := [], sc := [], ok := fun f => f.mod != 3 && f.imm == 0 }, f)
  | .vexp f => some ({ opc := 0x0c8, dst := [.v], sa := [.v, .g, .o, .pd], sb := [], sc := [], ok := fun f => f.mod != 3 && f.imm == 0 }, f)
  | .vsel f => some ({ opc := 0x0cb, dst := [.v], sa := [.v, .g, .o, .pd], sb := [.v, .g, .o, .pd, .imm], sc := [.k], ok := fun f => f.actl == 0 && f.immUsedB }, f)
  | .vbcst f => some ({ opc := 0x0d4, dst := [.v], sa := [.v, .g, .o, .pd], sb := [], sc := [], ok := fun f => f.imm.toNat < 64 && (f.imm == 0 || f.sa.isV || f.sa.isPd) }, f)
  | .vgetl f => some ({ opc := 0x0d5, dst := [.g, .o], sa := [.v, .pd], sb := [.g, .o, .imm], sc := [], ok := fun f => f.actl == 0 && f.immUsedB }, f)
  | .viota f => some ({ opc := 0x0d7, dst := [.v], sa := [], sb := [], sc := [], ok := fun f => f.imm == 0 }, f)
  | .vperm f => some ({ opc := 0x0d3, dst := [.v], sa := [.v, .pd], sb := [.v, .pd], sc := [], ok := fun f => f.imm == 0 }, f)
  | .vsetl f => some ({ opc := 0x0d6, dst := [.v], sa := [.g, .o, .pd], sb := [.g, .o, .imm], sc := [], ok := fun f => f.actl == 0 && f.immUsedB }, f)
  | .vcmp f => some ({ opc := 0x0ca, dst := [.k], sa := [.v, .g, .o, .pd], sb := [.v, .g, .o, .pd, .imm], sc := [], ok := fun f => f.actl ≤ 9 && f.immUsedB && (f.mod == 3 || ¬ (f.actl == 4 || f.actl == 5 || f.actl == 8 || f.actl == 9)) }, f)
  | .vcvt f => some ({ opc := 0x0c9, dst := [.v], sa := [.v, .g, .o, .pd], sb := [], sc := [], ok := fun f => f.imm.toNat < 4 }, f)
  | .vred f => some ({ opc := 0x0d2, dst := [.v], sa := [.v, .g, .o, .pd], sb := [], sc := [], ok := fun f => f.actl ≤ 2 && f.off24 == 0 }, f)
  | .vscan f => some ({ opc := 0x0d8, dst := [.v], sa := [.v, .g, .o, .pd], sb := [], sc := [], ok := fun f => f.actl ≤ 2 && f.off24 == 0 }, f)
  | .vared f => some ({ opc := 0x143, dst := [], sa := [.g, .o, .b], sb := [.g, .o], sc := [.v, .pd], ok := fun f => f.mod == 3 && f.modxAtom && f.atomOp == 0 }, f)
  | .vgath f => some ({ opc := 0x108, dst := [.v], sa := [.g, .o], sb := [.v], sc := [], ok := fun f => f.mod == 2 && f.imm == 0, tag := .need }, f)
  | .vscat f => some ({ opc := 0x109, dst := [], sa := [.g, .o], sb := [.v], sc := [.v, .pd], ok := fun f => f.mod == 2 && f.modxStore 0 && f.off24 == 0 }, f)
  | .vld f => some ({ opc := 0x104, dst := [.v], sa := [.g, .o], sb := [], sc := [], ok := fun f => f.mod == 3 && f.modxLoad 0, tag := .need }, f)
  | .vst f => some ({ opc := 0x105, dst := [], sa := [.g, .o], sb := [.v, .pd], sc := [], ok := fun f => f.mod == 3 && f.modxStore 0 }, f)
  | .vldg f => some ({ opc := 0x106, dst := [.v], sa := [.b], sb := [.g, .o], sc := [], ok := fun f => f.mod == 3 && f.modxLoad 1, tag := .need }, f)
  | .vstg f => some ({ opc := 0x107, dst := [], sa := [.b], sb := [.g, .o], sc := [.v, .pd], ok := fun f => f.mod == 3 && f.modxStore 1 }, f)
  | .xbegin f => some ({ opc := 0x2c7, dst := [], sa := [.g, .o], sb := [], sc := [], ok := fun f => f.mod == 0 && f.imm.toNat < 2 ^ 16 && (f.idScope == 1 || f.idScope == 2) }, f)
  | .xsend f => some ({ opc := 0x2c8, dst := [], sa := [.g, .o], sb := [.v], sc := [], ok := fun f => f.mod == 0 && f.imm.toNat < 1024 }, f)
  | .xend f => some ({ opc := 0x2c9, dst := [], sa := [], sb := [], sc := [], ok := fun f => f.mod == 0 && f.imm == 0 }, f)
  | .xflush f => some ({ opc := 0x342, dst := [], sa := [.g, .o], sb := [], sc := [], ok := fun f => f.mod == 0 && f.imm == 0 }, f)
  | .xmig f => some ({ opc := 0x34d, dst := [], sa := [.b], sb := [.g, .o], sc := [.g, .o], ok := fun f => f.mod == 0 && f.imm == 0 }, f)
  | .xor f => some ({ opc := 0x008, dst := [.g, .o], sa := [.g, .o, .pd, .imm], sb := [.g, .o, .pd, .imm], sc := [], ok := fun f => f.actl == 0 && f.immUsed }, f)
  | .yield f => some ({ opc := 0x089, dst := [], sa := [], sb := [], sc := [], ok := fun f => f.mod == 0 && f.imm.toNat < 256 }, f)
  | .powerOn _ => none
  | .startCold _ => none
  | .startWarm _ => none
  | .startWarmPreserving _ => none
  | .heldStartRun _ => none
  | .lockFeatures => none
  | .registerWrite _ _ => none
  | .unsupportedRequest _ => none
  | .mailboxMessage _ _ => none
  | .badMailboxWrite _ => none
  | .jobCardAccept _ => none
  | .leaseGrant _ => none
  | .ctrlSpace _ => none
  | .ctrlRetire _ => none
  | .ctrlBindpage _ => none
  | .ctrlHcopy _ => none
  | .ctrlLoadstore _ => none
  | .ctrlKillJob _ => none
  | .ctrlKillFrame _ => none
  | .ctrlKillSid _ => none
  | .ctrlPreempt _ => none
  | .ctrlRestore _ => none
  | .ctrlLaunchpageRegister _ => none
  | .ctrlLaunchpageRemove _ => none
  | .ctrlColdidle _ => none
  | .ctrlAckout _ => none
  | .ctrlLink _ => none
  | .ctrlAttest _ => none
  | .ctrlUnknownKind _ => none
  | .chunkDeal _ => none
  | .spawnEntryArrival _ => none
  | .dispatchBind _ => none
  | .ageGuard _ => none
  | .recordReserved _ _ => none
  | .dctlWrite _ _ => none
  | .spillWrite _ _ => none
  | .taskStart _ _ => none
  | .taskEnd _ _ => none
  | .jobSweep _ => none
  | .decrementApply _ => none
  | .proxyForwardWrite _ _ => none
  | .mirrorEntryArrival _ _ => none
  | .mirrorReturn _ _ => none
  | .tokenPass _ => none
  | .tokenTimeout => none
  | .linkReplay _ _ => none
  | .linkFailure _ => none
  | .thermalClockLower _ => none
  | .thermalClockRaise => none
  | .thermalShutdown _ => none
  | .taggedDataArrival _ _ => none
  | .storeHomePerform _ _ => none
  | .atomicHomeApply _ => none
  | .routerAtomicForward _ _ => none
  | .atomicReply _ => none
  | .bankCommandPerform _ _ => none
  | .copyBegin _ _ _ => none
  | .copyComplete _ _ => none
  | .matrixQueuePerform _ _ => none
  | .matrixStep _ => none
  | .streamElementFetch _ _ => none
  | .causeArrival _ _ => none
  | .impreciseDelivery _ => none
  | .tollgateBarrierArrive _ _ _ => none
  | .tollgateBarrierLoad _ _ => none
  | .tollgateBarrierConfig _ _ _ => none
  | .tollgateMutexAcquire _ _ => none
  | .tollgateMutexFree _ _ _ => none
  | .tollgateEventWait _ _ => none
  | .tollgateEventSignal _ _ => none
  | .tollgateEventClear _ _ => none
  | .routerArrivalForward _ => none
  | .barrierRootArrival _ => none
  | .barrierReleaseArrival _ => none
  | .xbeginRelease _ => none
  | .xsendSlotSend _ => none
  | .frameSaveComplete _ => none
  | .preemptAbandon _ => none
  | .frameRestoreBind _ => none
  | .leaseExtensionPinned _ => none
  | .staleReadHold _ _ => none
  | .tileRecompute _ _ => none
  | .slabCompress _ _ _ => none
  | .slabDecode _ _ _ => none
  | .migrationCopyComplete _ => none
  | .translationWalkReply _ => none
  | .refreshSubarrayStart _ _ => none
  | .refreshSubarrayEnd _ _ => none
  | .handlerRunStart _ => none
  | .handlerRunEnd _ => none
  | .launchNotify _ _ _ => none
  | .launchComplete _ => none
  | .reductionBlockStart _ => none
  | .reductionClimbPair _ => none
  | .reductionClimbDiscard _ => none
  | .unassignedOpcode _ => none
  | .linkTrainingComplete _ => none
  | .idleTimeout _ => none
  | .rallyTimeout _ => none
  | .yieldWaitEnd _ => none

/-- The static fault of a step, if any. -/
def Instr.staticFault (i : Instr) : Option StaticFault :=
  match i.shape with
  | some (p, f) => p.check f
  | none => none

/-- An instruction that some word encodes and that passes every static check. -/
def Instr.WellFormed (i : Instr) : Bool :=
  match i.shape with
  | some (p, f) => (p.check f).isNone
  | none => false

end Sys2Proof
end

