-- ==== Sys2Proof/Decode.lean ====
section
/-! DEFINITION. Fetch lines and the decoder (spec/10_encoding.md R166 to R174, R185, R186), and after it the encoder written
from the same tables. `parse` reads the fields; `decode` also makes the static checks, and refuses by name. -/

namespace Sys2Proof

/-- Why the decoder refuses bits: the ranks 0x02 and 0x07 of R184, or not twelve bytes. -/
inductive DecodeError where
  | notOneWord
  | reserved (opc : BitVec 10)
  | operandClass (opc : BitVec 10) (o : Operand)
  deriving DecidableEq, Repr

/-- A specifier's class and index (R173, R174); none when an index bit outside the used bits is set. -/
def Operand.ofSpec (w : BitVec 9) : Option Operand :=
  let ix := w.extractLsb' 0 6
  match (w.extractLsb' 6 3).toNat with
  | 0 => some (.g ix)
  | 1 => if ix < 32 then some (.v (ix.extractLsb' 0 5)) else none
  | 2 => if ix < 8 then some (.o (ix.extractLsb' 0 3)) else none
  | 3 => if ix < 4 then some (.pd (ix.extractLsb' 0 2)) else if ix = 63 then some .imm else none
  | 4 => if ix < 8 then some (.k (ix.extractLsb' 0 3)) else none
  | 5 => if ix < 16 then some (.h (ix.extractLsb' 0 4)) else none
  | 6 => if ix < 8 then some (.s (ix.extractLsb' 0 3)) else none
  | _ => if ix < 16 then some (.b (ix.extractLsb' 0 4)) else none

/-- The opcode of a word (R171). -/
def opcodeOf (w : BitVec 96) : BitVec 10 := w.extractLsb' 86 10
/-- MOD of a word (R171). -/
def modOf (w : BitVec 96) : BitVec 2 := w.extractLsb' 32 2
/-- IMM of a word (R171). -/
def immOf (w : BitVec 96) : BitVec 32 := w.extractLsb' 0 32

/-- The fields of a word (R171); none when a specifier has a set unused index bit (R173). -/
def Fld.ofWord (w : BitVec 96) : Option Fld :=
  match Operand.ofSpec (w.extractLsb' 73 9), Operand.ofSpec (w.extractLsb' 64 9), Operand.ofSpec (w.extractLsb' 55 9),
    Operand.ofSpec (w.extractLsb' 46 9) with
  | some d, some a, some b, some c =>
    some { pk := w.extractLsb' 83 3, ps := w.getLsbD 82, dst := d, sa := a, sb := b, sc := c, talloc := w.extractLsb' 42 4,
           tw0 := w.extractLsb' 38 4, tw1 := w.extractLsb' 34 4, mod := modOf w, imm := immOf w }
  | _, _, _, _ => none

/-- Group 0x0 of the opcode map (R185): the row of an opcode index and its fields. -/
def Instr.scalarGroup (ix : Nat) (f : Fld) : Option Instr :=
  match ix with
  | 0 => some (.add f)
  | 1 => some (.sub f)
  | 2 => some (.mul f)
  | 3 => some (.mulh f)
  | 4 => some (.div f)
  | 5 => some (.rem f)
  | 6 => some (.and f)
  | 7 => some (.or f)
  | 8 => some (.xor f)
  | 9 => some (.shl f)
  | 10 => some (.shr f)
  | 11 => some (.sar f)
  | 12 => some (.min f)
  | 13 => some (.max f)
  | 14 => some (.cmp f)
  | 15 => some (.sel f)
  | 16 => some (.movi f)
  | 17 => some (.mov f)
  | 18 => some (.ext f)
  | 19 => some (.clz f)
  | 20 => some (.popc f)
  | 21 => some (.bfx f)
  | 22 => some (.bfi f)
  | _ => none

/-- Group 0x1 of the opcode map (R185): the row of an opcode index and its fields. -/
def Instr.capabilityGroup (ix : Nat) (f : Fld) : Option Instr :=
  match ix with
  | 0 => some (.klog f)
  | 1 => some (.kmov f)
  | 2 => some (.cnarrow f)
  | 3 => some (.cdrop f)
  | 4 => some (.cget f)
  | 5 => some (.ldc f)
  | 6 => some (.stc f)
  | _ => none

/-- Group 0x2 of the opcode map (R185): the row of an opcode index and its fields. -/
def Instr.controlGroup (ix : Nat) (f : Fld) : Option Instr :=
  match ix with
  | 0 => some (.br f)
  | 1 => some (.brx f)
  | 2 => some (.call f)
  | 3 => some (.ret f)
  | 4 => some (if f.mod = 1 then .jtabDevice f else .jtabScratch f)
  | 5 => some (.bse f)
  | 6 => some (.endCtx f)
  | 7 => some (.rally f)
  | 8 => some (.nop f)
  | 9 => some (.yield f)
  | _ => none

/-- Group 0x3 of the opcode map (R185): the row of an opcode index and its fields. -/
def Instr.vectorGroup (ix : Nat) (f : Fld) : Option Instr :=
  match ix with
  | 0 => some (.vadd f)
  | 1 => some (.vsub f)
  | 2 => some (.vmul f)
  | 3 => some (.vfma f)
  | 4 => some (.vmin f)
  | 5 => some (.vmax f)
  | 6 => some (.vrcp f)
  | 7 => some (.vrsq f)
  | 8 => some (.vexp f)
  | 9 => some (.vcvt f)
  | 10 => some (.vcmp f)
  | 11 => some (.vsel f)
  | 12 => some (.vand f)
  | 13 => some (.vor f)
  | 14 => some (.vxor f)
  | 15 => some (.vshl f)
  | 16 => some (.vshr f)
  | 17 => some (.vabs f)
  | 18 => some (.vred f)
  | 19 => some (.vperm f)
  | 20 => some (.vbcst f)
  | 21 => some (.vgetl f)
  | 22 => some (.vsetl f)
  | 23 => some (.viota f)
  | 24 => some (.vscan f)
  | _ => none

/-- Group 0x4 of the opcode map (R185): the row of an opcode index and its fields. -/
def Instr.accessGroup (ix : Nat) (f : Fld) : Option Instr :=
  match ix with
  | 0 => some (.ld f)
  | 1 => some (.st f)
  | 2 => some (.ldg f)
  | 3 => some (.stg f)
  | 4 => some (.vld f)
  | 5 => some (.vst f)
  | 6 => some (.vldg f)
  | 7 => some (.vstg f)
  | 8 => some (.vgath f)
  | 9 => some (.vscat f)
  | _ => none

/-- Group 0x5 of the opcode map (R185): the row of an opcode index and its fields. -/
def Instr.atomicGroup (ix : Nat) (f : Fld) : Option Instr :=
  match ix with
  | 0 => some (.atom f)
  | 1 => some (.ared f)
  | 2 => some (.acas f)
  | 3 => some (.vared f)
  | _ => none

/-- Group 0x6 of the opcode map (R185): the row of an opcode index and its fields. -/
def Instr.bankGroup (ix : Nat) (f : Fld) : Option Instr :=
  match ix with
  | 0 => some (.badd f)
  | 1 => some (.bmax f)
  | 2 => some (.bmin f)
  | 3 => some (.bscl f)
  | 4 => some (.bfma f)
  | 5 => some (.bsmx f)
  | 6 => some (.bcnt f)
  | 7 => some (.bcvt f)
  | 8 => some (.bfill f)
  | 9 => some (.bred f)
  | 10 => some (.bsync f)
  | _ => none

/-- Group 0x7 of the opcode map (R185): the row of an opcode index and its fields. -/
def Instr.streamGroup (ix : Nat) (f : Fld) : Option Instr :=
  match ix with
  | 0 => some (.sbind f)
  | 1 => some (.sskip f)
  | 2 => some (if f.mod = 1 then .sposSet f else .sposRead f)
  | 3 => some (.sfree f)
  | 4 => some (.cbacq f)
  | 5 => some (.cbpub f)
  | 6 => some (.cbwait f)
  | 7 => some (.cbrel f)
  | 8 => some (.cbclose f)
  | 9 => some (.semw f)
  | 10 => some (.sems f)
  | _ => none

/-- Group 0x8 of the opcode map (R185): the row of an opcode index and its fields. -/
def Instr.engineGroup (ix : Nat) (f : Fld) : Option Instr :=
  match ix with
  | 0 => some (match f.mod.toNat with | 0 => .cpyScratchFromDevice f | 1 => .cpyDeviceFromScratch f | 2 => .cpyScratchFromScratch f | _ => .cpyDeviceFromDevice f)
  | 1 => some (.cpyx f)
  | 2 => some (.cpya f)
  | 3 => some (.ebag f)
  | 4 => some (.qfence f)
  | 5 => some (if f.imm.extractLsb' 0 5 = 16 then .shipRed f else .shipHandler f)
  | 6 => some (if f.mod = 1 then .msgHandler f else .msgScratch f)
  | 7 => some (.fwait f)
  | 8 => some (.ftest f)
  | 9 => some (.fcancel f)
  | 10 => some (.fjoin f)
  | _ => none

/-- Group 0x9 of the opcode map (R185): the row of an opcode index and its fields. -/
def Instr.matrixGroup (ix : Nat) (f : Fld) : Option Instr :=
  match ix with
  | 0 => some (.fmtp f)
  | 1 => some (.mlda f)
  | 2 => some (.mldb f)
  | 3 => some (.mscl f)
  | 4 => some (.mmac f)
  | 5 => some (.mmacg f)
  | 6 => some (.mmvb f)
  | 7 => some (.mzero f)
  | 8 => some (.mst f)
  | _ => none

/-- Group 0xA of the opcode map (R185): the row of an opcode index and its fields. -/
def Instr.joinGroup (ix : Nat) (f : Fld) : Option Instr :=
  match ix with
  | 0 => some (.jbind f)
  | 1 => some (.kseek f)
  | 2 => some (.kisect f)
  | 3 => some (.kcnt f)
  | 4 => some (.klook f)
  | 5 => some (.kacc f)
  | 6 => some (.dreg f)
  | 7 => some (.ddrop f)
  | 8 => some (.dsync f)
  | 9 => some (.dstat f)
  | _ => none

/-- Group 0xB of the opcode map (R185): the row of an opcode index and its fields. -/
def Instr.barrierGroup (ix : Nat) (f : Fld) : Option Instr :=
  match ix with
  | 0 => some (.bar f)
  | 1 => some (.bara f)
  | 2 => some (.barw f)
  | 3 => some (.done f)
  | 4 => some (.phase f)
  | 5 => some (if f.hint = 1 then .fenceWin f else .fence f)
  | 6 => some (.evsig f)
  | 7 => some (.xbegin f)
  | 8 => some (.xsend f)
  | 9 => some (.xend f)
  | _ => none

/-- Group 0xC of the opcode map (R185): the row of an opcode index and its fields. -/
def Instr.taskGroup (ix : Nat) (f : Fld) : Option Instr :=
  match ix with
  | 0 => some (.spawn f)
  | 1 => some (.job f)
  | 2 => some (.cont f)
  | 3 => some (.join f)
  | _ => none

/-- Group 0xD of the opcode map (R185): the row of an opcode index and its fields. -/
def Instr.systemGroup (ix : Nat) (f : Fld) : Option Instr :=
  match ix with
  | 0 => some (.gets f)
  | 1 => some (.sets f)
  | 2 => some (.xflush f)
  | 3 => some (.lease f)
  | 4 => some (.lfree f)
  | 5 => some (.slotset f)
  | 6 => some (.fsave f)
  | 7 => some (.frest f)
  | 8 => some (.eret f)
  | 9 => some (.feat f)
  | 10 => some (.idle f)
  | 11 => some (.brk f)
  | 12 => some (.svc f)
  | 13 => some (.xmig f)
  | 14 => some (.sheat f)
  | _ => none

/-- The opcode map (R185): none for an opcode that no row assigns (R186). A row is one form of its opcode where MOD or IMM
chooses the form. -/
def Instr.ofOpcode (opc : BitVec 10) (f : Fld) : Option Instr :=
  match opc.toNat / 64 with
  | 0 => Instr.scalarGroup (opc.toNat % 64) f
  | 1 => Instr.capabilityGroup (opc.toNat % 64) f
  | 2 => Instr.controlGroup (opc.toNat % 64) f
  | 3 => Instr.vectorGroup (opc.toNat % 64) f
  | 4 => Instr.accessGroup (opc.toNat % 64) f
  | 5 => Instr.atomicGroup (opc.toNat % 64) f
  | 6 => Instr.bankGroup (opc.toNat % 64) f
  | 7 => Instr.streamGroup (opc.toNat % 64) f
  | 8 => Instr.engineGroup (opc.toNat % 64) f
  | 9 => Instr.matrixGroup (opc.toNat % 64) f
  | 10 => Instr.joinGroup (opc.toNat % 64) f
  | 11 => Instr.barrierGroup (opc.toNat % 64) f
  | 12 => Instr.taskGroup (opc.toNat % 64) f
  | 13 => Instr.systemGroup (opc.toNat % 64) f
  | _ => none

/-- An opcode that some row assigns (R185). -/
def opcodeAssigned (opc : BitVec 10) : Bool :=
  let n := opc.toNat % 64
  match opc.toNat / 64 with
  | 0 => n ≤ 0x16 | 1 => n ≤ 6 | 2 => n ≤ 9 | 3 => n ≤ 0x18 | 4 => n ≤ 9 | 5 => n ≤ 3 | 6 => n ≤ 0xA
  | 7 => n ≤ 0xA | 8 => n ≤ 0xA | 9 => n ≤ 8 | 10 => n ≤ 9 | 11 => n ≤ 9 | 12 => n ≤ 3 | 13 => n ≤ 0xE
  | _ => false

/-- A word read into its instruction, before any check of a field's value; none only for an unreadable specifier. -/
def parse (w : BitVec 96) : Option Instr :=
  if opcodeAssigned (opcodeOf w) then
    match Fld.ofWord w with
    | some f => Instr.ofOpcode (opcodeOf w) f
    | none => none
  else some (.unassignedOpcode (opcodeOf w))

/-- The decoder: a word's instruction, or the named refusal of R173 and R184. -/
def decode (w : BitVec 96) : Except DecodeError Instr :=
  match parse w with
  | none => .error (.reserved (opcodeOf w))
  | some i =>
    match i.staticFault with
    | none => .ok i
    | some .reserved => .error (.reserved (opcodeOf w))
    | some (.operandClass o) => .error (.operandClass (opcodeOf w) o)

/-- Bytes as a little-endian number (R4). -/
def leNat : List Byte → Nat
  | [] => 0
  | b :: bs => b.toNat + 256 * leNat bs

/-- The decoder on bytes: exactly the twelve bytes of a slot (R166). -/
def decodeBytes (bs : List Byte) : Except DecodeError Instr :=
  if bs.length = 12 then decode (BitVec.ofNat 96 (leNat bs)) else .error .notOneWord

/-- The instruction of a slot whose bits are `w`, bit 0 being the least significant bit of its first byte. -/
def decodeTableWord (nbits w : Nat) : Option Instr :=
  if nbits ≤ 96 then
    match decode (BitVec.ofNat 96 (w % 2 ^ nbits)) with
    | .ok i => some i
    | .error _ => none
  else none

/-! ## The encoder -/

/-- The specifier of an operand (R173, R174). -/
def Operand.spec : Operand → BitVec 9
  | .g n => 0#3 ++ n
  | .v n => 1#3 ++ 0#1 ++ n
  | .o n => 2#3 ++ 0#3 ++ n
  | .pd n => 3#3 ++ 0#4 ++ n
  | .imm => 0x0FF
  | .k n => 4#3 ++ 0#3 ++ n
  | .h n => 5#3 ++ 0#2 ++ n
  | .s n => 6#3 ++ 0#3 ++ n
  | .b n => 7#3 ++ 0#2 ++ n

/-- The word of an opcode and its fields (R171). -/
def Fld.word (opc : BitVec 10) (f : Fld) : BitVec 96 :=
  opc ++ f.pk ++ BitVec.ofBool f.ps ++ f.dst.spec ++ f.sa.spec ++ f.sb.spec ++ f.sc.spec ++ f.talloc ++ f.tw0 ++ f.tw1 ++ f.mod ++ f.imm

/-- The word of an instruction; an event has none and gives 0. -/
def encode (i : Instr) : BitVec 96 :=
  match i.shape with
  | some (p, f) => f.word p.opc
  | none =>
    match i with
    | .unassignedOpcode opc => opc ++ 0#86
    | _ => 0

/-! ## Fetch lines -/

/-- A fetch line's 512 bits: the word of slot n (R166). -/
def slotWord (line : BitVec 512) (n : Nat) : BitVec 96 := line.extractLsb' (96 * n) 96
/-- The line word (R166). -/
def lineWord (line : BitVec 512) : BitVec 32 := line.extractLsb' 480 32
/-- TGT of slot n (R166). -/
def tgtBit (line : BitVec 512) (n : Nat) : Bool := (lineWord line).getLsbD (27 + n)
/-- PAIR bit n: slots n and n + 1 issue together (R166). -/
def pairBit (line : BitVec 512) (n : Nat) : Bool := decide (n < 4) && (lineWord line).getLsbD (23 + n)

/-- The exclusive OR of bytes 0 to n - 1 of a line (R167). -/
def xorBytes (line : BitVec 512) : Nat → Byte
  | 0 => 0
  | n + 1 => xorBytes line n ^^^ line.extractLsb' (8 * n) 8

/-- The pairing classes (R179). -/
inductive PairClass where
  | a | b | none
  deriving DecidableEq, Repr

def pairClass (opc : BitVec 10) : PairClass :=
  match opc.toNat / 64 with
  | 0 => .a | 1 => .a | 3 => .a
  | 4 => .b | 5 => .b | 6 => .b | 7 => .b | 8 => .b | 9 => .b | 10 => .b | 11 => .b | 12 => .b
  | _ => .none

/-- One class A and one class B instruction (R179). -/
def pairLegal (line : BitVec 512) (n : Nat) : Bool :=
  match pairClass (opcodeOf (slotWord line n)), pairClass (opcodeOf (slotWord line (n + 1))) with
  | .a, .b => true
  | .b, .a => true
  | _, _ => false

/-- The checks of a line at issue, in order (R168): the cause and EINFO[2:0] of the first that fails. The fourth check is of every marked
pair, whichever slot issues. `ls` says that the line stands in a loader or storer store. -/
def lineFault (line : BitVec 512) (ls : Bool) : Option (Cause × Nat) :=
  let lw := lineWord line
  if xorBytes line 60 ≠ lw.extractLsb' 0 8 then some (0x40, 0)
  else if lw.extractLsb' 8 15 ≠ 0 then some (0x03, 1)
  else if pairBit line 0 && pairBit line 1 || pairBit line 1 && pairBit line 2 || pairBit line 2 && pairBit line 3 then some (0x03, 2)
  else if ls && lw.extractLsb' 23 4 ≠ 0 then some (0x03, 3)
  else if [0, 1, 2, 3].any fun n => pairBit line n && ! pairLegal line n then some (0x03, 4)
  else none

/-- The line whose slot 0 holds `w` and is a legal target, the other slots NOP, with its parity (R166, R167). -/
def lineOfWord (w : BitVec 96) : BitVec 512 :=
  let nop : BitVec 96 := 0x220000000000000000000000
  let body : BitVec 480 := nop ++ nop ++ nop ++ nop ++ w
  let par := xorBytes (0#32 ++ body) 60
  ((1#5 ++ 0#19 ++ par : BitVec 32) ++ body)

end Sys2Proof
end

