-- ==== Sys2Proof/Config.lean ====
section
/-! DEFINITION. What one part fixes and the spec does not give: uninterpreted values (no body, so no proof can lean on one). -/

namespace Sys2Proof.Config

/-- Bits [127:0] and up of handler ROM line n (R222 gives no contents): a free value. DESIGN CHOICE, LOG 9. -/
opaque handlerRom : Nat → BitVec 512
/-- The SHA-256 of a byte string (R264): the named standard's function, left uninterpreted. DESIGN CHOICE, LOG 10. -/
opaque sha256 : List (BitVec 8) → BitVec 256
/-- The ECDSA P-256 signature made with the fused key (R264), left uninterpreted. DESIGN CHOICE, LOG 10. -/
opaque ecdsaSign : BitVec 256 → BitVec 512
/-- The place of a 64-byte unit in its pseudo-channel, by the channel and the unit's cell (R419: the device's own). DESIGN CHOICE, LOG 8. -/
opaque dramLine : Nat → Nat → Nat
/-- The part serial number (R264). DESIGN CHOICE, LOG 10. -/
opaque serial : BitVec 64
/-- Values the spec does not state, indexed by the model's free counter (State.freeTick). DESIGN CHOICE, LOG 11. -/
opaque freeValue : Nat → BitVec 64

end Sys2Proof.Config
end

