-- ==== Sys2Proof/Machine/State.lean ====
section
/-! DEFINITION. The state of one MX-L9-512A package, plain data: every register, queue and table the spec gives it, the
host's side of its mailboxes, and the model's own fields (`agenda`, `pace`, `focus`, `cur`, `via`, `trans`, `pairView`, `last`, `freeTick`). -/

namespace Sys2Proof.Machine

/-! ## Stops -/

/-- Why a step stops with a fault. -/
inductive Fault where
  /-- Raised by every instruction meaning when `cur` names no live context and no running handler: no hardware unit issues
  the instruction, so nothing happens. Safe: the model stops where no hardware step exists. -/
  | noIssuer
  deriving DecidableEq, Repr

/-- Why a step is refused. -/
inductive Refusal where
  /-- Answered by an arm of `exec` that has no meaning yet. Safe: the model gives no next state. -/
  | notModelled (mnemonic : String)
  deriving DecidableEq, Repr

/-! ## Association lists -/

/-- A finite table by key, in insertion order. -/
abbrev Assoc (κ α : Type) := List (κ × α)

/-- The value of a key. -/
def Assoc.get {κ α : Type} [DecidableEq κ] : Assoc κ α → κ → Option α
  | [], _ => none
  | (k, v) :: rest, q => if k = q then some v else Assoc.get rest q

/-- The table with the key's value set: in place, or at the end. -/
def Assoc.set {κ α : Type} [DecidableEq κ] : Assoc κ α → κ → α → Assoc κ α
  | [], q, x => [(q, x)]
  | (k, v) :: rest, q, x => if k = q then (k, x) :: rest else (k, v) :: Assoc.set rest q x

/-- The table without the key. -/
def Assoc.del {κ α : Type} [DecidableEq κ] (m : Assoc κ α) (q : κ) : Assoc κ α := m.filter fun p => decide (p.1 ≠ q)

/-! ## Contexts -/

/-- A future handle (R32). `pending n` holds operation n; `complete` keeps the word and the operations it stands for (R203); `joined`
is FJOIN's pending pair. -/
inductive Handle where
  | empty
  | pending (op : Nat)
  | complete (w : Word) (ops : List Nat)
  | joined (a b : Handle)
  deriving DecidableEq, Repr

/-- What a stream walks (R95, R121): a descriptor copy read by its MODE, or a key-directory run. -/
inductive StreamSrc where
  | strided (desc : BitVec 256)
  | csr (desc : BitVec 256)
  | rows (base first rowsz : Nat)
  | keys (cap : Cap) (lo : Nat)
  | second (cap : Cap) (first rowsz k2col : Nat)
  deriving DecidableEq, Repr

/-- A bound stream (R95, R96): its source, its element count where JBIND fixed it, the elements passed, and the flags E0 (bit 0),
E1, E2 of the last element read. `run` is the length of the whole run (R122). `ahead` holds elements fetched ahead. `turn` differs between
a register's binding and the one before it (R179, R361). -/
structure Stream where
  src : StreamSrc
  count : Nat
  run : Nat
  pos : Nat
  flags : BitVec 3
  ahead : List (Word × BitVec 3)
  turn : Bool := false
  deriving DecidableEq, Repr

/-- What an instruction left for a later pd read (R17). -/
inductive PdEntry where
  | none
  | scalar (w : Word)
  | vector (v : Vec)
  deriving DecidableEq, Repr

/-- Where bytes live: an object offset under the window (object) it is reached through, or a scratch byte (core, offset). -/
inductive Target where
  | dev (sid : Nat) (obj : Nat) (off : Nat)
  | scr (core off : Nat)
  deriving DecidableEq, Repr

/-- An object-table entry in a core's object cache (R92): its tags, and its 32 bytes. -/
structure ObjLine where
  sid : Nat
  gen : BitVec 8
  obj : Nat
  bytes : BitVec 256
  deriving DecidableEq, Repr

/-- What a device request was translated with (R92): the object entries, and the extent entry, with its EPOCH, of each slab (space, object, slab). -/
structure Trans where
  lines : List ObjLine := []
  slabs : List (Nat × Nat × Nat × BitVec 64) := []
  deriving DecidableEq, Repr

/-- The parts of a plain store not yet performed (R193). Parts of 8 aligned bytes or less are performed one at a time (R191); `cap` keeps
STC's tag (R86). `begun`: a part has been performed, and the lines of other windows hold what stood before the store (R203). `pc` is the
instruction's (R42), `trans` what it was translated with (R92), and `inOrder` marks a VSCAT, whose lanes are performed in order (R408). -/
structure HeldStore where
  parts : List (Target × List Byte)
  cap : Bool
  begun : Bool := false
  pc : Pc := 0
  trans : Trans := {}
  inOrder : Bool := false
  deriving DecidableEq, Repr

/-- The unit-space word that an access names (R81). -/
inductive UnitWord where
  | barrier (cluster n : Nat)
  | mutex (cluster n : Nat)
  | event (cluster n : Nat)
  | config (cluster n : Nat)
  | dctl (cluster : Nat)
  | spill (cluster : Nat)
  | occ0 (cluster : Nat)
  | occ1 (cluster : Nat)
  | age (cluster : Nat)
  | reserved (cluster : Nat)
  | cb (core frm n : Nat)
  | sem (core frm n : Nat)
  deriving DecidableEq, Repr

/-- The watchpoints of a core, as pairs (WBASEn, WCTLn) that stood at an issue (R391). -/
abbrev Watches := List (Word × Word)

/-- What a tagged producer waits for (R176): an access still to be performed, or (`ready`, `failed`) one performed whose data is on
its way. -/
inductive Pending where
  | load (t : Target) (bytes : Nat)
  | vload (t : Target) (mask : BitVec 32)
  | gather (ts : List (Option Target))
  | cap (t : Target)
  | unit (u : UnitWord)
  | klook (t : Target) (key : BitVec 32) (nb probe : Nat) (ws : Watches)
  | dstat (sid obj tile : Nat)
  | atomic (req : Nat) (bytes : Nat)
  | ready (w : Word)
  | readyV (v : Vec) (mask : BitVec 32)
  | readyC (c : Cap)
  | failed (p : PendCause)
  deriving DecidableEq, Repr

/-- An uncompleted tagged producer (R176): its tag, its destination, whether it is .ACQ, what it waits for, the address its cause would
carry, its PC, how many instructions its context had issued before it (R250), and what it was translated with (R92). -/
structure Outst where
  tag : BitVec 4
  dst : Operand
  acq : Bool
  what : Pending
  eaddr : Word
  pc : Pc
  seq : Nat := 0
  trans : Trans := {}
  deriving DecidableEq, Repr

/-- A barrier record (R212): the object, its id, and what is known of the phase in which the arrival was counted. `own` marks
the records that BARA keeps (at most four); BAR, XBEGIN and XEND wait on theirs. `ticket` is its arrival's. -/
structure BaraRec where
  key : ObjKey
  phase : Option (BitVec 16)
  released : Bool
  broken : Bool
  own : Bool
  ticket : Nat := 0
  deriving DecidableEq, Repr

/-- Why a context is not issuing, beside suspension: nothing; until a clock value (YIELD); RALLY, with its limit; IDLE, with its
limit; an arrived BAR, XBEGIN or XEND; an XSEND whose slot is to come, with what it sends where; an XSEND that has been sent; a unit-space
store or EVSIG with .REL on its way (R194). -/
inductive Wait where
  | none
  | yield (until_ : Nat)
  | rally (until_ : Option Nat)
  | idle (until_ : Option Nat)
  | barrier
  | xsend (until_ : Nat) (dst : Target) (v : Vec)
  | sent
  | unitRel
  deriving DecidableEq, Repr

/-- An exchange phase (R218): the schedule, the object, T once released, and whether a restore came between. -/
structure Exchange where
  sched : BitVec 1024
  key : ObjKey
  start : Option Nat
  restored : Bool
  deriving DecidableEq, Repr

/-- One context (R28, R74), or the registers of a handler run (R223). -/
structure Ctx where
  pc : Pc
  g : Vector Word 64
  o : Vector Word 8
  k : Vector Word 8
  b : Vector Cap 16
  v : Vector Vec 32
  h : Vector Handle 16
  st : Vector (Option Stream) 8
  pd : List PdEntry
  status : Word
  epc : Word
  ecause : Word
  eaddr : Word
  einfo : Word
  tvec : Word
  estatus : Word
  space : Word
  gdem : Nat
  vdem : Nat
  adem : Nat
  ended : Bool
  /-- the next issue is the first of a task or a run: its slot must be a target (R170) -/
  fresh : Bool
  pend : List PendCause
  bara : List BaraRec
  out : List Outst
  held : List HeldStore
  /-- plain stores performed at their homes and not yet published: their device parts still mark tiles (R140, R141) -/
  unmarked : List (Target × Nat)
  wait : Wait
  xch : Option Exchange
  /-- writes under one window not yet followed by FENCE.WIN (R203) -/
  win : List (Target × Nat)
  /-- imprecise causes on their way to the context; with a 0x39, how many instructions the context had issued before the matching one
  (R242, R249, R250) -/
  coming : List (PendCause × Nat)
  /-- the instructions that the context has issued (R250) -/
  issued : Nat := 0
  /-- a trap taken whose entry waits for tagged producers of the frame (R177): cause, EADDR, EINFO, EPC, and the instruction at fault -/
  owed : Option (Cause × Word × BitVec 32 × Pc × Pc)
  /-- aligned 8 bytes of device memory read before their load was issued (R193, R195), newest first -/
  early : List (Target × List Byte) := []
  deriving DecidableEq, Repr

/-! ## Frames -/

/-- A circular buffer (R34, R36). `acq` lists acquired slots: number, owner (a context, or a copy by its operation), published. -/
structure CircBuf where
  desc : BitVec 32
  free : Nat
  filled : Nat
  prodPos : Nat
  consPos : Nat
  acq : List (Nat × Option CtxKind × Nat × Bool)
  waited : List Nat
  fifo : List Nat
  closed : Bool
  abandoned : Bool
  deriving DecidableEq, Repr

/-- A scale tile loaded by MSCL (R160, R161): its format (BF16 or E8), its bytes, and the byte positions found uncorrectable. -/
structure ScaleTile where
  bf : Bool
  bits : BitVec 2048
  bad : List Nat
  deriving DecidableEq, Repr

/-- A matrix instruction in its frame's queue (R372), with the operand values it read at issue. Addresses are scratch keys; `tile` of
MST is its scale tile's place and size. -/
inductive MatCmd where
  | lda (rows : List Nat) (rowb : Nat)
  | ldb (addr len : Nat)
  | scl (sideB : Bool) (tile addr len : Nat)
  | mac (n kc : Nat)
  | macg (n kc : Nat)
  | mvb (op n : Nat) (rows : List Nat) (c u : Vec) (bar : BitVec 16)
  | zero (n : Nat)
  | store (n : Nat) (rows : List Nat) (rowb : Nat) (tile : Option (Nat × Nat))
  deriving DecidableEq, Repr

/-- A queued matrix instruction: its issuing context, command, prefix payload if any, rounding mode, the 32-cycle steps done, its word
(R253), and the scratch keys that it names by addresses with REL = 1 (R72). -/
structure MatOp where
  who : CtxKind
  cmd : MatCmd
  payload : Option (BitVec 15)
  rm : BitVec 2
  steps : Nat
  word : BitVec 96 := 0
  rels : List Nat := []
  deriving DecidableEq, Repr

/-- How a record came to be (R28, R41). -/
inductive TaskKind where
  | job
  | spawned
  | continuation
  deriving DecidableEq, Repr

/-- A task record on its way or bound (R20): its 16 bytes, level, index (R28), job slot, the parent it decrements, its kind, the
capability b1 starts with, and the space it runs in. -/
structure Task where
  bytes : BitVec 128
  level : Nat
  index : BitVec 32
  job : Nat
  parent : Word
  kind : TaskKind
  b1 : Cap
  space : Word
  deriving DecidableEq, Repr

/-- What killed a frame (R42). -/
structure KillInfo where
  cause : Cause
  ctx : Nat
  eaddr : Word
  pc : Pc
  deriving DecidableEq, Repr

/-- A frame with a bound task (R26 to R31). `tdesc` is the task-type entry. `group` names the group record of a GW > 1 task. `badA` and
`badB` are the latch bytes read from uncorrectable units (R246). -/
structure Frame where
  task : Task
  tdesc : BitVec 512
  group : Option Nat
  gbar : BitVec 16
  gidx : Nat
  block : Nat
  started : Bool
  cbs : Vector CircBuf 8
  sems : Vector (BitVec 8) 8
  acc : Vector (BitVec 65536) 4
  kindI : Vector Bool 4
  latA : BitVec 65536
  latB : BitVec 131072
  badA : List Nat
  badB : List Nat
  sclA : Vector (Option ScaleTile) 8
  sclB : Vector (Option ScaleTile) 8
  mq : List MatOp
  operrxy : Word
  /-- the byte of the latch that OPERRXY's entry names, until a step gives its coordinates (R246) -/
  operrOpen : Option Nat := none
  /-- SEMWs that wait, in issue order: semaphore and context (R390) -/
  semq : List (Nat × CtxKind)
  trappedBy : Option CtxKind
  /-- the cores the frame was saved on (R72) -/
  homes : List Nat
  killed : Option KillInfo
  deriving DecidableEq, Repr

/-- A group record (R31): its members as (core, frame), the barrier object's key, how many have ended, and the first kill. -/
structure Group where
  members : List (Nat × Nat)
  key : ObjKey
  ended : Nat
  killed : Bool
  deriving DecidableEq, Repr

/-! ## Cores -/

/-- A bank command or scratch KACC on its way (R106, R111). Addresses are scratch keys. `scaling` and `reducing` are a BSCL and a BRED with
`done` of their rows performed (R105; `ok` while none was uncorrectable), `probing` a KACC at its probe `p` (R125), and `kaccAdd` one that has
found its slot and still adds its value (R127). -/
inductive BankCmd where
  | lane (op : Nat) (fmt : Nat) (row : Nat) (b c : BitVec 512)
  | scale (fmt : Nat) (row n : Nat) (s : BitVec 512)
  | softmax (row : Nat) (b : BitVec 512)
  | count (fmt : Nat) (row : Nat) (kb : Word)
  | convert (src dst : Nat) (row : Nat)
  | fill (row : Nat) (b : BitVec 512)
  | reduce (fmt : Nat) (dest row n op : Nat)
  | kacc (fmt : Nat) (table nb probe : Nat) (key : BitVec 32) (v : BitVec 512)
  | scaling (fmt : Nat) (row n done : Nat) (s : BitVec 512)
  | reducing (fmt : Nat) (dest row n op done : Nat) (ok : Bool) (acc : BitVec 512)
  | probing (fmt : Nat) (table nb probe p : Nat) (key : BitVec 32) (v : BitVec 512)
  | kaccAdd (fmt : Nat) (table nb bucket lane : Nat) (v : BitVec 512)
  deriving DecidableEq, Repr

/-- A queued bank command with its issuer, the command index that a 0x31 reports (R107), how many instructions its context had issued
before it (R250), and the watchpoints at its issue (R391). -/
structure QueuedCmd where
  who : CtxId
  index : Nat
  cmd : BankCmd
  seq : Nat := 0
  ws : Watches := []
  deriving DecidableEq, Repr

/-- The state of a core beside its frames. `cyc0` is the clock value at which its CYCLE count was 0 (R359); `nextSlots` is
a slot table with the CYCLE count from which it applies (R395). `xsent` lists the slots in which the core has sent, each with its exchange
phase: the object and T (R219). `stepAt` is the CYCLE count at which the matrix unit's last step began (R66). -/
structure Core where
  cyc0 : Nat
  slots : Word
  nextSlots : Option (Nat × Word)
  wbase : Vector Word 4
  wctl : Vector Word 4
  errSel : BitVec 16
  lastIssue : Vector (BitVec 2) 3
  lastOpen : BitVec 2
  lstore : Assoc Nat (BitVec 512)
  sstore : Assoc Nat (BitVec 512)
  ltvec : BitVec 12
  stvec : BitVec 12
  cmds : List QueuedCmd
  xsent : List (ObjKey × Nat × Nat) := []
  stepAt : Option Nat := none
  deriving DecidableEq, Repr

/-! ## Clusters -/

/-- A tollgate barrier line (R206): configuration, arrivals, phase, contexts pending, and waiting loads. -/
structure BarLine where
  cfg : Word
  count : Nat
  phase : BitVec 16
  pending : List CtxId
  waiters : List CtxId
  deriving DecidableEq, Repr

/-- A tollgate mutex line (R207). -/
structure MutexLine where
  holder : Option CtxId
  grants : Word
  waiters : List CtxId
  deriving DecidableEq, Repr

/-- A tollgate event line (R208). -/
structure EventLine where
  count : BitVec 16
  waiters : List CtxId
  deriving DecidableEq, Repr

/-- An entry of a dispatcher source (R56, R58): its arrival number, passed-over count (R62), and its spill slot. -/
structure QEntry where
  task : Task
  seq : Nat
  passed : Nat
  spill : Option Nat
  deriving DecidableEq, Repr

/-- A dispatcher level (R59): the three sources, the pointer to the source that last won (0 dealer, 1 spawn, 2 continuation), and
the keyed mode in force and asked for (R57). -/
structure Level where
  dealer : List QEntry
  spawn : List QEntry
  cont : List QEntry
  ptr : Nat
  keyed : Bool
  deriving DecidableEq, Repr

/-- A continuation slot (R22, R43). -/
structure Cont where
  gen : BitVec 8
  live : Option (BitVec 256 × Word × Nat × Nat)
  ready : Bool
  deriving DecidableEq, Repr

/-- The state of a cluster (04, 12, 10 R166). -/
structure Cluster where
  store : Assoc Nat (BitVec 512)
  tvec : BitVec 12
  bars : Assoc Nat BarLine
  mutexes : Assoc Nat MutexLine
  events : Assoc Nat EventLine
  rsz : Nat
  keyed : BitVec 8
  spillReg : Word
  age : Nat
  levels : Vector Level 8
  reserved : Option (Nat × Nat)
  seqNo : Nat
  arriving : List (Option CtxId × Task)
  conts : Assoc Nat Cont
  deriving DecidableEq, Repr

/-! ## Package -/

/-- A lease entry in force (R50, R52): space, object, range, W and A. -/
structure LeaseEntry where
  id : Nat
  sid : Nat
  obj : Nat
  off : Nat
  len : Nat
  w : Bool
  a : Bool
  deriving DecidableEq, Repr

/-- The stage of an active job (R45, R50). -/
inductive JobStage where
  | leasing (next : Nat)
  | running
  deriving DecidableEq, Repr

/-- An active job (R21, R45): its card's 128 bytes, its stage, lease, and counts. `mirror` names the sender of a mirror job
(R266), as (package, job slot, link), and `dealt` then counts the entries it accepted. `owed` counts forwarded items whose return is owed:
records at 2 x link, decrements at 2 x link + 1. `touched` lists the clusters of the sweep set beyond SPAN;
`extNo` is the next lease extension's number less LEASECNT (R370). `chunks` lists what waits at the dealer for room in a cluster (R58): the
cluster, the first record and how many. -/
structure Job where
  card : BitVec 1024
  space : Word
  stage : JobStage
  lease : List LeaseEntry
  dealt : Nat
  sent : Nat
  received : Nat
  done : Nat
  failed : Nat
  sweep : Option (Nat × Nat)
  killed : Bool
  mirror : Option (Nat × Nat × Nat)
  owed : Assoc Nat Nat
  touched : List Nat
  extNo : Nat
  chunks : List (Nat × Nat × Nat) := []
  deriving DecidableEq, Repr

/-- An installed space (R88, R258, R259, R417): table addresses and the outbound ring. -/
structure Space where
  gen : BitVec 8
  nobj : Nat
  objTab : Nat
  taskTab : Nat
  barTab : Vector Nat 4
  hdlTab : Nat
  outPage : Nat
  seq : BitVec 32
  unacked : Nat
  heldOut : List (BitVec 512)
  lost : Bool
  deriving DecidableEq, Repr

/-- A barrier object at its root (R210 to R214, R53): phase, sum, expected extensions, done counter, COUNT where the device set it
(group domains), the contexts counted in the phase, those in earlier phases of a frozen domain, and the extension word. -/
structure Barrier where
  phase : BitVec 16
  sum : Nat
  extra : Nat
  doneCtr : Option Nat
  groupCount : Option Nat
  counted : List CtxId
  extWord : Option Word
  deriving DecidableEq, Repr

/-- An arrival on its way to a root (R211): held at the first router of `path`, or at the root when none is left; `port` is the one it came
through, `time` the clock value at which it came. `fin` marks DONE's (R212), `xch` XBEGIN's, `quiet` one that no record of the context waits on
(MMVB's); `ticket` is that of the record that does. -/
structure Arrival where
  key : ObjKey
  who : Option CtxId
  fin : Bool
  xch : Bool
  quiet : Bool
  ticket : Nat := 0
  path : List Nat := []
  port : Nat := 0
  time : Nat := 0
  deriving DecidableEq, Repr

/-- What a router has marked for an object (R211): the ports of the phase before, and those of the present one that have reported. -/
structure PortMarks where
  router : Nat
  key : ObjKey
  marked : List Nat
  ports : List Nat
  deriving DecidableEq, Repr

/-- A release on its way to a context (R211, R213), fired at clock value `time`; `xch` marks one for an XBEGIN (R218). -/
structure Release where
  who : CtxId
  key : ObjKey
  phase : BitVec 16
  broken : Bool
  xch : Bool
  time : Nat
  deriving DecidableEq, Repr

/-- A copy-engine operation (R97, R337, R130): its queue, the operands it read at issue, and where they lead. `slot` is its [cbn]
buffer and slot; `skip` marks a copy into a shut buffer (R36); `units` counts the blocks or rows done, and `acc` holds EBAG's sums. `merged`: a router has merged it with another copy, which counts the
read of the source (R98). -/
structure CopyOp where
  instr : Instr
  q : Nat
  ca : Cap
  cb : Cap
  ga : Word
  gc : Word
  vi : Vec
  mask : BitVec 32
  src : Target
  dst : Target
  slot : Option (BitVec 3 × Nat)
  skip : Bool
  begun : Bool
  units : Nat
  acc : List Nat
  err : Option Word
  cancelled : Bool
  merged : Bool := false
  deriving DecidableEq, Repr

/-- The work behind a handle. A DSYNC holds its derivation, the next tile it looks at, the tiles begun and not yet written, the number
written, and the cause that stops it from beginning more. -/
inductive OpKind where
  | copy (c : CopyOp)
  | chain (n : Nat)
  | reduce
  | dsync (deriv next : Nat) (begun : List Nat) (written : Nat) (stop : Option Cause)
  | lease (n : Nat)
  | mvb (cancelled : Bool)
  | save (n : Nat)
  | restore (n : Nat)
  deriving DecidableEq, Repr

/-- An asynchronous operation (R32, R38): its issuer, the space value it runs under, its job, its work, the PC of the instruction that
issued it (R42), and how many instructions its context had issued before that (R250). -/
structure Op where
  who : CtxId
  space : Word
  job : Nat
  kind : OpKind
  pc : Pc := 0
  seq : Nat := 0
  deriving DecidableEq, Repr

/-- An element of a core's engine order (R97, R199, R384): an operation in its queue, or a QFENCE over a set of queues, with its context (none
once the task has ended) and its word. -/
inductive QItem where
  | op (n : Nat) (q : Nat)
  | fence (mask : BitVec 4) (who : Option CtxId) (word : BitVec 96)
  deriving DecidableEq, Repr

/-- A chain of handler runs (R226, R229): its operation or its launch page, its space, its job's lease, the runs started and live,
the first fault as a completion word, and g1 of the first run. -/
structure Chain where
  op : Option Nat
  page : Option Nat
  space : Word
  job : Option Nat
  started : Nat
  live : Nat
  word : Option Word
  g1 : Word
  deriving DecidableEq, Repr

/-- A handler trigger (R223). -/
structure Trigger where
  chain : Nat
  first : Bool
  h : Nat
  off : Word
  g2 : Word
  g3 : Word
  g4 : Word
  b1 : Cap
  deriving DecidableEq, Repr

/-- What a running handler holds beside its registers (R223, R225). -/
structure Run where
  trig : Trigger
  count : Nat
  work : BitVec 16384
  deriving DecidableEq, Repr

/-- A device-form KACC (R125, R365): lane format, NB, probes, key, value, the probe it is at, and the bucket and lane it has found and still
adds to (R127), and the watchpoints at its issue (R391). -/
structure KaccReq where
  fmt : Nat
  nb : Nat
  probe : Nat
  key : BitVec 32
  v : BitVec 512
  at_ : Nat := 0
  slot : Option (Nat × Nat) := none
  ws : Watches := []
  deriving DecidableEq, Repr

/-- An atomic request (R201, R202, R217): op 16 is ACAS with comparand `y`. `merged` lists the requests that a merged request leads, in
record order, each with the level of the router whose record it is (0 a cluster's, 1 its die's, 2 the home's die's), and `led` marks those
it leads. `source` and `rid` are what it carries on a link: its core, or 1152 + the router that merged it, and the id given there. `reply` holds the old value once applied; `wants` says that the context awaits it.
`link` names a Gleit link it crosses; `wp` a watchpoint it matched and the EADDR of its report; `group` numbers the lanes of one VARED, and `quiet` marks one whose
group has raised its 0x41; `kacc` holds a KACC on the table at `t` of `bytes` bytes; `seq` counts the instructions its context had issued
before it (R250); `pc` is the instruction's (R42), `trans` what it was translated with (R92). -/
structure AtomReq where
  who : Agent
  space : Word
  t : Target
  op : Nat
  bytes : Nat
  x : Word
  y : Word
  ord : BitVec 2
  wants : Bool
  link : Option Nat
  merged : List (Nat × Nat)
  source : Nat
  rid : BitVec 16
  led : Bool
  reply : Option Word
  applied : Bool
  wp : Option (Nat × Word)
  group : Nat
  quiet : Bool
  kacc : Option KaccReq
  seq : Nat := 0
  pc : Pc := 0
  trans : Trans := {}
  deriving DecidableEq, Repr

/-- A derived target (R134 to R137): rule and parameters as DREG's IMM, the base capabilities, the target capability, its level. -/
structure Deriv where
  sid : Nat
  imm : BitVec 32
  ba : Cap
  bb : Cap
  bc : Cap
  bt : Cap
  level : Nat
  deriving DecidableEq, Repr

/-- The state of one tile (R138, R139), with the attempt of a running recompute: the GEN it began with, and its number. -/
structure Tile where
  stale : Bool
  gen : BitVec 16
  err : Bool
  busy : Option (BitVec 16 × Nat)
  deriving DecidableEq, Repr

/-- A launch page (R228, R229). `fault` is the cause of the first faulting run of the launch that is running. -/
structure LaunchPage where
  sid : Nat
  obj : Nat
  cap : Cap
  argp : Word
  sel : Word
  lstat : Word
  fault : Option Cause
  deriving DecidableEq, Repr

/-- A reduction whose result has been written (R231, R232): where its flag goes, the flag, its completion word, and the ranges written. -/
structure RedEnd where
  flagAt : Target
  flag : Word
  word : Word
  written : List (Target × Nat)
  deriving DecidableEq, Repr

/-- A reduction request (R230, R231); `done` once only its flag is still to be written. -/
structure RedReq where
  op : Nat
  cap : Cap
  off : Nat
  space : Word
  job : Nat
  done : Option RedEnd := none
  deriving DecidableEq, Repr

/-- A climbing vector (R231): the node where it waits (0 to 3 the pairs of stacks, 4 and 5 the pairs of those, 6 the root), the clock value
since when, its TAG and elements, whether it is the left operand there, and whether stack 0's vector is in it. Of that one, stack 0's
operation, space, DST, DOFF and FOFF. -/
structure Climb where
  node : Nat
  since : Nat
  tag : BitVec 56
  data : List (BitVec 32)
  left : Bool
  stack0 : Bool
  req : RedReq
  dst : Cap
  doff : Nat
  foff : Nat
  deriving DecidableEq, Repr

/-- A continuation decrement on its way (R43, R45): the id; the job that counted it as sent (none for a job's end); and what an error
record of it names: the space, and the JOB word of R42. `who` is the context that sent it (R204). `stuck` is the proxy shadow whose room it
waits for (R67). -/
structure Decrement where
  cid : Word
  job : Option Nat
  sid : Nat
  jobWord : Word
  who : Option CtxId := none
  stuck : Option (Nat × ProxyDest) := none
  deriving DecidableEq, Repr

/-- A shadow entry of a proxy queue (R67): its 32 bytes, what the device carries with it inside the package, and the context that sent it. -/
structure ProxyEntry where
  bytes : BitVec 256
  task : Option Task
  dec : Option Decrement
  who : Option CtxId := none
  deriving DecidableEq, Repr

/-- A pre-emption or a restore in progress (R68, R71): its frames, its area, and who asked. `step3` is when a pre-emption's engine operations
were drained (R69). -/
structure Preempt where
  op : Option Nat
  page : Option Nat
  save : Bool
  frames : List (Nat × Nat)
  target : Nat
  area : Target
  t0 : Nat
  step3 : Option Nat := none
  deriving DecidableEq, Repr

/-- A task that is saved and not yet restored (R68, R253): what the save area does not hold. `frm` is the number its contexts go by while
saved, 4 or above, `npend` counts the pending causes that its area holds, in CTX order, and `queue` lists its copies that had not begun and its
unsatisfied QFENCEs, in engine order (R73, R384). -/
structure Saved where
  area : Target
  core : Nat
  frm : Nat
  frame : Frame
  ctxs : List (CtxKind × Ctx)
  npend : List Nat
  queue : List QItem := []
  deriving DecidableEq, Repr

/-- A lease extension on its way (R53, R370). -/
structure LeaseExt where
  op : Nat
  job : Nat
  entry : LeaseEntry
  key : Option ObjKey
  deriving DecidableEq, Repr

/-- A slab migration in progress (R129, R235). -/
structure Migration where
  sid : Nat
  obj : Nat
  slab : Nat
  target : Nat
  was : BitVec 2
  deriving DecidableEq, Repr

/-- A Gleit link (R265). STATE: 0 disabled, 1 training, 2 up, 3 failed. -/
structure Link where
  state : BitVec 2
  peer : BitVec 8
  retry : BitVec 32
  seqNo : Nat
  deriving DecidableEq, Repr

/-- A mailbox page (R256): its bound space and its queue of messages. -/
structure Mailbox where
  sid : Option Nat
  queue : List (List Byte)
  deriving DecidableEq, Repr

/-- An extent-cache entry (R92, R128): slice, sid, gen, obj, slab, its heat count, the clock of the last request (R233), and the extent-map entry
that it holds. -/
structure Extent where
  slice : Nat
  sid : Nat
  gen : BitVec 8
  obj : Nat
  slab : Nat
  heat : Nat
  last : Nat
  ext : BitVec 64
  deriving DecidableEq, Repr

/-- A walk record of a router of the combining tree, with the child ports it has marked (R94). Routers 0 to 23 are the clusters', 24 and 25
the dies'. -/
structure Walk where
  router : Nat
  sid : Nat
  gen : BitVec 8
  obj : Nat
  slab : Nat
  ports : List Nat
  deriving DecidableEq, Repr

/-- What a slice cache may still hold of a granule (R203): its 64 bytes, and its four tags (R86), before a write made through another
window. `gone` lists the windows whose line is not this old, the writer's own among them; `only` names the one window that FENCE.WIN has left. -/
structure OldLine where
  gran : Nat
  line : BitVec 512
  tags : BitVec 4 := 0
  gone : List Nat
  only : Option Nat
  deriving DecidableEq, Repr

/-- A reply in a home's replay filter (R202): the home slice, the source (a core, or 1152 + a router), the request's id there. -/
structure ReplayEnt where
  home : Nat
  source : Nat
  id : BitVec 16
  reply : Word
  deriving DecidableEq, Repr

/-- An error of the hardware, from outside the model (R221, R251): one that a channel corrects; an uncorrectable one in device memory or
scratch (a cell key), in a slice cache's line (the granule, the slice, 16 x set + way), or in a flit of the die-to-die link. -/
inductive Upset where
  | corrected (chan : Nat)
  | dram (key : Nat)
  | scratch (key : Nat)
  | line (gran slice pos : Nat)
  | dieFlit (number : Nat)
  deriving DecidableEq, Repr

/-- What moves next: a device event, the sequencer of a core, the waystation of a slice, an early read of a context (R193), an error of the
hardware, or the START that was held (R261). -/
inductive Turn where
  | event (i : Instr)
  | issue (core : Nat) (kind : CtxKind)
  | way (slice : Nat)
  | early (c : CtxId) (t : Target)
  | upset (u : Upset)
  | start (e : StartEnv)
  deriving DecidableEq, Repr

/-- What the last issue did. -/
inductive Last where
  | retired
  | waited
  | trapped
  deriving DecidableEq, Repr

/-- The boot and status page (R260 to R262, R267, R418). `epoch` is the clock value of the last start (R359), `token` the milestone token as
this package last sent it on, and `tokTime` the clock value when it last saw one. -/
structure Boot where
  badw : BitVec 16
  starts : BitVec 16
  code : BitVec 8
  stepNo : BitVec 8
  unit : BitVec 3
  path : BitVec 2
  accept : Vector Word 4
  locked : Bool
  fwaddr : Word
  fwlen : Word
  heldStart : Option Nat
  hash : Option (BitVec 256)
  coldNext : Bool
  tokEpoch : BitVec 16
  tokPasses : BitVec 32
  token : List Byte
  tokTime : Nat
  epoch : Nat
  ownPkg : BitVec 8
  podSize : BitVec 8
  successor : BitVec 8
  replies : Assoc Nat (BitVec 128)
  coldIdle : BitVec 32
  mhz : Nat
  errlog : Word
  deriving DecidableEq, Repr

/-- The whole package. -/
structure State where
  clock : Nat
  boot : Boot
  links : Vector Link 16
  mail : Assoc Nat Mailbox
  hostMem : List Host.Cell
  interrupts : List Nat
  spaces : Assoc Nat Space
  mem : List Host.Cell
  tags : List Nat
  scr : List Host.Cell
  bad : List Nat
  badScr : List Nat
  badLine : List (Nat × Nat × Nat)
  stale : List OldLine
  pool : Assoc Nat (Nat × List Nat)
  lent : Assoc Nat Nat
  errs : Assoc Nat (BitVec 24 × BitVec 24)
  extents : List Extent
  lastUse : Assoc (Nat × Nat × Nat) Nat
  slabHome : Assoc (Nat × Nat × Nat) Nat
  walks : List Walk
  objCache : Assoc Nat (List ObjLine)
  migrations : Assoc Nat Migration
  jobs : Assoc Nat Job
  leaseExts : Assoc Nat LeaseExt
  frames : Assoc (Nat × Nat) Frame
  frozen : List ((Nat × Nat) × ObjKey × Nat × Nat × List CtxId)
  groups : Assoc Nat Group
  ctxs : Assoc Agent Ctx
  cores : Assoc Nat Core
  clusters : Assoc Nat Cluster
  decs : List Decrement
  proxies : Assoc (Nat × ProxyDest) (List ProxyEntry)
  unitq : List (CtxId × UnitWord × Word)
  barriers : Assoc ObjKey Barrier
  arrivals : List Arrival
  /-- the ports that routers have marked for barrier objects (R211) -/
  portMarks : List PortMarks
  releases : List Release
  ops : Assoc Nat Op
  engine : Assoc Nat (List QItem)
  engWin : Assoc Nat (List (Target × Nat))
  atoms : Assoc Nat AtomReq
  replay : List ReplayEnt
  atomIds : Assoc Nat Nat
  derivs : Assoc Nat Deriv
  tiles : Assoc (Nat × Nat) Tile
  handlerStore : Assoc Nat (BitVec 512)
  trigq : Assoc Nat (List Trigger)
  runs : Assoc Nat Run
  chains : Assoc Nat Chain
  pages : Assoc Nat LaunchPage
  notes : List (Nat × Word × Bool × Word × Word)
  redq : Assoc Nat (List RedReq)
  climbs : List Climb
  refresh : Assoc (Nat × Nat) (Nat × Bool)
  preempts : Assoc Nat Preempt
  saved : List Saved
  lineBack : Assoc CtxId Ctx
  completion : Option (Option Word)
  nextId : Nat
  agenda : List Turn
  pace : List Nat
  focus : Nat × CtxKind
  cur : Agent
  via : Option Nat
  trans : Trans
  pairView : Option Ctx
  last : Last
  freeTick : Nat
  deriving DecidableEq, Repr

/-! ## Initial values -/

/-- A context before any task has started on it: every register zero (DESIGN CHOICE, LOG 4). -/
def Ctx.blank : Ctx :=
  { pc := 0, g := Vector.replicate 64 0, o := Vector.replicate 8 0, k := Vector.replicate 8 0, b := Vector.replicate 16 0,
    v := Vector.replicate 32 0, h := Vector.replicate 16 .empty, st := Vector.replicate 8 none, pd := [], status := 0, epc := 0,
    ecause := 0, eaddr := 0, einfo := 0, tvec := 0, estatus := 0, space := 0, gdem := 64, vdem := 32, adem := 4, ended := false, fresh := false,
    pend := [], bara := [], out := [], held := [], unmarked := [], wait := .none, xch := none, win := [], coming := [], owed := none }

/-- A core after a start (R64, R65, R66, R241, R248, R251, R359): the slot table all open, no frame issued. -/
def Core.init (clock : Nat) : Core :=
  { cyc0 := clock, slots := 0xFFFFFFFFFFFFFFFF, nextSlots := none, wbase := Vector.replicate 4 0, wctl := Vector.replicate 4 0,
    errSel := 0, lastIssue := Vector.replicate 3 3, lastOpen := 3, lstore := [], sstore := [], ltvec := 0, stvec := 0, cmds := [] }

/-- A dispatcher level after a start: empty, its pointer at continuation (R59), FIFO (R57). -/
def Level.init : Level := { dealer := [], spawn := [], cont := [], ptr := 2, keyed := false }

/-- A cluster after a start (R57): RSZ 8, nothing keyed, no spill ring. -/
def Cluster.init : Cluster :=
  { store := [], tvec := 0, bars := [], mutexes := [], events := [], rsz := 8, keyed := 0, spillReg := 0, age := 0,
    levels := Vector.replicate 8 Level.init, reserved := none, seqNo := 0, arriving := [], conts := [] }

/-- The boot page at power-on (R260): CODE 0x01. -/
def Boot.init : Boot :=
  { badw := 0, starts := 0, code := 0x01, stepNo := 0, unit := 0, path := 0, accept := Vector.replicate 4 0, locked := false,
    fwaddr := 0, fwlen := 0, heldStart := none, hash := none, coldNext := false, tokEpoch := 0, tokPasses := 0, token := [], tokTime := 0, epoch := 0, ownPkg := 0,
    podSize := 1, successor := 0, replies := [], coldIdle := 0, mhz := 1050, errlog := 0 }

/-- The machine at power-on, before its cold start has run (R260, R261): no space, no job, no frame, memory with nothing listed. -/
def State.reset : State :=
  { clock := 0, boot := Boot.init, links := Vector.replicate 16 { state := 0, peer := 0, retry := 0, seqNo := 0 }, mail := [],
    hostMem := [], interrupts := [], spaces := [], mem := [], tags := [], scr := [], bad := [], badScr := [], badLine := [], stale := [], pool := [], lent := [], errs := [],
    extents := [], lastUse := [], slabHome := [], walks := [], objCache := [], migrations := [], jobs := [], leaseExts := [], frames := [], frozen := [],
    groups := [], ctxs := [], cores := [], clusters := [], decs := [], proxies := [], unitq := [], barriers := [], arrivals := [], portMarks := [],
    releases := [], ops := [], engine := [], engWin := [], atoms := [], replay := [], atomIds := [], derivs := [], tiles := [], handlerStore := [], trigq := [],
    runs := [], chains := [], pages := [], notes := [], redq := [], climbs := [], refresh := [], preempts := [], saved := [], lineBack := [], completion := none, nextId := 1,
    agenda := [], pace := [], focus := (0, .computer), cur := .ctx ⟨0, 0, .computer⟩, via := none, trans := {}, pairView := none, last := .retired,
    freeTick := 0 }

end Sys2Proof.Machine
end

