-- ==== Sys2Proof/Machine/Mem.lean ====
section
/-! DEFINITION. Memory: the canonical cell list, scratch, objects and their placement (spec/05_memory.md R76 to R94, R190 to R192,
R203; spec/13_near_memory.md R233 to R235). An unlisted byte reads as zero (R261; DESIGN CHOICE, LOG 6 for scratch). -/

namespace Sys2Proof.Machine

/-! ## Cell lists -/

/-- The byte at an address: zero where none is listed. -/
def memGet : List Host.Cell → Nat → Byte
  | [], _ => 0
  | (k, v) :: rest, a => if k = a then v else memGet rest a

/-- Insert or remove so that addresses rise strictly and no zero is listed. -/
def memSet : List Host.Cell → Nat → Byte → List Host.Cell
  | [], a, x => if x = 0 then [] else [(a, x)]
  | (k, v) :: rest, a, x =>
    if a < k then (if x = 0 then (k, v) :: rest else (a, x) :: (k, v) :: rest)
    else if a = k then (if x = 0 then rest else (a, x) :: rest)
    else (k, v) :: memSet rest a x

/-- n bytes from an address. -/
def memRead (m : List Host.Cell) (a : Nat) : Nat → List Byte
  | 0 => []
  | n + 1 => memGet m a :: memRead m (a + 1) n

/-- Bytes stored from an address up. -/
def memWrite (m : List Host.Cell) (a : Nat) : List Byte → List Host.Cell
  | [] => m
  | b :: bs => memWrite (memSet m a b) (a + 1) bs

/-- Every listed address is above `lo`, addresses rise strictly, and no zero is listed. -/
def Memory.above (lo : Nat) : List Host.Cell → Bool
  | [] => true
  | (k, v) :: rest => decide (lo ≤ k) && v != 0 && Memory.above (k + 1) rest

/-- The canonical form of a cell list. -/
def Memory.wf (m : List Host.Cell) : Bool := Memory.above 0 m

/-! ## Bytes and numbers, little-endian (R4) -/

/-- The n low bytes of a number. -/
def bytesOf : Nat → Nat → List Byte
  | 0, _ => []
  | n + 1, x => BitVec.ofNat 8 (x % 256) :: bytesOf n (x / 256)

def leWord (bs : List Byte) : Word := BitVec.ofNat 64 (leNat bs)
def leVec (bs : List Byte) : Vec := BitVec.ofNat 1024 (leNat bs)
def leLine (bs : List Byte) : BitVec 512 := BitVec.ofNat 512 (leNat bs)

/-- Little-endian number in bytes i to i + n - 1 of a list. -/
def leAt (bs : List Byte) (i n : Nat) : Nat := leNat ((bs.drop i).take n)

/-- Sign extension of the low w bits as an integer. -/
def sextNat (w x : Nat) : Int := if x % 2 ^ w < 2 ^ (w - 1) then ((x % 2 ^ w : Nat) : Int) else ((x % 2 ^ w : Nat) : Int) - ((2 ^ w : Nat) : Int)

/-- The 32-bit lane i of a vector. -/
def lane32 (v : Vec) (i : Nat) : BitVec 32 := v.extractLsb' (32 * i) 32

/-- w-bit lane i of a number. -/
def laneOf (w x i : Nat) : Nat := x / 2 ^ (w * i) % 2 ^ w

/-- w-bit lanes joined, lane 0 lowest. -/
def joinLanes (w : Nat) : List Nat → Nat
  | [] => 0
  | x :: xs => x % 2 ^ w + 2 ^ w * joinLanes w xs

/-- The lanes 0 to n - 1 of a number. -/
def lanesOf (w n x : Nat) : List Nat := (List.range n).map (laneOf w x)

/-! ## Cores and coordinates (R10, R11, R76, R77) -/

def coreX (c : Nat) : Nat := c % 48
def coreY (c : Nat) : Nat := c / 48
def clusterOf (c : Nat) : Nat := coreY c / 6 * 6 + coreX c / 8
def dieOf (c : Nat) : Nat := coreY c / 12
/-- The core at position p, row-major, of a cluster. -/
def coreOfCluster (cl p : Nat) : Nat := 48 * (cl / 6 * 6 + p / 8) + (cl % 6 * 8 + p % 8)

/-- COREXY (R11). -/
def corexy (c : Nat) : Word :=
  BitVec.ofNat 64 (dieOf c * 2 ^ 40 + clusterOf c * 2 ^ 32 + coreX c * 2 ^ 25 + coreY c * 2 ^ 20)

/-- The scratch key of a core's byte (R78). -/
def scrKey (core off : Nat) : Nat := core * 2 ^ 19 + off

/-- The absolute local address of a scratch byte (R76). -/
def absLocal (core off : Nat) : Nat := coreX core * 2 ^ 25 + coreY core * 2 ^ 20 + off

/-- A local address read by R76 and R77 from the issuing core: the target core, UNIT and OFFSET. None is address space (0x14). -/
def localTarget (own : Nat) (a : BitVec 32) : Option (Nat × Bool × Nat) :=
  let x : Int := if a.getLsbD 31 then (coreX own : Int) + sextNat 6 (a.extractLsb' 25 6).toNat else ((a.extractLsb' 25 6).toNat : Int)
  let y : Int := if a.getLsbD 31 then (coreY own : Int) + sextNat 5 (a.extractLsb' 20 5).toNat else ((a.extractLsb' 20 5).toNat : Int)
  if x < 0 ∨ 47 < x ∨ y < 0 ∨ 23 < y then none
  else some (48 * y.toNat + x.toNat, a.getLsbD 19, (a.extractLsb' 0 19).toNat)

/-! ## Capabilities (R83, R84) -/

namespace CapF
def tag (c : Cap) : Bool := c.getLsbD 127
def l (c : Cap) : Bool := c.getLsbD 126
def g (c : Cap) : Bool := c.getLsbD 125
def d (c : Cap) : Bool := c.getLsbD 124
def x (c : Cap) : Bool := c.getLsbD 123
def a (c : Cap) : Bool := c.getLsbD 122
def w (c : Cap) : Bool := c.getLsbD 121
def r (c : Cap) : Bool := c.getLsbD 120
def rights (c : Cap) : BitVec 7 := c.extractLsb' 120 7
def obj (c : Cap) : Nat := (c.extractLsb' 96 24).toNat
def base (c : Cap) : Nat := (c.extractLsb' 48 40).toNat
def limit (c : Cap) : Nat := (c.extractLsb' 8 40).toNat
end CapF

/-- A capability from its 16 bytes and tag (R83, R86). -/
def capOf (bs : List Byte) (tag : Bool) : Cap :=
  let v : BitVec 128 := BitVec.ofNat 128 (leNat bs)
  if tag then v ||| 0x80000000000000000000000000000000 else v &&& 0x7FFFFFFFFFFFFFFFFFFFFFFFFFFFFFFF

/-! ## Objects (R88 to R92) -/

/-- An object-table entry (R88) that can be used: placement, DERIVED, COMPRESSIBLE, slice, aliased object, extent map. -/
structure ObjEnt where
  size : Nat
  cls : Nat
  derived : Bool
  compressible : Bool
  slice : Nat
  ali : Nat
  extmap : Nat
  deriving DecidableEq, Repr

/-- The space id and the generation of a SPACE value (R87). -/
def spaceSid (sp : Word) : Nat := (sp.extractLsb' 8 12).toNat
def spaceGen (sp : Word) : BitVec 8 := sp.extractLsb' 0 8
def spaceOf (sid : Nat) (gen : BitVec 8) : Word := BitVec.ofNat 64 (sid * 256 + gen.toNat)

/-- The 32 bytes of an object's table entry, as memory holds them. -/
def State.tableBytes (s : State) (sp : Space) (obj : Nat) : List Byte := memRead s.mem (sp.objTab + 32 * obj) 32

/-- Does a cached entry hit (R92)? -/
def ObjLine.hits (e : ObjLine) (sid : Nat) (gen : BitVec 8) (obj : Nat) : Bool := e.sid == sid && e.gen == gen && e.obj == obj

/-- An object's table entry: as the request being performed was translated with it (`trans`), else as the core in `via` has it in its object
cache, else from memory (R92). -/
def State.entryBytes (s : State) (sid : Nat) (sp : Space) (obj : Nat) : List Byte :=
  let held := s.trans.lines ++ (match s.via with | some c => (s.objCache.get c).getD [] | none => [])
  match held.find? fun e => e.hits sid sp.gen obj with
  | some e => bytesOf 32 e.bytes.toNat
  | none => s.tableBytes sp obj

/-- The table entry of an object, none where R88 makes every access raise 0x10. -/
def State.objEntry (s : State) (sid obj : Nat) : Option ObjEnt :=
  match s.spaces.get sid with
  | none => none
  | some sp =>
    if sp.nobj ≤ obj then none else
    let b := s.entryBytes sid sp obj
    let c := leAt b 5 1
    let e : ObjEnt :=
      { size := leAt b 0 5, cls := c % 4, derived := c / 4 % 2 == 1, compressible := c / 8 % 2 == 1, slice := leAt b 6 1,
        ali := leAt b 8 3, extmap := leAt b 16 8 }
    if e.cls = 3 || (e.cls != 0 && decide (159 < e.slice)) then none else some e

/-- Is the SPACE value's generation the installed one (R92, R93)? -/
def State.spaceLive (s : State) (sp : Word) : Bool :=
  match s.spaces.get (spaceSid sp) with
  | some p => p.gen == spaceGen sp
  | none => false

/-- The pseudo-channel of a byte of an interleaved object (R89). -/
def channelOf (obj off : Nat) : Nat :=
  let n := off / 256
  let fold := (Nat.xor (obj * 2531) (n / 1280 * 753)) % 1280
  (n % 1280 + fold) % 1280

/-- The offset of the aliased object that an alias byte maps to (R91). -/
def aliasOff (ali slice a : Nat) : Nat :=
  let m := a / 2048
  let k := a % 2048 / 256
  let fold := (Nat.xor (ali * 2531) (m * 753)) % 1280
  (m * 1280 + (8 * slice + k + 1280 - fold) % 1280) * 256 + a % 256

/-- The place of an object's byte: the space, the object and offset that hold it (through an alias, the aliased object's), its slice, its slab
and the extent entry (R92), and the cell key (DESIGN CHOICE, LOG 8). -/
structure Place where
  sid : Nat
  obj : Nat
  off : Nat
  slice : Nat
  slab : Nat
  pool : Nat
  ext : BitVec 64
  extAddr : Nat
  key : Nat
  chan : Nat
  deriving DecidableEq, Repr

def Place.state (p : Place) : Nat := (p.ext.extractLsb' 23 2).toNat
def Place.pin (p : Place) : Bool := p.ext.getLsbD 25
def Place.pslab (p : Place) : Nat := (p.ext.extractLsb' 0 23).toNat

/-- The cell key of a byte of a physical slab (DESIGN CHOICE, LOG 8): pool 0 is the interleaved pool, pool 1 + s that of slice s. -/
def poolKey (pool pslab off : Nat) : Nat := (pool + 1) * 2 ^ 40 + pslab * 65536 + off % 65536

/-- Does an extent-cache entry hit (R92)? -/
def Extent.hits (e : Extent) (slice sid : Nat) (gen : BitVec 8) (obj slab : Nat) : Bool :=
  e.slice == slice && e.sid == sid && e.gen == gen && e.obj == obj && e.slab == slab

/-- The extent entry of a slab: as the request being performed was translated with it, else as a slice has it, in its extent cache or from the extent
map at `ea` (R92). -/
def State.extentOf (s : State) (slice sid obj slab ea : Nat) : BitVec 64 :=
  match s.trans.slabs.find? fun e => e.1 == sid && e.2.1 == obj && e.2.2.1 == slab with
  | some e => e.2.2.2
  | none =>
  match (s.spaces.get sid).bind fun sp => s.extents.find? fun e => e.hits slice sid sp.gen obj slab with
  | some e => e.ext
  | none => BitVec.ofNat 64 (leNat (memRead s.mem ea 8))

/-- Where a direct (interleaved or bank-linear) object's byte lies. A migrated slab of a bank-linear object is served by its target slice
(R413), which `slabHome` records. A PSLAB at or beyond its pool's size names cells of its own (DESIGN CHOICE, LOG 8). -/
def State.placeDirect (s : State) (sid : Nat) (e : ObjEnt) (obj off : Nat) : Place :=
  let slab := off / 65536
  let ea := e.extmap + 8 * slab
  let slice := (s.slabHome.get (sid, obj, slab)).getD e.slice
  let pool := if e.cls = 0 then 0 else 1 + slice
  let chan := if e.cls = 0 then channelOf obj off else 8 * slice + off / 4096 % 8
  let x := s.extentOf (chan / 8) sid obj slab ea
  { sid := sid, obj := obj, off := off, slice := chan / 8, slab := slab, pool := pool, ext := x, extAddr := ea,
    key := poolKey pool (x.extractLsb' 0 23).toNat off, chan := chan }

/-- Where a byte of an object lies; none beyond an object's size or where R88 gives no object. An alias whose ALIAS names no usable entry, or an object
that is not interleaved, has no place (R91; DESIGN CHOICE, LOG 111). -/
def State.place (s : State) (sid obj off : Nat) : Option Place :=
  match s.objEntry sid obj with
  | none => none
  | some e =>
    if e.cls = 2 then
      match s.objEntry sid e.ali with
      | none => none
      | some e' =>
        let o := aliasOff e.ali e.slice off
        if e'.cls = 0 ∧ o < e'.size then some (s.placeDirect sid e' e.ali o) else none
    else if off < e.size then some (s.placeDirect sid e obj off) else none

/-- The slice that serves an offset (R89 to R91); slice 0 for an offset with no place. -/
def State.sliceOf (s : State) (sid obj off : Nat) : Nat :=
  match s.place sid obj off with
  | some p => p.slice
  | none => 0

/-- OBJSIZE for the bounds check of R84; an alias is bounded by its own table SIZE, its mapping by R91. -/
def State.objSize (s : State) (sid obj : Nat) : Nat :=
  match s.objEntry sid obj with
  | some e => e.size
  | none => 0

/-- May window `win` still hold a granule's line as it stood before this write (R203)? -/
def OldLine.heldBy (e : OldLine) (win : Nat) : Bool :=
  ! e.gone.contains win && (match e.only with | some w => w == win | none => true)

/-- The line that window `win` holds of a granule: the oldest that it may still hold, none where its line is the present one (R203). -/
def State.oldLine (s : State) (gran win : Nat) : Option OldLine :=
  (s.stale.filter fun e => e.gran == gran && e.heldBy win).getLast?


/-- Insert into a strictly rising list. -/
def insertNat : List Nat → Nat → List Nat
  | [], a => [a]
  | x :: xs, a => if a < x then a :: x :: xs else if a = x then x :: xs else x :: insertNat xs a

/-- Is any of the n bytes uncorrectable (R247): in its DRAM, or in a slice cache's line (R221)? A bad line is held by aligned units of 8
bytes: the unit, the slice, and the line's place there. -/
def State.devBad (s : State) (sid obj off n : Nat) : Bool :=
  ! (s.bad.isEmpty && s.badLine.isEmpty) && (List.range n).any fun i =>
    match s.place sid obj (off + i) with
    | some p => s.bad.contains p.key || s.badLine.any fun e => e.1 == p.key / 8
    | none => false

/-! ## Error counts and the log (R251, R252, R419) -/

/-- One uncorrectable event on a channel: counted, and logged when ERRLOG is empty, else OVF (R252). -/
def State.countUnc (s : State) (cause : Cause) (chan line : Nat) : State :=
  let (c, u) := (s.errs.get chan).getD (0, 0)
  let u' : BitVec 24 := if u = 0xFFFFFF then u else u + 1
  let log : Word := if s.boot.errlog.getLsbD 63 then s.boot.errlog ||| 0x4000000000000000
    else BitVec.ofNat 64 (2 ^ 63 + cause.toNat % 128 * 2 ^ 55 + chan % 65536 * 2 ^ 36 + line % 2 ^ 36)
  { s with errs := s.errs.set chan (c, u'), boot := { s.boot with errlog := log } }

/-- One corrected event on a channel (R251). -/
def State.countCorr (s : State) (chan : Nat) : State :=
  let (c, u) := (s.errs.get chan).getD (0, 0)
  { s with errs := s.errs.set chan (if c = 0xFFFFFF then c else c + 1, u) }

/-- The channel and line of a device byte (R251, R419): its slice cache's where that line is bad, else its pseudo-channel's, where the LINE is the
part's own, one of the 512 GiB / 1,280 / 64 of a channel (DESIGN CHOICE, LOG 8). -/
def State.devChan (s : State) (sid obj off : Nat) : Nat × Nat :=
  match s.place sid obj off with
  | none => (0, 0)
  | some p =>
    match s.badLine.find? fun e => e.1 == p.key / 8 with
    | some e => (0x7000 + e.2.1, e.2.2)
    | none => (p.chan, Config.dramLine p.chan (p.key / 64) % 6710887)

/-- An error of the hardware (R221, R251): counted where it is corrected, or marked where a read will find it. -/
def State.upset (s : State) (u : Upset) : State :=
  match u with
  | .corrected chan => s.countCorr chan
  | .dram key => { s with bad := insertNat s.bad key }
  | .scratch key => { s with badScr := insertNat s.badScr key }
  | .line gran slice pos => { s with badLine := ((List.range 8).map fun i => (8 * gran + i, slice, pos)) ++ s.badLine }
  | .dieFlit n => s.countUnc 0x42 0x6010 n

/-- One byte stored at its home through window `obj`: its granule's tag is cleared (R86). -/
def State.devPut (s : State) (sid obj off : Nat) (x : Byte) : State :=
  match s.place sid obj off with
  | none => s
  | some p => { s with mem := memSet s.mem p.key x, tags := s.tags.filter (· != p.key / 16) }

/-- The granules of the interleaved pool that a range touches. -/
def State.granules (s : State) (sid obj off n : Nat) : List Nat :=
  ((List.range n).filterMap fun i => match s.place sid obj (off + i) with
    | some p => if p.pool = 0 then some (p.key / 64) else none
    | none => none).eraseDups

/-- A write through window `obj` begins (R203): other windows may go on holding its granules as they stand; `obj` holds no older line. -/
def State.noteOld (s : State) (sid obj off n : Nat) : State :=
  let gs := s.granules sid obj off n
  let aged := s.stale.map fun e => if gs.contains e.gran && ! e.gone.contains obj then { e with gone := obj :: e.gone } else e
  let tags (g : Nat) : BitVec 4 := BitVec.ofNat 4 (joinLanes 1 ((List.range 4).map fun i => (s.tags.contains (4 * g + i)).toNat))
  let new := gs.map fun g =>
    ({ gran := g, line := leLine (memRead s.mem (g * 64) 64), tags := tags g, gone := [obj], only := none } : OldLine)
  { s with stale := (new.filter fun e => ! aged.contains e) ++ aged }

/-- The `n` oldest lines that a window still holds of a granule leave it; the list is oldest first. -/
def ageLines (gran win : Nat) : Nat → List OldLine → List OldLine
  | _, [] => []
  | 0, es => es
  | n + 1, e :: es =>
    if e.gran = gran && e.heldBy win then { e with gone := win :: e.gone } :: ageLines gran win n es else e :: ageLines gran win (n + 1) es

/-- A read through window `obj` (R203): of each granule that the window may hold in an older form it finds the held line, or a later one.
Which is a free choice, made granule by granule (DESIGN CHOICE, LOG 13). -/
def State.pickLines (s : State) (sid obj off n : Nat) : State :=
  if s.stale.isEmpty then s else
  (s.granules sid obj off n).foldl (fun s g =>
    match (s.stale.filter fun e => e.gran == g && e.heldBy obj).length with
    | 0 => s
    | k => { s with stale := (ageLines g obj ((Config.freeValue (s.freeTick * 2 ^ 48 + g)).toNat % (k + 1)) s.stale.reverse).reverse }) s

/-- What slice caches hold of a physical slab of the interleaved pool is gone: another slab's bytes will lie there. -/
def State.dropLines (s : State) (key : Nat) : State :=
  { s with stale := s.stale.filter fun e => ! (decide (key / 64 ≤ e.gran) && decide (e.gran < key / 64 + 1024)) }

/-- Bytes stored at their homes from an offset up. -/
def State.devWrite (s : State) (sid obj off : Nat) : List Byte → State
  | [] => s
  | b :: bs => State.devWrite (s.devPut sid obj off b) sid obj (off + 1) bs

/-- The tag of the granule that holds an offset, as a read through window `obj` sees it: that of the line it finds (R86, R203). -/
def State.devTag (s : State) (sid obj off : Nat) : Bool :=
  match s.place sid obj off with
  | some p => (match s.oldLine (p.key / 64) obj with
    | some e => e.tags.getLsbD (p.key / 16 % 4)
    | none => s.tags.contains (p.key / 16))
  | none => false

/-- Set or clear the tag of the granule that holds an offset (R86). -/
def State.setTag (s : State) (sid obj off : Nat) (t : Bool) : State :=
  match s.place sid obj off with
  | some p => { s with tags := if t then insertNat s.tags (p.key / 16) else s.tags.filter (· != p.key / 16) }
  | none => s

/-- A capability stored whole with its TAG (R86, R400): its 128 bits, and the granule's tag bit. -/
def State.capWrite (s : State) (sid obj off : Nat) (c : Cap) : State :=
  (s.devWrite sid obj off (bytesOf 16 c.toNat)).setTag sid obj off (CapF.tag c)

/-! ## Scratch (R78, R214) -/

/-- Is a scratch byte inside a frozen allocation (R214)? -/
def State.frozenAt (s : State) (core off : Nat) : Bool :=
  s.frozen.any fun f => f.1.1 == core && decide (f.2.2.1 * 4096 ≤ off) && decide (off < (f.2.2.1 + f.2.2.2.1) * 4096)

/-- n scratch bytes of a core from an offset. -/
def State.scrRead (s : State) (core off n : Nat) : List Byte := memRead s.scr (scrKey core off) n

/-- Scratch bytes written from an offset up; a frozen allocation discards them (R214). -/
def State.scrWrite (s : State) (core off : Nat) : List Byte → State
  | [] => s
  | b :: bs =>
    State.scrWrite (if s.frozenAt core off then s else { s with scr := memSet s.scr (scrKey core off) b }) core (off + 1) bs

def State.scrBad (s : State) (core off n : Nat) : Bool :=
  ! s.badScr.isEmpty && (List.range n).any fun i => s.badScr.contains (scrKey core (off + i))

/-! ## Cold slabs (R233, R234) -/

/-- The 64-byte line that a code and its stored bytes stand for (R233), and the bytes left. -/
def decodeLine (code : Nat) (bs : List Byte) : List Byte × List Byte :=
  match code with
  | 0 => (List.replicate 64 0, bs)
  | 1 => let w := bs.take 8; (w ++ w ++ w ++ w ++ w ++ w ++ w ++ w, bs.drop 8)
  | 2 =>
    let w0 := leNat (bs.take 4)
    let ds := ((bs.drop 4).take 15).map fun b => sextNat 8 b.toNat
    let ws := ds.foldl (fun (acc : List Nat × Nat) d =>
      let w := (((acc.2 : Int) + d) % (2 ^ 32 : Int)).toNat
      (acc.1 ++ [w], w)) ([w0], w0)
    ((ws.1.map (bytesOf 4)).flatten, bs.drop 19)
  | _ => (bs.take 64, bs.drop 64)

/-- The lines of an image from its code list (R233). -/
def decodeLines : List Nat → List Byte → List Byte
  | [], _ => []
  | c :: cs, bs => let r := decodeLine c bs; r.1 ++ decodeLines cs r.2

/-- The 1,024 two-bit codes of a code map. -/
def codesOf (bs : List Byte) : List Nat := (bs.map fun b => [b.toNat % 4, b.toNat / 4 % 4, b.toNat / 16 % 4, b.toNat / 64]).flatten

/-- The byte a read through window `obj` returns (R192, R203); of a cold slab, what its image stands for (R233). -/
def State.devByte (s : State) (sid obj off : Nat) : Byte :=
  match s.place sid obj off with
  | none => 0
  | some p =>
    if p.state = 1 then
      let img := memRead s.mem (poolKey p.pool p.pslab 0) 49152
      (decodeLines (codesOf (img.take 256)) (img.drop 768)).getD (p.off % 65536) 0
    else
    match s.oldLine (p.key / 64) obj with
    | some e => e.line.extractLsb' (8 * (p.key % 64)) 8
    | none => memGet s.mem p.key

/-- n bytes of an object from an offset, as they stand at their homes (R190). -/
def State.devRead (s : State) (sid obj off : Nat) : Nat → List Byte
  | 0 => []
  | n + 1 => s.devByte sid obj off :: State.devRead s sid obj (off + 1) n

/-- A capability loaded with its granule's tag (R86). -/
def State.capRead (s : State) (sid obj off : Nat) : Cap := capOf (s.devRead sid obj off 16) (s.devTag sid obj off)

/-- The first code that represents a line exactly, with its stored bytes (R233). -/
def encodeLine (line : List Byte) : Nat × List Byte :=
  if line.all (· == 0) then (0, []) else
  let w := line.take 8
  if line == w ++ w ++ w ++ w ++ w ++ w ++ w ++ w then (1, w) else
  let ws := (List.range 16).map fun i => leAt line (4 * i) 4
  let ds := (List.range 15).map fun i => sextNat 32 ((ws.getD (i + 1) 0 + 2 ^ 32 - ws.getD i 0) % 2 ^ 32)
  if ds.all (fun d => decide (-128 ≤ d) && decide (d ≤ 127)) then
    (2, bytesOf 4 (ws.getD 0 0) ++ ds.map fun d => BitVec.ofNat 8 (d % 256).toNat)
  else (3, line)

/-- Codes packed four to a byte. -/
def packCodes : List Nat → List Byte
  | a :: b :: c :: d :: rest => BitVec.ofNat 8 (a + 4 * b + 16 * c + 64 * d) :: packCodes rest
  | _ => []

/-- Bits packed eight to a byte, low bit first. -/
def packBits : List Bool → List Byte
  | a :: b :: c :: d :: e :: f :: g :: h :: rest =>
    BitVec.ofNat 8 (a.toNat + 2 * b.toNat + 4 * c.toNat + 8 * d.toNat + 16 * e.toNat + 32 * f.toNat + 64 * g.toNat + 128 * h.toNat) ::
      packBits rest
  | _ => []

/-- Consecutive pieces of n bytes. -/
def pieces (n : Nat) : Nat → List Byte → List (List Byte)
  | 0, _ => []
  | k + 1, bs => bs.take n :: pieces n k (bs.drop n)

/-- The compressed image of a slab: code map, tag map, stored bytes (R233). -/
def slabImage (bs : List Byte) (tags : List Bool) : List Byte :=
  let ls := (pieces 64 1024 bs).map encodeLine
  packCodes (ls.map (·.1)) ++ packBits tags ++ (ls.map (·.2)).flatten

/-- Tags of the granules of a physical slab, by cell key. -/
def State.slabTags (s : State) (key : Nat) : List Bool := (List.range 4096).map fun i => s.tags.contains (key / 16 + i)

/-- Set the tags of a physical slab's granules. -/
def State.putSlabTags (s : State) (key : Nat) (ts : List Bool) : State :=
  let keep := s.tags.filter fun g => ! (decide (key / 16 ≤ g) && decide (g < key / 16 + 4096))
  let new := ((List.range ts.length).zip ts).filterMap fun p => if p.2 then some (key / 16 + p.1) else none
  { s with tags := new.foldl insertNat keep }

/-- The physical slabs of a pool: 512 GiB are 2^23 slabs in all (R9). How they are divided the spec does not say: half and the remainder are
the interleaved pool's, the rest lies in equal parts with the slices (DESIGN CHOICE, LOG 8). -/
def poolSize (pool : Nat) : Nat := if pool = 0 then 2 ^ 23 - 160 * 26214 else 26214

/-- Slabs taken from a pool, and those given back. -/
def State.poolUse (s : State) (pool : Nat) : Nat × List Nat := (s.pool.get pool).getD (0, [])

/-- Pages of 4 KiB that the cold slabs of a pool lend to it (R233). -/
def State.lentPages (s : State) (pool : Nat) : Nat := (s.lent.get pool).getD 0

/-- A free slab of a pool: one given back, or the next from the top, or beyond the pool's own slabs one of sixteen lent pages. None when the pool
is full. In use are the slabs that the device itself gave out, not those that extent maps in memory name (DESIGN CHOICE, LOG 8). -/
def State.takeSlab (s : State) (pool : Nat) : Option (Nat × State) :=
  let (n, fs) := s.poolUse pool
  if poolSize pool + s.lentPages pool / 16 < n + 1 - fs.length then none else
  match fs with
  | f :: fs => some (f, { s with pool := s.pool.set pool (n, fs) })
  | [] => some (if n < poolSize pool then poolSize pool - 1 - n else n, { s with pool := s.pool.set pool (n + 1, []) })

/-- A physical slab given back to its pool. -/
def State.freeSlab (s : State) (pool n : Nat) : State :=
  let (k, fs) := s.poolUse pool
  { s.dropLines (poolKey pool n 0) with pool := s.pool.set pool (k, n :: fs) }

/-- The bytes that a code stores (R233). -/
def codeBytes (code : Nat) : Nat := match code with | 0 => 0 | 1 => 8 | 2 => 19 | _ => 64

/-- The pages of a cold slab beyond its image (R233). -/
def State.sparePages (s : State) (key : Nat) : Nat :=
  16 - (768 + (codesOf (memRead s.mem key 256)).foldl (fun n c => n + codeBytes c) 0 + 4095) / 4096

/-- Pages lent to a pool, or taken back from it. -/
def State.lend (s : State) (pool n : Nat) : State := { s with lent := s.lent.set pool (s.lentPages pool + n) }
def State.unlend (s : State) (pool n : Nat) : State := { s with lent := s.lent.set pool (s.lentPages pool - n) }

/-- Rewrite an extent entry (R92): PSLAB, EPOCH advance, and STATE; every cached copy follows. -/
def State.putExtent (s : State) (p : Place) (pslab : Nat) (bump : Bool) (st : BitVec 2) (pin : Bool) : State :=
  let ep := if bump then p.ext.extractLsb' 26 8 + 1 else p.ext.extractLsb' 26 8
  let x : BitVec 64 := BitVec.ofNat 64 (ep.toNat * 2 ^ 26 + pin.toNat * 2 ^ 25 + st.toNat * 2 ^ 23 + pslab)
  { s with mem := memWrite s.mem p.extAddr (bytesOf 8 x.toNat),
           extents := s.extents.map fun e => if e.sid = p.sid ∧ e.obj = p.obj ∧ e.slab = p.slab then { e with ext := x } else e,
           trans := { s.trans with slabs := s.trans.slabs.map fun e =>
             if e.1 = p.sid ∧ e.2.1 = p.obj ∧ e.2.2.1 = p.slab then (e.1, e.2.1, e.2.2.1, x) else e } }


/-- Decode a cold slab into a free physical slab (R234); none when the pool has none. -/
def State.decodeSlab (s : State) (p : Place) : Option State :=
  match s.takeSlab p.pool with
  | none => none
  | some (n, s) =>
    let from_ := poolKey p.pool p.pslab 0
    let img := memRead s.mem from_ 49152
    let bs := decodeLines (codesOf (img.take 256)) (img.drop 768)
    let ts := ((img.drop 256).take 512).map fun b => (List.range 8).map fun i => b.getLsbD i
    let dest := poolKey p.pool n 0
    let s := { s with mem := memWrite s.mem dest bs }
    let s := (s.putSlabTags dest ts.flatten).unlend p.pool (s.sparePages from_)
    some ((s.putExtent p n true 0 p.pin).freeSlab p.pool p.pslab)

/-! ## The extent cache, heat and walks (R92, R94, R128) -/

/-- The routers that a walk passes on its way to the home slice of its object's entry, slice OBJ mod 160, each with the child port it enters
by (R94): a core's cluster router, its die's router, and the other die's. A slice's walk begins at its die's router. Which routers these are
the spec does not say (DESIGN CHOICE, LOG 8). -/
def walkPath (port obj : Nat) : List (Nat × Nat) :=
  let home := obj % 160 / 80
  if port < 1152 then
    let d := dieOf port
    (clusterOf port, port) :: (24 + d, clusterOf port) :: (if home = d then [] else [(24 + home, 1312 + d)])
  else
    let d := (port - 1152) / 80
    (24 + d, port) :: (if home = d then [] else [(24 + home, 1312 + d)])

/-- A walk passes its routers (R94): one that holds a record of the same slab marks the port and forwards no second walk; one with 16
records in use lets it pass unmerged. -/
def walkOn (sid : Nat) (gen : BitVec 8) (obj slab : Nat) : List (Nat × Nat) → List Walk → List Walk
  | [], ws => ws
  | (r, port) :: rest, ws =>
    let same (x : Walk) : Bool := x.router == r && x.sid == sid && x.gen == gen && x.obj == obj && x.slab == slab
    if ws.any same then ws.map fun x => if same x && ! x.ports.contains port then { x with ports := x.ports ++ [port] } else x
    else walkOn sid gen obj slab rest (if (ws.filter (·.router == r)).length < 16 then ws ++ [⟨r, sid, gen, obj, slab, [port]⟩] else ws)

/-- Extent-cache entries evicted: their counts are lost (R128), and the times of the slabs' last requests are kept (R233). -/
def State.evict (s : State) (sel : Extent → Bool) : State :=
  let note (m : Assoc (Nat × Nat × Nat) Nat) (e : Extent) : Assoc (Nat × Nat × Nat) Nat :=
    m.set (e.sid, e.obj, e.slab) (max e.last ((m.get (e.sid, e.obj, e.slab)).getD 0))
  { s with extents := s.extents.filter fun e => ! sel e, lastUse := (s.extents.filter sel).foldl note s.lastUse }

/-- A request served at a slice: its slab's heat count, with a walk for a slab the cache did not hold. The access takes what the walk brings in the
same step (LOG 118), and no entry is evicted for room (DESIGN CHOICE, LOG 119). -/
def State.heat (s : State) (sid obj off port : Nat) : State :=
  match s.place sid obj off, s.spaces.get sid with
  | some p, some sp =>
    let hit (e : Extent) : Bool := e.hits p.slice sid sp.gen p.obj p.slab
    if s.extents.any hit then
      { s with extents := s.extents.map fun e => if hit e then { e with heat := min (e.heat + 1) (2 ^ 32 - 1), last := s.clock } else e }
    else
      { s with extents := s.extents ++ [⟨p.slice, sid, sp.gen, p.obj, p.slab, 1, s.clock, p.ext⟩],
               walks := walkOn sid sp.gen p.obj p.slab (walkPath port p.obj) s.walks }
  | _, _ => s

/-- A request that counts in no heat count: what the caches hold after it, with the counts as they stood (R98, R128). -/
def State.uncounted (s t : State) : State :=
  let old (e : Extent) : Nat := match s.extents.find? fun x => x.hits e.slice e.sid e.gen e.obj e.slab with | some x => x.heat | none => 0
  { t with extents := t.extents.map fun e => { e with heat := old e } }

/-- An object's entry enters the object cache of the core in `via` (R92): 64 places, of which a full cache gives up any one. -/
def State.cacheEntry (s : State) (sid obj : Nat) : State :=
  match s.via, s.spaces.get sid with
  | some c, some sp =>
    let l := (s.objCache.get c).getD []
    if sp.nobj ≤ obj || l.any (fun e => e.hits sid sp.gen obj) then s else
    let keep := if l.length < 64 then l else l.eraseIdx ((Config.freeValue (s.freeTick * 2 ^ 48 + 2 ^ 40 + c)).toNat % 64)
    { s with objCache := s.objCache.set c (⟨sid, sp.gen, obj, BitVec.ofNat 256 (leNat (s.tableBytes sp obj))⟩ :: keep) }
  | _, _ => s

/-- The entries that an access to an object translates by: its own, and the aliased object's (R91, R92). -/
def State.cacheObj (s : State) (sid obj : Nat) : State :=
  let s := s.cacheEntry sid obj
  match s.objEntry sid obj with
  | some e => if e.cls = 2 then s.cacheEntry sid e.ali else s
  | none => s

/-! ## What a request carries (R92, R412) -/

/-- The object entries that an access to an object translates by, as they stand for the issuer: its own, and the aliased object's. -/
def State.linesOf (s : State) (sid obj : Nat) : List ObjLine :=
  match s.spaces.get sid with
  | none => []
  | some sp =>
    let line (o : Nat) : List ObjLine :=
      if sp.nobj ≤ o then [] else [⟨sid, sp.gen, o, BitVec.ofNat 256 (leNat (s.entryBytes sid sp o))⟩]
    match s.objEntry sid obj with
    | some e => if e.cls = 2 then line obj ++ line e.ali else line obj
    | none => []

/-- A slab's extent entry, as its slice has it. -/
def State.slabEntry (s : State) (sid obj slab : Nat) : Option (BitVec 64) :=
  (s.objEntry sid obj).map fun e => (s.placeDirect sid e obj (65536 * slab)).ext

/-- Is the byte's slab being migrated (R54, R235)? -/
def State.migrating (s : State) (sid obj off : Nat) : Bool :=
  match s.place sid obj off with
  | some p => p.state == 2
  | none => false

/-- The offsets of a range at which a new slab of the accessed window begins, its first byte included. A window's piece of 256 bytes
lies in one slab whatever its placement. -/
def granuleStarts (off n : Nat) : List Nat :=
  if n = 0 then [] else off :: (List.range ((off + n - 1) / 256 - off / 256)).map fun i => (off / 256 + 1 + i) * 256

/-- Expand each cold slab that a range touches (R234). None while a slab migrates or the pool is full: the access waits. -/
def State.expand (s : State) (sid obj : Nat) : List Nat → Option State
  | [] => some s
  | o :: os =>
    match s.place sid obj o with
    | none => State.expand s sid obj os
    | some p =>
      match p.state with
      | 1 =>
        match s.decodeSlab p with
        | some s' => State.expand s' sid obj os
        | none => none
      | 2 => none
      | _ => State.expand s sid obj os

end Sys2Proof.Machine
end

