-- ==== Sys2Proof/Machine/Num.lean ====
section
/-! DEFINITION. Number formats, rounding, conversion and the reference algorithms (spec/09_numbers.md R146 to R165; the bank
rules of spec/06_bank_units.md R100). A format's element is its code, a natural number. -/

namespace Sys2Proof.Machine

/-- An exact value: NaN, an infinity, or (-1)^neg x m x 2^e. -/
inductive Num where
  | nan
  | inf (neg : Bool)
  | fin (neg : Bool) (m : Nat) (e : Int)
  deriving DecidableEq, Repr

/-- The exception flags of R151. -/
structure Flags where
  nv : Bool := false
  dz : Bool := false
  ov : Bool := false
  uf : Bool := false
  nx : Bool := false
  deriving DecidableEq, Repr

def Flags.or (a b : Flags) : Flags := ⟨a.nv || b.nv, a.dz || b.dz, a.ov || b.ov, a.uf || b.uf, a.nx || b.nx⟩

/-- The flags as bits [13:9] of STATUS (R151). -/
def Flags.bits (f : Flags) : Word :=
  (if f.nv then 0x2000 else 0) ||| (if f.dz then 0x1000 else 0) ||| (if f.ov then 0x800 else 0) |||
  (if f.uf then 0x400 else 0) ||| (if f.nx then 0x200 else 0)

/-- The rounding codes (R150). -/
inductive Rm where
  | rne | rtz | rdn | rup
  deriving DecidableEq, Repr

def Rm.ofCode (c : BitVec 2) : Rm := match c.toNat with | 0 => .rne | 1 => .rtz | 2 => .rdn | _ => .rup

/-- A floating layout (R146): exponent and fraction widths, bias, whether an all-ones exponent is infinity or NaN (F8A has none). -/
structure FFmt where
  eb : Nat
  mb : Nat
  bias : Int
  ieee : Bool
  deriving DecidableEq, Repr

def FFmt.f32 : FFmt := ⟨8, 23, 127, true⟩
def FFmt.bf16 : FFmt := ⟨8, 7, 127, true⟩
def FFmt.f16 : FFmt := ⟨5, 10, 15, true⟩
def FFmt.f8a : FFmt := ⟨4, 3, 7, false⟩
def FFmt.f8b : FFmt := ⟨5, 2, 15, true⟩

/-- The code of the largest finite value (R146). -/
def FFmt.maxCode (f : FFmt) : Nat := if f.ieee then (2 ^ f.eb - 1) * 2 ^ f.mb - 1 else 2 ^ (f.eb + f.mb) - 2
/-- The code of +infinity; F8A has none and its largest finite stands there (R152). -/
def FFmt.infCode (f : FFmt) : Nat := if f.ieee then (2 ^ f.eb - 1) * 2 ^ f.mb else 2 ^ (f.eb + f.mb) - 2
/-- The canonical NaN (R146). -/
def FFmt.nanCode (f : FFmt) : Nat := if f.ieee then (2 ^ f.eb - 1) * 2 ^ f.mb + 2 ^ (f.mb - 1) else 2 ^ (f.eb + f.mb) - 1
def FFmt.signBit (f : FFmt) : Nat := 2 ^ (f.eb + f.mb)

/-- The value of a floating code (R146). -/
def FFmt.decode (f : FFmt) (c : Nat) : Num :=
  let neg := c / f.signBit % 2 == 1
  let mag := c % f.signBit
  let ex := mag / 2 ^ f.mb
  let fr := mag % 2 ^ f.mb
  if f.ieee && ex == 2 ^ f.eb - 1 then (if fr = 0 then .inf neg else .nan)
  else if ! f.ieee && mag == 2 ^ (f.eb + f.mb) - 1 then .nan
  else if ex = 0 then .fin neg fr (1 - f.bias - f.mb)
  else .fin neg (2 ^ f.mb + fr) (ex - f.bias - f.mb)

/-- floor(log2(a / b)) for positive a and b. -/
def ratLog2 (a b : Nat) : Int :=
  let g : Int := (a.log2 : Int) - b.log2
  if g ≥ 0 then (if a < b * 2 ^ g.toNat then g - 1 else g)
  else (if a * 2 ^ (-g).toNat < b then g - 1 else g)

/-- n / d rounded to a whole number; `neg` is the sign of the value (R150). The flag says that it was inexact. -/
def roundDiv (rm : Rm) (neg : Bool) (n d : Nat) : Nat × Bool :=
  let q := n / d
  let r := n % d
  let up := match rm with
    | .rne => decide (d < 2 * r) || (decide (2 * r = d) && q % 2 == 1)
    | .rtz => false
    | .rdn => neg && r != 0
    | .rup => ! neg && r != 0
  (if up then q + 1 else q, r != 0)

/-- a / b x 2^e in units of 2^q, rounded. -/
def roundUnits (rm : Rm) (neg : Bool) (a b : Nat) (e q : Int) : Nat × Bool :=
  if e ≥ q then roundDiv rm neg (a * 2 ^ (e - q).toNat) b else roundDiv rm neg a (b * 2 ^ (q - e).toNat)

/-- Does an overflow under this mode give the largest finite value (IEEE 754)? -/
def overflowToMax (rm : Rm) (neg : Bool) : Bool :=
  match rm with | .rne => false | .rtz => true | .rdn => ! neg | .rup => neg

/-- (-1)^neg x a/b x 2^e rounded once to a floating format. `sat` saturates an overflow (R152); otherwise it goes as IEEE 754
prescribes. Tininess is detected after rounding (R151). -/
def FFmt.roundRat (f : FFmt) (rm : Rm) (sat : Bool) (neg : Bool) (a b : Nat) (e : Int) : Nat × Flags :=
  let s := if neg then f.signBit else 0
  if a = 0 then (s, {}) else
  let l := ratLog2 a b + e
  let emin : Int := 1 - f.bias - f.mb
  let q := max (l - f.mb) emin
  let (m, inexact) := roundUnits rm neg a b e q
  let code := (q - emin).toNat * 2 ^ f.mb + m
  if f.maxCode < code then
    (s + (if sat || overflowToMax rm neg || ! f.ieee then f.maxCode else f.infCode), { ov := true, nx := true })
  else
    let tiny := decide (l < 1 - f.bias) && ! (decide (l = -f.bias) && (roundUnits rm neg a b e (l - f.mb)).1 == 2 ^ (f.mb + 1))
    (s + code, { uf := tiny && inexact, nx := inexact })

/-- An exact value rounded to a floating format. An infinity stays one, or becomes F8A's largest finite with OF (R152). -/
def FFmt.round (f : FFmt) (rm : Rm) (sat : Bool) : Num → Nat × Flags
  | .nan => (f.nanCode, {})
  | .inf neg => ((if neg then f.signBit else 0) + f.infCode, { ov := ! f.ieee })
  | .fin neg m e => f.roundRat rm sat neg m 1 e

/-! ## Exact arithmetic -/

def Num.isNan : Num → Bool | .nan => true | _ => false
def Num.isInf : Num → Bool | .inf _ => true | _ => false
def Num.isZero : Num → Bool | .fin _ 0 _ => true | _ => false
def Num.sign : Num → Bool | .nan => false | .inf n => n | .fin n _ _ => n
def Num.neg : Num → Num | .nan => .nan | .inf n => .inf (! n) | .fin n m e => .fin (! n) m e
def Num.abs : Num → Num | .nan => .nan | .inf _ => .inf false | .fin _ m e => .fin false m e
def Num.zero : Num := .fin false 0 0
def Num.one : Num := .fin false 1 0
def Num.ofInt (i : Int) : Num := .fin (decide (i < 0)) i.natAbs 0

/-- The exact product; infinity times zero is NaN. -/
def Num.mul : Num → Num → Num
  | .nan, _ => .nan
  | _, .nan => .nan
  | .inf s, .inf t => .inf (s != t)
  | .inf s, .fin t m _ => if m = 0 then .nan else .inf (s != t)
  | .fin s m _, .inf t => if m = 0 then .nan else .inf (s != t)
  | .fin s m e, .fin t n d => .fin (s != t) (m * n) (e + d)

/-- The signed integer of a finite value in units of 2^q, q no larger than its exponent. -/
def Num.units (q : Int) : Num → Int
  | .fin s m e => let u : Int := m * 2 ^ (e - q).toNat; if s then -u else u
  | _ => 0

/-- The least exponent of the finite values of a list, or d. -/
def minExp (d : Int) : List Num → Int
  | [] => d
  | .fin _ 0 _ :: xs => minExp d xs
  | .fin _ _ e :: xs => minExp (min d e) xs
  | _ :: xs => minExp d xs

def firstExp : List Num → Int
  | [] => 0
  | .fin _ 0 _ :: xs => firstExp xs
  | .fin _ _ e :: _ => e
  | _ :: xs => firstExp xs

/-- The exact sum of a list (R152, R158): NaN for a NaN or infinities of opposite sign; a zero sum whose terms are not all zeros of
one sign is +0, or -0 under RDN. -/
def sumNum (rm : Rm) (xs : List Num) : Num :=
  if xs.any Num.isNan then .nan
  else if xs.any (fun x => x == .inf false) then (if xs.any (fun x => x == .inf true) then .nan else .inf false)
  else if xs.any (fun x => x == .inf true) then .inf true
  else
    let q := minExp (firstExp xs) xs
    let t : Int := xs.foldl (fun (a : Int) x => a + x.units q) 0
    if t = 0 then
      if xs.all (fun x => x.isZero && ! x.sign) then .fin false 0 0
      else if xs.all (fun x => x.isZero && x.sign) then .fin true 0 0
      else .fin (rm == .rdn) 0 0
    else .fin (decide (t < 0)) t.natAbs q

/-- a < b for values that are not NaN; -0 equals +0. -/
def Num.lt (a b : Num) : Bool :=
  match a, b with
  | .nan, _ => false
  | _, .nan => false
  | .inf s, .inf t => s && ! t
  | .inf s, .fin _ _ _ => s
  | .fin _ _ _, .inf t => ! t
  | .fin s m e, .fin t n d =>
    let q := min e d
    decide ((Num.fin s m e).units q < (Num.fin t n d).units q)

def Num.eq (a b : Num) : Bool :=
  ! a.isNan && ! b.isNan && ! a.lt b && ! b.lt a

/-- A finite value rounded to an integer (R150). The flag says that it was inexact. -/
def Num.toInt (rm : Rm) : Num → Int × Bool
  | .fin s m e =>
    let (u, i) := roundUnits rm s m 1 e 0
    (if s then -(u : Int) else u, i)
  | _ => (0, false)

/-! ## The twelve formats (R146, R147, R148) -/

/-- The width in bits of a format code. -/
def fmtWidth (f : Nat) : Nat :=
  match f with
  | 0 => 32 | 1 => 16 | 2 => 16 | 3 => 8 | 4 => 8 | 5 => 16 | 6 => 8 | 7 => 8 | 8 => 4 | 9 => 4 | 10 => 8 | _ => 6

/-- The floating layout of codes 0 to 4. -/
def fmtFloat (f : Nat) : Option FFmt :=
  match f with
  | 0 => some .f32 | 1 => some .bf16 | 2 => some .f16 | 3 => some .f8a | 4 => some .f8b | _ => none

def signedOf (w c : Nat) : Int := if c % 2 ^ w < 2 ^ (w - 1) then (c % 2 ^ w : Nat) else (c % 2 ^ w : Nat) - (2 ^ w : Nat)

/-- The range of an integer format (R146), codes 5 to 9, and I32. -/
def intRange (f : Nat) : Int × Int :=
  match f with
  | 5 => (-32768, 32767) | 6 => (-128, 127) | 7 => (0, 255) | 8 => (-8, 7) | 9 => (0, 15) | _ => (-2147483648, 2147483647)

/-- The value of a twin-shift code with n-bit shifts (R148). -/
def twinShift (n c : Nat) : Num :=
  let term (sgn sh : Nat) : Num := if sh = 2 ^ n - 1 then .fin false 0 0 else .fin (sgn == 1) 1 (-(sh : Int))
  sumNum .rne [term (c / 2 ^ (2 * n + 1) % 2) (c / 2 ^ (n + 1) % 2 ^ n), term (c / 2 ^ n % 2) (c % 2 ^ n)]

/-- The exact value of an element (R146, R148). -/
def fmtDecode (f c : Nat) : Num :=
  match f with
  | 5 => .ofInt (signedOf 16 c) | 6 => .ofInt (signedOf 8 c) | 7 => .ofInt (c % 256 : Nat)
  | 8 => .ofInt (signedOf 4 c) | 9 => .ofInt (c % 16 : Nat) | 10 => twinShift 3 c | 11 => twinShift 2 c
  | _ => match fmtFloat f with | some l => l.decode c | none => .nan

/-- An integer's code in w bits. -/
def intCode (w : Nat) (i : Int) : Nat := (i % (2 ^ w : Nat)).toNat

/-- Saturation of an integer to a range, with OF when it saturates (R152). -/
def satInt (lo hi : Int) (i : Int) : Int × Flags :=
  if i < lo then (lo, { ov := true }) else if hi < i then (hi, { ov := true }) else (i, {})

/-- A value converted to an integer range (R152). -/
def convInt (rm : Rm) (lo hi : Int) : Num → Int × Flags
  | .nan => (0, { nv := true })
  | .inf s => (if s then lo else hi, { ov := true })
  | .fin s m e =>
    let (i, inexact) := (Num.fin s m e).toInt rm
    let (j, fl) := satInt lo hi i
    (j, { fl with nx := inexact })

/-- The conversion of R152 to element format f, codes 0 to 9; 12 is I32. -/
def convert (f : Nat) (rm : Rm) (x : Num) : Nat × Flags :=
  match fmtFloat f with
  | some l => l.round rm true x
  | none =>
    let (lo, hi) := intRange f
    let (i, fl) := convInt rm lo hi x
    (intCode (if f = 12 then 32 else fmtWidth f) i, fl)

/-! ## Lanes of the vector unit (R150, R151) -/

/-- The result of lane arithmetic in F32, BF16 or F16: once to F32, and for a 16-bit lane once more. `operands` are what the lane
read: NV is set for a NaN that no operand was. -/
def laneRound (f : Nat) (rm : Rm) (operands : List Num) (x : Num) : Nat × Flags :=
  let nv : Flags := { nv := x.isNan && ! operands.any Num.isNan }
  match f with
  | 0 => let (c, fl) := FFmt.f32.round rm false x; (c, fl.or nv)
  | _ =>
    let l := if f = 1 then FFmt.bf16 else FFmt.f16
    let (c, fl) := FFmt.f32.round .rne false x
    let (d, gl) := l.round .rne false (FFmt.f32.decode c)
    (d, (fl.or gl).or nv)

/-! ## Bank lanes (R100). Lane formats: 0 F32, 1 BF16, 2 F16, 3 I32, 6 I8, 7 N8. -/

def bankWidth (f : Nat) : Nat := match f with | 0 => 32 | 1 => 16 | 2 => 16 | 3 => 32 | _ => 8

/-- A bank lane's value as an exact number. -/
def bankDecode (f c : Nat) : Num :=
  match f with
  | 0 => FFmt.f32.decode c | 1 => FFmt.bf16.decode c | 2 => FFmt.f16.decode c
  | 3 => .ofInt (signedOf 32 c) | 6 => .ofInt (signedOf 8 c) | _ => .ofInt (c % 256 : Nat)

/-- A bank lane's result from its exact value (R100). -/
def bankRound (f : Nat) (x : Num) : Nat :=
  match f with
  | 0 => (FFmt.f32.round .rne false x).1
  | 1 => (FFmt.bf16.round .rne true (FFmt.f32.decode (FFmt.f32.round .rne true x).1)).1
  | 2 => (FFmt.f16.round .rne true (FFmt.f32.decode (FFmt.f32.round .rne true x).1)).1
  | 3 => intCode 32 (x.toInt .rne).1
  | 6 => intCode 8 (satInt (-128) 127 (x.toInt .rne).1).1
  | _ => intCode 8 (satInt 0 255 (x.toInt .rne).1).1

/-- The larger or smaller of two values with -0 below +0; the other when one is NaN (R100). -/
def numMax (a b : Num) : Num :=
  if a.isNan then b else if b.isNan then a
  else if a.lt b then b else if b.lt a then a else if a.sign then b else a
def numMin (a b : Num) : Num :=
  if a.isNan then b else if b.isNan then a
  else if b.lt a then b else if a.lt b then a else if a.sign then a else b

/-! ## F32 steps of the reference algorithms -/

def r32 (x : Num) : Num := FFmt.f32.decode (FFmt.f32.round .rne false x).1
def c32 (c : Nat) : Num := FFmt.f32.decode c
def mul32 (a b : Num) : Num := r32 (a.mul b)
def add32 (a b : Num) : Num := r32 (sumNum .rne [a, b])
def sub32 (a b : Num) : Num := r32 (sumNum .rne [a, b.neg])
/-- x times 2^n, exactly. -/
def Num.scale (n : Int) : Num → Num | .fin s m e => .fin s m (e + n) | x => x

/-- VEXP's algorithm on an F32 code (R163): the F32 result and its flags. -/
def vexp32 (c : Nat) : Nat × Flags :=
  let x := c32 c
  if x.isNan then (0x7FC00000, {})
  else if ! x.lt (c32 0x42B17218) then (0x7F800000, { ov := ! x.isInf })
  else if ! (c32 0xC2D00000).lt x then (0, {})
  else
    let t := mul32 x (c32 0x3FB8AA3B)
    let n := (t.toInt .rne).1
    let r0 := sub32 x ((Num.ofInt n).mul (c32 0x3F317200))
    let r := sub32 r0 (mul32 (.ofInt n) (c32 0x35BFBE8E))
    let q := c32 0x3C088889
    let q := add32 (mul32 q r) (c32 0x3D2AAAAB)
    let q := add32 (mul32 q r) (c32 0x3E2AAAAB)
    let q := add32 (mul32 q r) (c32 0x3F000000)
    let q := add32 (mul32 q r) (c32 0x3F800000)
    let q := add32 (mul32 q r) (c32 0x3F800000)
    let (d, fl) := FFmt.f32.round .rne false (q.scale n)
    (d, { ov := fl.ov })

/-- One Newton step of VRCP, n times (R164). -/
def vrcpIter (d : Num) : Nat → Num → Num
  | 0, y => y
  | n + 1, y =>
    let c := sub32 .one (mul32 d y)
    vrcpIter d n (add32 y (mul32 y c))

/-- VRCP's algorithm on an F32 code (R164). -/
def vrcp32 (c : Nat) : Nat × Flags :=
  match c32 c with
  | .nan => (0x7FC00000, {})
  | .inf s => (if s then 0x80000000 else 0, {})
  | .fin s m e =>
    let sb := if s then 0x80000000 else 0
    if m = 0 then (sb + 0x7F800000, { dz := true }) else
    let l : Int := (m.log2 : Int) + e        -- |x| = 2^l x [1, 2) = d x 2^(l+1)
    let d : Num := .fin false m (e - (l + 1))
    let y := sub32 (c32 0x4034B4B5) (mul32 (c32 0x3FF0F0F1) d)
    let y := vrcpIter d 3 y
    let (r, fl) := FFmt.f32.round .rne false (if s then (y.scale (-(l + 1))).neg else y.scale (-(l + 1)))
    (r, { ov := fl.ov })

/-- One step of VRSQ, n times (R165). -/
def vrsqIter (d : Num) : Nat → Num → Num
  | 0, y => y
  | n + 1, y =>
    let c := mul32 y y
    let c := mul32 d c
    let c := mul32 (c32 0x3F000000) c
    let c := sub32 (c32 0x3FC00000) c
    vrsqIter d n (mul32 y c)

/-- VRSQ's algorithm on an F32 code (R165). -/
def vrsq32 (c : Nat) : Nat × Flags :=
  match c32 c with
  | .nan => (0x7FC00000, {})
  | .inf s => if s then (0x7FC00000, { nv := true }) else (0, {})
  | .fin s m e =>
    if m = 0 then ((if s then 0x80000000 else 0) + 0x7F800000, { dz := true })
    else if s then (0x7FC00000, { nv := true })
    else
      let l : Int := (m.log2 : Int) + e
      let ev : Int := l - l % 2               -- even, and x / 2^ev in [1, 4)
      let d : Num := .fin false m (e - ev)
      let y := sub32 (c32 0x3FA00000) (mul32 (c32 0x3E400000) d)
      let y := vrsqIter d 5 y
      ((FFmt.f32.round .rne false (y.scale (-(ev / 2)))).1, {})

/-! ## Scales (R149, R162) -/

/-- The value of an E8 or a BF16 scale code. -/
def scaleDecode (bf : Bool) (c : Nat) : Num :=
  if bf then FFmt.bf16.decode c else if c = 255 then .nan else .fin false 1 ((c : Int) - 127)

/-- MAXV of a scaled format (R146, R162). -/
def maxV (f : Nat) : Num :=
  match f with | 3 => .ofInt 448 | 4 => .ofInt 57344 | 6 => .ofInt 127 | 7 => .ofInt 255 | 8 => .ofInt 7 | _ => .ofInt 15

def Num.le (a b : Num) : Bool := ! a.isNan && ! b.isNan && ! b.lt a

/-- The least e of 0 to 254 with amax x 2^(127-e) ≤ MAXV, by search from below. -/
def leastE8 (amax mx : Num) : Nat → Nat → Nat
  | 0, e => e
  | n + 1, e => if (amax.scale (127 - (e : Int))).le mx then e else leastE8 amax mx n (e + 1)

/-- x divided by s, converted to format f with one rounding (R162). -/
def convertQuot (f : Nat) (rm : Rm) (x s : Num) : Nat × Flags :=
  match x, s with
  | .fin sx m e, .fin ss n d =>
    if n = 0 then (0, {}) else
    match fmtFloat f with
    | some l => l.roundRat rm true (sx != ss) m n (e - d)
    | none =>
      let neg := sx != ss
      let (u, inexact) := roundUnits rm neg m n (e - d) 0
      let (lo, hi) := intRange f
      let (j, fl) := satInt lo hi (if neg then -(u : Int) else u)
      (intCode (fmtWidth f) j, { fl with nx := inexact })
  | _, _ => (0, {})

/-- A block's scale code and quantised elements with their flags (R162). `bf` chooses a BF16 scale. -/
def quantise (f : Nat) (bf : Bool) (rm : Rm) (xs : List Num) : Nat × List Nat × Flags :=
  let isF := (fmtFloat f).isSome
  if xs.any Num.isNan then
    (if bf then 0x7FC0 else 0xFF, xs.map fun _ => (if isF then (convert f rm .nan).1 else 0), { nv := true })
  else if xs.any Num.isInf then
    let rs := xs.map fun x =>
      if x.isInf then convert f rm x else ((if isF && x.sign then 2 ^ (fmtWidth f - 1) else 0), ({} : Flags))
    (if bf then 0x7F80 else 0, rs.map (·.1), rs.foldl (fun a r => a.or r.2) {})
  else
    let amax := xs.foldl (fun a x => if a.lt x.abs then x.abs else a) .zero
    if bf then
      let sc := match amax, maxV f with
        | .fin _ m e, .fin _ n d => if m = 0 then 0x3F80 else (FFmt.bf16.roundRat .rup false false m n (e - d)).1
        | _, _ => 0x3F80
      let rs := xs.map fun x => convertQuot f rm x (FFmt.bf16.decode sc)
      (sc, rs.map (·.1), rs.foldl (fun a r => a.or r.2) {})
    else
      let e := leastE8 amax (maxV f) 254 0
      let rs := xs.map fun x => convert f rm (x.scale (127 - (e : Int)))
      (e, rs.map (·.1), rs.foldl (fun a r => a.or r.2) {})

end Sys2Proof.Machine
end

