-- ==== Sys2Proof/Machine/Bank.lean ====
section
/-! DEFINITION. The effect of a bank command on its rows (spec/06_bank_units.md R99 to R107, spec/07_joins.md R124, R125). A row is
named by its scratch key. -/

namespace Sys2Proof.Machine

/-- The 64 bytes of a scratch row as a number. -/
def State.rowGet (s : State) (row : Nat) : Nat := leNat (memRead s.scr row 64)

/-- A scratch row written as one access; a frozen allocation discards it (R111, R214). Being written whole, the row reads correctly again. -/
def State.rowPut (s : State) (row : Nat) (x : Nat) : State :=
  if s.frozenAt (row / 2 ^ 19) (row % 2 ^ 19) then s else
  { s.scrWrite (row / 2 ^ 19) (row % 2 ^ 19) (bytesOf 64 x) with
    badScr := s.badScr.filter fun k => ! (decide (row ≤ k) && decide (k < row + 64)) }

def State.rowBad (s : State) (row : Nat) : Bool := s.scrBad (row / 2 ^ 19) (row % 2 ^ 19) 64

/-- Lanes of a row in a bank lane format (R99). -/
def rowLanes (fmt x : Nat) : List Nat := lanesOf (bankWidth fmt) (512 / bankWidth fmt) x

def joinRow (fmt : Nat) (ls : List Nat) : Nat := joinLanes (bankWidth fmt) ls

/-- One lane of BADD (0), BMAX (1), BMIN (2) or BFMA (4) (R100, R102). -/
def bankLane (op fmt row b c : Nat) : Nat :=
  let x := bankDecode fmt row
  let y := bankDecode fmt b
  match op with
  | 0 => bankRound fmt (sumNum .rne [x, y])
  | 1 => bankRound fmt (numMax x y)
  | 2 => bankRound fmt (numMin x y)
  | _ => bankRound fmt (sumNum .rne [x.mul (bankDecode fmt c), y])

/-- A lane-wise command over one row. -/
def bankRow (op fmt : Nat) (row b c : Nat) : Nat :=
  joinRow fmt ((List.range (512 / bankWidth fmt)).map fun j =>
    bankLane op fmt (laneOf (bankWidth fmt) row j) (laneOf (bankWidth fmt) b j) (laneOf (bankWidth fmt) c j))

/-- One lane of BSMX (R103): the new (m, s). -/
def softmaxLane (m s x : Nat) : Nat × Nat :=
  let nm := c32 m
  let ns := c32 s
  let nx := c32 x
  if nm.isNan || ns.isNan || nx.isNan then (0x7FC00000, 0x7FC00000)
  else if nx == .inf true then (m, s)
  else
    let mm := numMax nm nx
    let code := (FFmt.f32.round .rne false mm).1
    if mm == .inf false then (code, 0x7FC00000)
    else
      let d := c32 (vexp32 (FFmt.f32.round .rne false (sumNum .rne [nm, mm.neg])).1).1
      let e := c32 (vexp32 (FFmt.f32.round .rne false (sumNum .rne [nx, mm.neg])).1).1
      (code, (FFmt.f32.round .rne false (sumNum .rne [mul32 ns d, e])).1)

/-- BCNT's lane: one more, saturating, when the mask bit is set (R102). -/
def countLane (fmt x : Nat) (on : Bool) : Nat :=
  if ! on then x else
  match fmt with
  | 3 => if x = 0x7FFFFFFF then x else (x + 1) % 2 ^ 32
  | 6 => if x = 127 then x else (x + 1) % 256
  | _ => if x = 255 then x else x + 1

/-- One BCVT conversion between bank formats (R104). -/
def bankConvert (src dst x : Nat) : Nat :=
  let v := bankDecode src x
  match dst with
  | 0 => (FFmt.f32.round .rne true v).1
  | 1 => (FFmt.bf16.round .rne true v).1
  | 2 => (FFmt.f16.round .rne true v).1
  | 3 => intCode 32 (convInt .rne (-2147483648) 2147483647 v).1
  | 6 => intCode 8 (convInt .rne (-128) 127 v).1
  | _ => intCode 8 (convInt .rne 0 255 v).1

/-- BCVT over a row: L lanes from the low bytes, the rest zero (R104); to the same format, unchanged (R318). -/
def convertRow (src dst row : Nat) : Nat :=
  if src = dst then row else
  let ws := bankWidth src
  let wt := bankWidth dst
  let n := 512 / max ws wt
  joinLanes wt ((List.range n).map fun j => bankConvert src dst (laneOf ws row j))

/-! ## Keyed tables (R124) -/

/-- The hash of a key and its first bucket (R124). -/
def keyHash (k : BitVec 32) : BitVec 32 :=
  let h := k * 0x2F6B4C95
  h ^^^ (h >>> 16)

def bucket (k : BitVec 32) (nb p : Nat) : Nat := ((keyHash k).toNat % 2 ^ nb + p) % 2 ^ nb

/-- The first lane of a bucket row that holds a 32-bit value. -/
def laneWith (row : Nat) (v : Nat) : Option Nat := (List.range 16).find? fun j => laneOf 32 row j == v

/-- Lane j of a row replaced. -/
def putLane (row j v : Nat) : Nat := joinLanes 32 ((List.range 16).map fun i => if i = j then v else laneOf 32 row i)

/-- Where the value row of slot 16b + j lies, from the table's first byte (R124). -/
def valueRow (nb b j : Nat) : Nat := 64 * 2 ^ nb + 64 * (16 * b + j)

/-- A 0x31 for a row (R107). -/
def bankFault (row index : Nat) : PendCause := ⟨0x31, BitVec.ofNat 64 (absLocal (row / 2 ^ 19) (row % 2 ^ 19)), BitVec.ofNat 32 index⟩

/-- What an access of a bank command does: the new state, the 0x31s it raises, and what of the command remains. -/
abbrev CmdStep := State × List PendCause × Option BankCmd

/-- A row rewritten by a command of an index: an uncorrectable row is left as it stands (R107). -/
def State.rowOp (s : State) (row index : Nat) (f : Nat → Nat) (rest : Option BankCmd := none) : CmdStep :=
  if s.rowBad row then (s, [bankFault row index], rest) else (s.rowPut row (f (s.rowGet row)), [], rest)

/-- Row `done` of a BSCL's run (R102, R105). -/
def State.scaleStep (s : State) (index fmt row n done : Nat) (x : BitVec 512) : CmdStep :=
  let w := bankWidth fmt
  s.rowOp (row + 1024 * done) index (fun r => joinLanes w ((List.range (512 / w)).map fun j =>
    bankRound fmt ((bankDecode fmt (laneOf w r j)).mul (bankDecode fmt (laneOf w x.toNat j)))))
    (if done + 1 < n then some (.scaling fmt row n (done + 1) x) else none)

/-- An access of a BRED (R105): row `done` of its run, or when all are read its destination, which an uncorrectable row leaves unwritten
(R107; DESIGN CHOICE, LOG 47). -/
def State.reduceStep (s : State) (index fmt dest row n op done : Nat) (ok : Bool) (acc : BitVec 512) : CmdStep :=
  if n ≤ done then (if ok then s.rowPut dest acc.toNat else s, [], none) else
  let r := row + 1024 * done
  if s.rowBad r then (s, [bankFault r index], some (.reducing fmt dest row n op (done + 1) false acc)) else
  let x := s.rowGet r
  (s, [], some (.reducing fmt dest row n op (done + 1) ok
    (BitVec.ofNat 512 (if done = 0 then x else bankRow op fmt acc.toNat x 0))))

/-- The access of a KACC's probe p to its bucket row (R125): 0x31 with EINFO 0xE for an uncorrectable row, 0xF for a full table. -/
def State.kaccStep (s : State) (fmt table nb probe p : Nat) (key : BitVec 32) (v : BitVec 512) : CmdStep :=
  let row := table + 64 * bucket key nb p
  if s.rowBad row then (s, [bankFault row 0xE], none) else
  let x := s.rowGet row
  let add (j : Nat) : Option BankCmd := some (.kaccAdd fmt table nb (bucket key nb p) j v)
  match laneWith x key.toNat with
  | some j => (s, [], add j)
  | none =>
    match laneWith x 0xFFFFFFFF with
    | some j => (s.rowPut row (putLane x j key.toNat), [], add j)
    | none => if p + 1 < probe then (s, [], some (.probing fmt table nb probe (p + 1) key v)) else (s, [bankFault row 0xF], none)

/-- One access of a bank command at its row's bank (R102 to R107, R111, R125). A BSMX of which either row is uncorrectable writes neither, with one
0x31 for each such row (DESIGN CHOICE, LOG 124). -/
def State.performCmd (s : State) (q : QueuedCmd) : CmdStep :=
  match q.cmd with
  | .lane op fmt row b c => s.rowOp row q.index fun r => bankRow op fmt r b.toNat c.toNat
  | .fill row b => (s.rowPut row b.toNat, [], none)
  | .count fmt row kb =>
    let w := bankWidth fmt
    s.rowOp row q.index fun r => joinLanes w ((List.range (512 / w)).map fun j => countLane fmt (laneOf w r j) (kb.getLsbD j))
  | .convert src dst row => s.rowOp row q.index (convertRow src dst)
  | .softmax row b =>
    match [row, row + 64].filter s.rowBad with
    | [] =>
      let m := s.rowGet row
      let t := s.rowGet (row + 64)
      let ps := (List.range 16).map fun j => softmaxLane (laneOf 32 m j) (laneOf 32 t j) (laneOf 32 b.toNat j)
      ((s.rowPut row (joinLanes 32 (ps.map (·.1)))).rowPut (row + 64) (joinLanes 32 (ps.map (·.2))), [], none)
    | bad => (s, bad.map fun r => bankFault r q.index, none)
  | .scale fmt row n x => s.scaleStep q.index fmt row n 0 x
  | .scaling fmt row n done x => s.scaleStep q.index fmt row n done x
  | .reduce fmt dest row n op => s.reduceStep q.index fmt dest row n op 0 true 0
  | .reducing fmt dest row n op done ok acc => s.reduceStep q.index fmt dest row n op done ok acc
  | .kacc fmt table nb probe key v => s.kaccStep fmt table nb probe 0 key v
  | .probing fmt table nb probe p key v => s.kaccStep fmt table nb probe p key v
  | .kaccAdd fmt table nb b j v => s.rowOp (table + valueRow nb b j) 0xE fun r => bankRow 0 fmt r v.toNat 0

/-- The row that the next access of a KACC reaches, for watchpoints (R249). -/
def BankCmd.keyedRow : BankCmd → Option Nat
  | .kacc _ t nb _ key _ => some (t + 64 * bucket key nb 0)
  | .probing _ t nb _ p key _ => some (t + 64 * bucket key nb p)
  | .kaccAdd _ t nb b j _ => some (t + valueRow nb b j)
  | _ => none

/-- The scratch rows that a KACC from probe p on may touch. -/
def kaccRows (t nb probe p : Nat) (key : BitVec 32) : List Nat :=
  (List.range (probe - p)).flatMap fun i =>
    let b := bucket key nb (p + i)
    (t + 64 * b) :: (List.range 16).map fun j => t + valueRow nb b j

/-- The scratch rows a command may touch, for the order of R109. -/
def BankCmd.rows : BankCmd → List Nat
  | .lane _ _ r _ _ => [r]
  | .fill r _ => [r]
  | .count _ r _ => [r]
  | .convert _ _ r => [r]
  | .softmax r _ => [r, r + 64]
  | .scale _ r n _ => (List.range n).map fun i => r + 1024 * i
  | .scaling _ r n d _ => (List.range (n - d)).map fun i => r + 1024 * (d + i)
  | .reduce _ d r n _ => d :: (List.range n).map fun i => r + 1024 * i
  | .reducing _ d r n _ k _ _ => d :: (List.range (n - k)).map fun i => r + 1024 * (k + i)
  | .kacc _ t nb probe key _ => kaccRows t nb probe 0 key
  | .probing _ t nb probe p key _ => kaccRows t nb probe p key
  | .kaccAdd _ t nb b j _ => [t + valueRow nb b j]

end Sys2Proof.Machine
end

