-- ==== Sys2Proof/Machine/Derived.lean ====
section
/-! DEFINITION. Derived tensors: the rules' outputs, the tiles that a base write marks, and recompute (spec/08_derived.md R134 to
R144), the key directory of spec/07_joins.md R119, and the access path that holds a read of a stale tile (R142). -/

namespace Sys2Proof.Machine

namespace Deriv
variable (d : Deriv)
def rule : Nat := (d.imm.extractLsb' 0 4).toNat
def sfmt : Nat := (d.imm.extractLsb' 4 4).toNat
def tfmt : Nat := (d.imm.extractLsb' 8 4).toNat
def bf : Bool := d.imm.getLsbD 12
def cols : Nat := (d.imm.extractLsb' 14 18).toNat + 1
def roww : Nat := (d.imm.extractLsb' 4 10).toNat + 1
def fcol : Nat := (d.imm.extractLsb' 14 10).toNat
def nf : Nat := (d.imm.extractLsb' 24 8).toNat + 1
/-- Source element size in bytes. -/
def ws : Nat := fmtWidth d.sfmt / 8
/-- ROWS of a matrix base (R134). -/
def rows : Nat := (CapF.limit d.ba - CapF.base d.ba) / (d.cols * d.ws)
/-- Is the target format scaled (R134)? -/
def scaled : Bool := (d.rule == 1 || d.rule == 5) && (d.tfmt == 3 || d.tfmt == 4 || d.tfmt == 6 || d.tfmt == 7 || d.tfmt == 8 || d.tfmt == 9)
/-- The target's row length and row count for CAST and REQ. -/
def tcols : Nat := if d.rule = 5 then d.rows else d.cols
def trows : Nat := if d.rule = 5 then d.cols else d.rows
/-- Output entries of the keyed rules. -/
def entries : Nat := (CapF.limit d.bt - CapF.base d.bt) / 4
/-- Bytes of elements of the output. -/
def elemBytes : Nat :=
  match d.rule with
  | 0 => d.rows * d.cols * d.ws
  | 1 | 5 => (d.rows * d.cols * fmtWidth d.tfmt + 7) / 8
  | 2 => d.rows * 4
  | _ => d.entries * 4
/-- Where the scale region starts (R134). -/
def scaleBase : Nat := (d.elemBytes + 4095) / 4096 * 4096
def scaleW : Nat := if d.bf then 2 else 1
/-- Scale tiles across a row of the target: 64 elements each (R160). -/
def tileCols : Nat := (d.tcols + 63) / 64
/-- Output bytes, the scale region included. -/
def outLen : Nat :=
  if d.scaled then d.scaleBase + (d.trows + 31) / 32 * d.tileCols * 64 * d.scaleW else d.elemBytes
/-- Tiles of the target (R138). -/
def tiles : Nat := (d.outLen + 4095) / 4096
/-- The byte of the scale region that holds the scale of row i, block b: A tiles of 32 rows by 64 elements, by row band and then along
the row (R160; DEDUCED, LOG 14). -/
def scaleByte (i b : Nat) : Nat :=
  let tile := i / 32 * d.tileCols + b / 2
  let r := i % 32
  let entry := 32 * (b % 2) + (if b % 2 = 1 then (r + 16) % 32 else r)
  d.scaleBase + (tile * 64 + entry) * d.scaleW
end Deriv

/-- The derivation whose target is an object (R137): its id and record. -/
def State.derivOf (s : State) (sid obj : Nat) : Option (Nat × Deriv) :=
  s.derivs.find? fun p => p.2.sid == sid && CapF.obj p.2.bt == obj

def State.tile (s : State) (d t : Nat) : Tile := (s.tiles.get (d, t)).getD { stale := false, gen := 0, err := false, busy := none }

/-! ## Key directories (R119) -/

/-- Read a 32-bit word of a capability's range, at a relative offset. -/
def State.capWord (s : State) (sid : Nat) (c : Cap) (rel : Nat) : Nat := leNat (s.devRead sid (CapF.obj c) (CapF.base c + rel) 4)

/-- NKEYS of a directory. -/
def State.nkeys (s : State) (sid : Nat) (dir : Cap) : Nat := s.capWord sid dir 0
def State.dirKey (s : State) (sid : Nat) (dir : Cap) (i : Nat) : Nat := s.capWord sid dir (16 + 4 * i)
def State.dirOffs (s : State) (sid : Nat) (dir : Cap) (nk i : Nat) : Nat := s.capWord sid dir (16 + 4 * nk + 4 * i)

/-- The binary search of R119, with fuel for its 32 halvings. -/
def State.dirSearch (s : State) (sid : Nat) (dir : Cap) (k : Nat) : Nat → Nat → Nat → Nat
  | 0, lo, _ => lo
  | n + 1, lo, hi =>
    if lo < hi then
      let mid := (lo + hi) / 2
      if s.dirKey sid dir mid < k then State.dirSearch s sid dir k n (mid + 1) hi else State.dirSearch s sid dir k n lo mid
    else lo

/-- R119's location of key k: (lo, first, len). -/
def State.locate (s : State) (sid : Nat) (dir : Cap) (k : Nat) : Nat × Nat × Nat :=
  let nk := s.nkeys sid dir
  let lo := s.dirSearch sid dir k 33 0 nk
  if lo < nk ∧ s.dirKey sid dir lo = k then
    let f := s.dirOffs sid dir nk lo
    (lo, f, s.dirOffs sid dir nk (lo + 1) - f)
  else (lo, 0, 0)

/-! ## Outputs (R134) -/

/-- Source element (i, j) of a matrix base: its offset. -/
def Deriv.srcOff (d : Deriv) (i j : Nat) : Nat := CapF.base d.ba + (i * d.cols + j) * d.ws

def State.srcElem (s : State) (d : Deriv) (i j : Nat) : Nat := leNat (s.devRead d.sid (CapF.obj d.ba) (d.srcOff i j) d.ws)

/-- Element (r, c) of the target of CAST or REQ is source (r, c) or (c, r). -/
def State.tgtSource (s : State) (d : Deriv) (r c : Nat) : Num :=
  fmtDecode d.sfmt (if d.rule = 5 then s.srcElem d c r else s.srcElem d r c)

/-- A conversion target's element from its exact source: RNE and saturation; NaN to an integer is 0 (R134, R152). -/
def castElem (f : Nat) (x : Num) : Nat := (convert f .rne x).1

/-- The quantised block b of target row r: its scale code and elements (R162). -/
def State.tgtBlock (s : State) (d : Deriv) (r b : Nat) : Nat × List Nat :=
  let q := quantise d.tfmt d.bf .rne ((List.range 32).map fun k => s.tgtSource d r (32 * b + k))
  (q.1, q.2.1)

/-- Element e of the target of CAST or REQ, as its code. -/
def State.tgtElem (s : State) (d : Deriv) (e : Nat) : Nat :=
  let r := e / d.tcols
  let c := e % d.tcols
  if d.scaled then (s.tgtBlock d r (c / 32)).2.getD (c % 32) 0 else castElem d.tfmt (s.tgtSource d r c)

/-- A sum rounded once to F32 with RNE: canonical NaN for NaN or opposing infinities, saturating (R134). -/
def sumF32 (xs : List Num) : Nat := (FFmt.f32.round .rne true (sumNum .rne xs)).1

/-- Relation rows of key i's run (R119, R134). -/
def State.runOf (s : State) (sid : Nat) (dir : Cap) (i : Nat) : Nat × Nat :=
  let nk := s.nkeys sid dir
  if nk ≤ i then (0, 0) else
  let f := s.dirOffs sid dir nk i
  (f, s.dirOffs sid dir nk (i + 1) - f)

/-- Does relation row r lie wholly inside ba's bounds? -/
def Deriv.rowInside (d : Deriv) (r : Nat) : Bool := decide (CapF.base d.ba + (r + 1) * (d.roww * 4) ≤ CapF.limit d.ba)

/-- KSUM's entry i. -/
def State.ksum (s : State) (d : Deriv) (i : Nat) : Nat :=
  let (f, n) := s.runOf d.sid d.bb i
  let terms := ((List.range n).filter fun p => d.rowInside (f + p)).map fun p =>
    (List.range d.nf).map fun k =>
      (FFmt.f32.decode (s.capWord d.sid d.bc (4 * k))).mul
        (FFmt.f32.decode (s.capWord d.sid d.ba ((f + p) * (d.roww * 4) + 4 * (d.fcol + k))))
  if terms.flatten.isEmpty then 0 else sumF32 terms.flatten

/-- Output byte i of a derivation, relative to the target's BASE. -/
def State.outByte (s : State) (d : Deriv) (i : Nat) : Byte :=
  if i < d.elemBytes then
    match d.rule with
    | 0 =>
      let e := i / d.ws
      BitVec.ofNat 8 (s.srcElem d (e % d.rows) (e / d.rows) / 256 ^ (i % d.ws))
    | 2 =>
      let r := i / 4
      BitVec.ofNat 8 (sumF32 ((List.range d.cols).map fun j => fmtDecode d.sfmt (s.srcElem d r j)) / 256 ^ (i % 4))
    | 3 => BitVec.ofNat 8 (s.ksum d (i / 4) / 256 ^ (i % 4))
    | 4 => BitVec.ofNat 8 ((s.runOf d.sid d.ba (i / 4)).2 / 256 ^ (i % 4))
    | _ =>
      let w := fmtWidth d.tfmt
      if w = 4 then BitVec.ofNat 8 (s.tgtElem d (2 * i) + 16 * s.tgtElem d (2 * i + 1))
      else BitVec.ofNat 8 (s.tgtElem d (i / (w / 8)) / 256 ^ (i % (w / 8)))
  else if d.scaled ∧ d.scaleBase ≤ i then
    let u := (i - d.scaleBase) / d.scaleW
    let tile := u / 64
    let entry := u % 64
    let b := entry / 32
    let r := tile / d.tileCols * 32 + (if b = 1 then (entry % 32 + 16) % 32 else entry)
    let blk := tile % d.tileCols * 2 + b
    if r < d.trows ∧ blk * 32 < d.tcols then BitVec.ofNat 8 ((s.tgtBlock d r blk).1 / 256 ^ ((i - d.scaleBase) % d.scaleW)) else 0
  else 0

/-- The base bytes that output byte i reads: (capability, offset, length). -/
def State.reads (s : State) (d : Deriv) (i : Nat) : List (Cap × Nat × Nat) :=
  if d.outLen ≤ i then [] else
  match d.rule with
  | 0 => let e := i / d.ws; [(d.ba, d.srcOff (e % d.rows) (e / d.rows), d.ws)]
  | 2 => [(d.ba, d.srcOff (i / 4) 0, d.cols * d.ws)]
  | 3 =>
    let (f, n) := s.runOf d.sid d.bb (i / 4)
    [(d.bb, CapF.base d.bb, 20 + 8 * s.nkeys d.sid d.bb), (d.bc, CapF.base d.bc, 4 * d.nf)] ++
      ((List.range n).filter fun p => d.rowInside (f + p)).map fun p => (d.ba, CapF.base d.ba + (f + p) * (d.roww * 4), d.roww * 4)
  | 4 => [(d.ba, CapF.base d.ba, 20 + 8 * s.nkeys d.sid d.ba)]
  | _ =>
    let blk (r b : Nat) := (List.range 32).map fun k =>
      if d.rule = 5 then (d.ba, d.srcOff (32 * b + k) r, d.ws) else (d.ba, d.srcOff r (32 * b + k), d.ws)
    if i < d.elemBytes then
      let e := i * 8 / fmtWidth d.tfmt
      if d.scaled then blk (e / d.tcols) (e % d.tcols / 32)
      else [(d.ba, (if d.rule = 5 then d.srcOff (e % d.tcols) (e / d.tcols) else d.srcOff (e / d.tcols) (e % d.tcols)), d.ws)]
    else if d.scaleBase ≤ i then
      let u := (i - d.scaleBase) / d.scaleW
      let b := u % 64 / 32
      let r := u / 64 / d.tileCols * 32 + (if b = 1 then (u % 32 + 16) % 32 else u % 32)
      let bl := u / 64 % d.tileCols * 2 + b
      if r < d.trows ∧ bl * 32 < d.tcols then blk r bl else []
    else []

/-! ## Marking (R140) -/

/-- The offset at which window object `b` shows byte `off` of direct object `obj`: itself, or the inverse of R91. -/
def State.windowOff (s : State) (sid b obj off : Nat) : Option Nat :=
  if b = obj then some off else
  match s.objEntry sid b with
  | some e =>
    if e.cls = 2 ∧ e.ali = obj then
      let pc := channelOf obj off
      if pc / 8 = e.slice then some (off / 256 / 1280 * 2048 + pc % 8 * 256 + off % 256) else none
    else none
  | none => none

/-- The tiles that hold output bytes from a to a + n - 1. -/
def tilesOf (a n : Nat) : List Nat := if n = 0 then [] else (List.range ((a + n - 1) / 4096 - a / 4096 + 1)).map (a / 4096 + ·)

/-- The tiles of d that a written byte of one base marks (R140). `which` is 0 for ba, 1 for bb, 2 for bc; `rel` counts from its BASE. -/
def State.markedTiles (s : State) (d : Deriv) (which rel : Nat) : List Nat :=
  let all := List.range d.tiles
  match d.rule, which with
  | 0, 0 =>
    let e := rel / d.ws
    if e / d.cols < d.rows then tilesOf ((e % d.cols * d.rows + e / d.cols) * d.ws) d.ws else []
  | 2, 0 => let i := rel / d.ws / d.cols; if i < d.rows then tilesOf (4 * i) 4 else []
  | 3, 0 =>
    let r := rel / (d.roww * 4)
    ((List.range (min d.entries (s.nkeys d.sid d.bb))).filter fun i =>
      let (f, n) := s.runOf d.sid d.bb i
      decide (f ≤ r) && decide (r < f + n)).map fun i => 4 * i / 4096
  | 1, 0 =>
    let e := rel / d.ws
    let i := e / d.cols
    let j := e % d.cols
    let w := fmtWidth d.tfmt
    if i < d.rows then
      if d.scaled then tilesOf ((i * d.cols + j / 32 * 32) * w / 8) (4 * w) ++ tilesOf (d.scaleByte i (j / 32)) d.scaleW
      else tilesOf (e * w / 8) ((w + 7) / 8)
    else []
  | 5, 0 =>
    let e := rel / d.ws
    let i := e / d.cols
    let j := e % d.cols
    let w := fmtWidth d.tfmt
    if i < d.rows then
      let n := min 32 (d.rows - i / 32 * 32)
      tilesOf ((j * d.rows + i / 32 * 32) * w / 8) (n * w / 8) ++ (if d.scaled then tilesOf (d.scaleByte j (i / 32)) d.scaleW else [])
    else []
  | _, _ => all

/-- A range of an object that is written: (space, object, offset, length). -/
abbrev WriteRange := Nat × Nat × Nat × Nat

/-- The bases of a derivation with their places in the rule. -/
def Deriv.bases (d : Deriv) : List (Nat × Cap) :=
  if d.rule = 3 then [(0, d.ba), (1, d.bb), (2, d.bc)] else [(0, d.ba)]

/-- Every (derivation, tile) that the written bytes of one range mark directly. -/
def State.marksOf (s : State) (r : WriteRange) : List (Nat × Nat) :=
  let (sid, obj, off, n) := r
  (s.derivs.filter fun p => p.2.sid == sid).flatMap fun p => p.2.bases.flatMap fun b =>
    (List.range n).flatMap fun i =>
      match s.place sid obj (off + i) with
      | none => []
      | some pl =>
        match s.windowOff sid (CapF.obj b.2) pl.obj pl.off with
        | some w =>
          if CapF.base b.2 ≤ w ∧ w < CapF.limit b.2 then (s.markedTiles p.2 b.1 (w - CapF.base b.2)).map fun t => (p.1, t) else []
        | none => []

/-- The tiles that a set of marked tiles marks in turn, level by level (R140). -/
def State.markClosure (s : State) : Nat → List (Nat × Nat) → List (Nat × Nat)
  | 0, ts => ts
  | n + 1, ts =>
    let next := ts.flatMap fun t =>
      match s.derivs.get t.1 with
      | some d => s.marksOf (d.sid, CapF.obj d.bt, CapF.base d.bt + 4096 * t.2, 4096)
      | none => []
    let new := next.filter fun t => ! ts.contains t
    if new.isEmpty then ts else State.markClosure s n (ts ++ new)

/-- Every tile that written ranges mark (R140). The graph of derivations has no cycle (R136), so no chain in it is longer than their number. -/
def State.marked (s : State) (ws : List WriteRange) : List (Nat × Nat) := (s.markClosure s.derivs.length (ws.flatMap s.marksOf)).eraseDups

/-- Does a tile's ninth attempt delay the marking of written ranges (R142)? -/
def State.markHeld (s : State) (ws : List WriteRange) : Bool :=
  ! s.derivs.isEmpty && (s.marked ws).any fun t => match (s.tile t.1 t.2).busy with | some (_, k) => k == 8 | none => false

/-- One marking step (R140): each tile reached becomes stale and advances its GEN once. -/
def State.markStep (s : State) (ws : List WriteRange) : State :=
  if s.derivs.isEmpty then s else
  let ts := s.marked ws
  ts.foldl (fun s t =>
    let x := s.tile t.1 t.2
    { s with tiles := s.tiles.set t { x with stale := true, gen := x.gen + 1 } }) s

/-! ## Recompute (R142) -/

/-- The parts of a range of an object that lie in one granule of 256 bytes of it: (offset, length). -/
def granuleParts (off n : Nat) : List (Nat × Nat) :=
  (granuleStarts off n).map fun o => (o, min (off + n) ((o / 256 + 1) * 256) - o)

/-- The tiles of derived bases that output tile t reads, those behind an alias base among them (R91, R136): (derivation, tile). -/
def State.baseTiles (s : State) (d : Deriv) (t : Nat) : List (Nat × Nat) :=
  (((List.range 4096).flatMap fun i => s.reads d (4096 * t + i)).eraseDups.flatMap fun r =>
    (granuleParts r.2.1 r.2.2).flatMap fun p =>
      match s.place d.sid (CapF.obj r.1) p.1 with
      | none => []
      | some pl =>
        match s.derivOf d.sid pl.obj with
        | some (id, e) =>
          if CapF.base e.bt < pl.off + p.2 then
            let a := max pl.off (CapF.base e.bt)
            (tilesOf (a - CapF.base e.bt) (pl.off + p.2 - a)).map fun u => (id, u)
          else []
        | none => []).eraseDups

/-- The first base byte that tile t reads and that is uncorrectable: its window and offset. -/
def State.badBase (s : State) (d : Deriv) (t : Nat) : Option (Nat × Nat) :=
  if s.bad.isEmpty && s.badLine.isEmpty then none else
  ((List.range 4096).flatMap fun i => s.reads d (4096 * t + i)).findSome? fun r =>
    ((List.range r.2.2).find? fun i => s.devBad d.sid (CapF.obj r.1) (r.2.1 + i) 1).map fun i => (CapF.obj r.1, r.2.1 + i)

/-- Is a base byte that tile t reads uncorrectable? -/
def State.baseBad (s : State) (d : Deriv) (t : Nat) : Bool := (s.badBase d t).isSome

/-- A recompute's uncorrectable base read: counted on its channel, and logged (R251, R252). -/
def State.countBase (s : State) (d : Deriv) (t : Nat) : State :=
  match s.badBase d t with
  | some (o, a) => let (ch, ln) := s.devChan d.sid o a; s.countUnc 0x41 ch ln
  | none => s

/-- Does some row of the runs that tile t sums lie outside ba's bounds (R134)? -/
def State.tileErr (s : State) (d : Deriv) (t : Nat) : Bool :=
  d.rule == 3 && (List.range 1024).any fun k =>
    let (f, n) := s.runOf d.sid d.bb (1024 * t + k)
    decide (1024 * t + k < d.entries) && (List.range n).any fun p => ! d.rowInside (f + p)

/-- Write a recomputed tile: its bytes, STALE 0, ERR; the write marks the tiles of targets of which it is a base (R140). -/
def State.writeTile (s : State) (id : Nat) (d : Deriv) (t : Nat) : State :=
  let out := (List.range 4096).map fun i => s.outByte d (4096 * t + i)
  let err := s.tileErr d t
  let off := CapF.base d.bt + 4096 * t
  let s := (s.noteOld d.sid (CapF.obj d.bt) off 4096).devWrite d.sid (CapF.obj d.bt) off out
  let x := s.tile id t
  let s := { s with tiles := s.tiles.set (id, t) { x with stale := false, err := err, busy := none } }
  s.markStep [(d.sid, CapF.obj d.bt, off, 4096)]

/-- Expand the cold slabs of the base bytes a tile reads, and those of the tile; none while one migrates or the pool is full (R142, R234). -/
def State.expandBases (s : State) (d : Deriv) (t : Nat) : Option State :=
  let rs := ((List.range 4096).flatMap fun i => s.reads d (4096 * t + i)).eraseDups
  (rs.foldl (fun o r => match o with | some s => s.expand d.sid (CapF.obj r.1) (granuleStarts r.2.1 r.2.2) | none => none) (some s)).bind
    fun s => s.expand d.sid (CapF.obj d.bt) (granuleStarts (CapF.base d.bt + 4096 * t) 4096)

/-- The stale base tiles of a tile rebuilt by `rec`, round by round: a rebuilt directory may reach further ones (R142). A round that mends nothing is
the last. None while a base access waits. -/
def State.rebuild (rec : State → Nat → Nat → Option State) (d : Deriv) (t : Nat) : Nat → State → Option State
  | 0, s => some s
  | n + 1, s =>
    let below := (s.baseTiles d t).filter fun u => (s.tile u.1 u.2).stale
    if below.isEmpty then some s else
    match below.foldl (fun o u => match o with | some s => rec s u.1 u.2 | none => none) (some s) with
    | none => none
    | some s' => if below.all fun u => (s'.tile u.1 u.2).stale then some s' else State.rebuild rec d t n s'

/-- Recompute one tile to its end (R142). `fuel` bounds the levels below it and the attempts. None while a base access waits, or while another
tile's ninth attempt delays the marking that the write causes; an uncorrectable base leaves the tile stale. -/
def State.recompute : Nat → State → Nat → Nat → Option State
  | 0, s, _, _ => some s
  | n + 1, s, id, t =>
    match s.derivs.get id with
    | none => some s
    | some d =>
      let g := (s.tile id t).gen
      match State.rebuild (fun s i u => State.recompute n s i u) d t 4 s with
      | none => none
      | some s =>
        match s.expandBases d t with
        | none => none
        | some s =>
          if s.baseBad d t || (s.baseTiles d t).any (fun u => (s.tile u.1 u.2).stale) then some (s.countBase d t)
          else if s.markHeld [(d.sid, CapF.obj d.bt, CapF.base d.bt + 4096 * t, 4096)] then none
          else if (s.tile id t).gen = g then some (s.writeTile id d t)
          else State.recompute n s id t

/-- The stale tiles that a read of an object's range touches. -/
def State.staleTiles (s : State) (sid obj off n : Nat) : List (Nat × Nat) :=
  if s.derivs.isEmpty then [] else
  (List.range n).foldl (fun acc i =>
    match s.place sid obj (off + i) with
    | none => acc
    | some p =>
      match s.derivOf sid p.obj with
      | some (id, d) =>
        if CapF.base d.bt ≤ p.off then
          let u := (id, (p.off - CapF.base d.bt) / 4096)
          if u.2 < d.tiles && (s.tile u.1 u.2).stale && ! acc.contains u then acc ++ [u] else acc
        else acc
      | none => acc) []

/-- A derived object's tile that a write issued before its DREG reaches awaits its first recompute, which overwrites it (R344). -/
def State.overDerived (s : State) (sid obj off n : Nat) : State :=
  if s.derivs.isEmpty then s else
  (List.range n).foldl (fun s i =>
    match s.place sid obj (off + i) with
    | none => s
    | some p =>
      match s.derivOf sid p.obj with
      | some (id, d) =>
        if CapF.base d.bt ≤ p.off ∧ (p.off - CapF.base d.bt) / 4096 < d.tiles then
          let t := (p.off - CapF.base d.bt) / 4096
          { s with tiles := s.tiles.set (id, t) { s.tile id t with stale := true } }
        else s
      | none => s) s

/-- Plain bytes are about to be written through a window: what other windows hold stays as it is (R203), and of a derived object R344. -/
def State.beforeWrite (s : State) (sid obj off n : Nat) : State := (s.noteOld sid obj off n).overDerived sid obj off n

/-- What every device-memory access does before it is performed: it expands cold slabs (R234), waits out a migration (R235), has
stale tiles recomputed when it reads (R142), counts heat (R128), and fills its core's object cache (R92). None: it waits. -/
def State.devTouch (s : State) (port sid obj off n : Nat) (isRead : Bool) : Option State :=
  match s.expand sid obj (granuleStarts off n) with
  | none => none
  | some s =>
    let ts := if isRead then s.staleTiles sid obj off n else []
    match ts.foldl (fun o u => match o with | some s => State.recompute (s.derivs.length + 8) s u.1 u.2 | none => none) (some s) with
    | none => none
    | some s => let s := (s.heat sid obj off port).cacheObj sid obj
      some (if isRead then s.pickLines sid obj off n else s)

/-- The base byte whose error leaves the stale tile of a byte as it is (R142): its window and offset, at the lowest level of the chain. -/
def State.tileBase (s : State) (sid obj off : Nat) : Option (Nat × Nat) :=
  let rec go : Nat → List (Nat × Nat) → Option (Nat × Nat)
    | 0, _ => none
    | n + 1, us =>
      match us.findSome? fun u => (s.derivs.get u.1).bind fun d => s.badBase d u.2 with
      | some r => some r
      | none => if us.isEmpty then none else
        go n (us.flatMap fun u => match s.derivs.get u.1 with
          | some d => (s.baseTiles d u.2).filter fun w => (s.tile w.1 w.2).stale
          | none => [])
  if s.devBad sid obj off 1 then none else go (s.derivs.length + 1) (s.staleTiles sid obj off 1)

/-- Does a read of the range return uncorrectable data: a bad byte, or a tile whose recompute met one (R142, R247)? -/
def State.readBad (s : State) (sid obj off n : Nat) : Bool :=
  s.devBad sid obj off n || ! (s.staleTiles sid obj off n).isEmpty

end Sys2Proof.Machine
end

