-- ==== Sys2Proof/Machine/Flags.lean ====
section
/-! DEFINITION. The fields of STATUS (spec/23_ref_c_f.md R358, spec/09_numbers.md R150, R151) and the results of the scalar ALU,
which sets no flag (spec/10_encoding.md R187 to R189). -/

namespace Sys2Proof.Machine

/-! ## STATUS (R358) -/

namespace Ctx
variable (x : Ctx)
def sv : Bool := x.status.getLsbD 0
def ie : Bool := x.status.getLsbD 1
def pp : Bool := x.status.getLsbD 2
def jr : Bool := x.status.getLsbD 3
def xp : Bool := x.status.getLsbD 4
def dn : Bool := x.status.getLsbD 5
def rm : BitVec 2 := x.status.extractLsb' 6 2
def payload : BitVec 15 := x.status.extractLsb' 16 15
end Ctx

/-- A status word with one bit set or cleared. -/
def setBit (w : Word) (n : Nat) (b : Bool) : Word :=
  if b then w ||| (1#64 <<< n) else w &&& ~~~(1#64 <<< n)

/-- The status word with the prefix consumed: PP = 0 (R154). -/
def Ctx.consumePrefix (x : Ctx) : Ctx := { x with status := setBit x.status 2 false }

/-- The exception flags made sticky in STATUS (R151). -/
def Ctx.raiseFlags (x : Ctx) (f : Flags) : Ctx := { x with status := x.status ||| f.bits }

/-! ## Scalar ALU (R187, R188) -/

/-- The low w bits of a register value (R187). -/
def lowBits (w : Nat) (a : Word) : Nat := a.toNat % 2 ^ w

/-- A w-bit result zero-extended to a register (R187). -/
def zextW (w : Nat) (n : Nat) : Word := BitVec.ofNat 64 (n % 2 ^ w)

/-- The w-bit value as U selects (R187). -/
def aluInt (u : Bool) (w : Nat) (a : Word) : Int := if u then ((lowBits w a : Nat) : Int) else sextNat64 w (lowBits w a)
where
  /-- Two's complement of w bits. -/
  sextNat64 (w x : Nat) : Int := if x < 2 ^ (w - 1) then (x : Int) else (x : Int) - ((2 ^ w : Nat) : Int)

/-- An integer wrapped to w bits and zero-extended. -/
def wrapInt (w : Nat) (i : Int) : Word := BitVec.ofNat 64 (i % ((2 ^ w : Nat) : Int)).toNat

def aluAdd (w : Nat) (a b : Word) : Word := zextW w (lowBits w a + lowBits w b)
def aluSub (w : Nat) (a b : Word) : Word := zextW w (lowBits w a + 2 ^ w - lowBits w b)
def aluMul (w : Nat) (a b : Word) : Word := zextW w (lowBits w a * lowBits w b)

/-- Bits [2w-1:w] of the exact product (R188). -/
def aluMulh (u : Bool) (w : Nat) (a b : Word) : Word :=
  wrapInt w ((aluInt u w a * aluInt u w b) / ((2 ^ w : Nat) : Int))

/-- Truncating division; all ones for b = 0; the most negative value divided by -1 wraps to itself (R188). -/
def aluDiv (u : Bool) (w : Nat) (a b : Word) : Word :=
  if lowBits w b = 0 then zextW w (2 ^ w - 1) else wrapInt w (Int.tdiv (aluInt u w a) (aluInt u w b))

/-- a - b x DIV(a, b), the sign of a; a for b = 0 (R188). -/
def aluRem (u : Bool) (w : Nat) (a b : Word) : Word :=
  if lowBits w b = 0 then zextW w (lowBits w a) else wrapInt w (Int.tmod (aluInt u w a) (aluInt u w b))

def aluAnd (w : Nat) (a b : Word) : Word := zextW w (a &&& b).toNat
def aluOr (w : Nat) (a b : Word) : Word := zextW w (a ||| b).toNat
def aluXor (w : Nat) (a b : Word) : Word := zextW w (a ^^^ b).toNat
def aluShl (w : Nat) (a b : Word) : Word := zextW w (lowBits w a * 2 ^ (lowBits w b % w))
def aluShr (w : Nat) (a b : Word) : Word := zextW w (lowBits w a / 2 ^ (lowBits w b % w))
def aluSar (w : Nat) (a b : Word) : Word := wrapInt w (aluInt false w a / ((2 ^ (lowBits w b % w) : Nat) : Int))
def aluMin (u : Bool) (w : Nat) (a b : Word) : Word := zextW w (lowBits w (if aluInt u w b < aluInt u w a then b else a))
def aluMax (u : Bool) (w : Nat) (a b : Word) : Word := zextW w (lowBits w (if aluInt u w a < aluInt u w b then b else a))

/-- a COND b (R189). -/
def aluCond (c : Nat) (w : Nat) (a b : Word) : Bool :=
  let sa := aluInt false w a
  let sb := aluInt false w b
  let ua := lowBits w a
  let ub := lowBits w b
  match c with
  | 0 => ua == ub | 1 => ua != ub | 2 => decide (sa < sb) | 3 => decide (sb ≤ sa) | 4 => decide (ua < ub)
  | 5 => decide (ub ≤ ua) | 6 => decide (sa ≤ sb) | 7 => decide (sb < sa) | 8 => decide (ua ≤ ub) | _ => decide (ub < ua)

/-- Leading zeros of a w-bit value; w for 0 (R188). -/
def clzNat (w n : Nat) : Nat := if n = 0 then w else w - 1 - n.log2

/-- Ones among bits 0 to w - 1 (R188). -/
def popNat : Nat → Nat → Nat
  | 0, _ => 0
  | w + 1, n => n % 2 + popNat w (n / 2)

/-- Bits [pos+len-1:pos] (R188). -/
def aluBfx (a : Word) (pos len : Nat) : Word := BitVec.ofNat 64 (a.toNat / 2 ^ pos % 2 ^ len)

/-- gd with bits [pos+len-1:pos] replaced by a[len-1:0], in w bits (R188). -/
def aluBfi (w : Nat) (d a : Word) (pos len : Nat) : Word :=
  let x := lowBits w d
  zextW w (x / 2 ^ (pos + len) * 2 ^ (pos + len) + a.toNat % 2 ^ len * 2 ^ pos + x % 2 ^ pos)

/-- MOVI's value (R188). -/
def movImm (mod : BitVec 2) (imm : BitVec 32) : Word :=
  match mod.toNat with
  | 3 => imm.signExtend 64
  | 2 => imm.zeroExtend 64
  | 1 => (imm.extractLsb' 0 16).zeroExtend 64
  | _ => (imm.extractLsb' 0 8).zeroExtend 64

/-- The KLOG operations (R367), codes 0 to 5. -/
def klogOp (c : Nat) (a b : Word) : Word :=
  match c with
  | 0 => a &&& b | 1 => a ||| b | 2 => a ^^^ b | 3 => a &&& ~~~b | 4 => a ||| ~~~b | _ => ~~~(a ^^^ b)

end Sys2Proof.Machine
end

