-- ==== Sys2Proof/Machine/Operands.lean ====
section
/-! DEFINITION. Register access and operand forms (spec/05_memory.md R74, R75; spec/10_encoding.md R173 to R175, R187;
spec/02_tutorial.md R16, R17; spec/13_near_memory.md R223). -/

namespace Sys2Proof.Machine

namespace Ctx

/-- g n: g0 reads zero (R75). -/
def readG (x : Ctx) (n : BitVec 6) : Word := if n = 0 then 0 else x.g[n.toNat]'n.isLt
/-- k n: k0 reads all ones (R75). -/
def readK (x : Ctx) (n : BitVec 3) : Word := if n = 0 then 0xFFFFFFFFFFFFFFFF else x.k[n.toNat]'n.isLt
def readO (x : Ctx) (n : BitVec 3) : Word := x.o[n.toNat]'n.isLt
def readB (x : Ctx) (n : BitVec 4) : Cap := x.b[n.toNat]'n.isLt
def readV (x : Ctx) (n : BitVec 5) : Vec := x.v[n.toNat]'n.isLt
def readH (x : Ctx) (n : BitVec 4) : Handle := x.h[n.toNat]'n.isLt
def readS (x : Ctx) (n : BitVec 3) : Option Stream := x.st[n.toNat]'n.isLt

/-- A write to g0 is discarded (R75). -/
def writeG (x : Ctx) (n : BitVec 6) (w : Word) : Ctx := if n = 0 then x else { x with g := x.g.set n.toNat w n.isLt }
/-- A write to k0 is discarded (R75). -/
def writeK (x : Ctx) (n : BitVec 3) (w : Word) : Ctx := if n = 0 then x else { x with k := x.k.set n.toNat w n.isLt }
def writeO (x : Ctx) (n : BitVec 3) (w : Word) : Ctx := { x with o := x.o.set n.toNat w n.isLt }
def writeB (x : Ctx) (n : BitVec 4) (c : Cap) : Ctx := { x with b := x.b.set n.toNat c n.isLt }
def writeV (x : Ctx) (n : BitVec 5) (w : Vec) : Ctx := { x with v := x.v.set n.toNat w n.isLt }
def writeH (x : Ctx) (n : BitVec 4) (h : Handle) : Ctx := { x with h := x.h.set n.toNat h n.isLt }
def writeS (x : Ctx) (n : BitVec 3) (s : Option Stream) : Ctx := { x with st := x.st.set n.toNat s n.isLt }

/-- The pd entry at distance n + 1 (R17). At the higher member of a pair (`pair`) distance 1 is its partner, which names no result. -/
def readPd (x : Ctx) (n : BitVec 2) (pair : Bool) : PdEntry :=
  if pair && n == 0 then .none else x.pd.getD n.toNat .none

/-- Record what an instruction leaves for pd: the last four are kept (R17, R74). -/
def pushPd (x : Ctx) (e : PdEntry) : Ctx := { x with pd := (e :: x.pd).take 4 }

/-- The predicate of an instruction, inverted in every bit under PS (R16, R175). -/
def mask (x : Ctx) (f : Fld) : Word := if f.ps then ~~~(x.readK f.pk) else x.readK f.pk

/-- A scalar instruction executes when bit 0 of its predicate is 1 (R16). -/
def executes (x : Ctx) (f : Fld) : Bool := (x.mask f).getLsbD 0

end Ctx

/-- The scalar value of a source (R173, R174): a g, o or k register, a pd result, or the immediate sext(IMM[23:0], 64). -/
def srcW (x : Ctx) (f : Fld) (pair : Bool) (o : Operand) : Word :=
  match o with
  | .g n => x.readG n
  | .o n => x.readO n
  | .k n => x.readK n
  | .pd n => match x.readPd n pair with | .scalar w => w | _ => 0
  | .imm => f.off24.signExtend 64
  | _ => 0

/-- A w-bit value copied into every lane of a vector. -/
def broadcast (w n : Nat) : Vec := BitVec.ofNat 1024 (joinLanes w (List.replicate (1024 / w) n))

/-- The vector value of a source in w-bit lanes: a v register or vector result whole, a scalar broadcast by its low lane bits. -/
def srcV (x : Ctx) (f : Fld) (pair : Bool) (w : Nat) (o : Operand) : Vec :=
  match o with
  | .v n => x.readV n
  | .pd n => match x.readPd n pair with | .vector v => v | .scalar a => broadcast w (a.toNat % 2 ^ w) | .none => 0
  | o => broadcast w ((srcW x f pair o).toNat % 2 ^ w)

/-- The capability of a b source. -/
def srcC (x : Ctx) (o : Operand) : Cap := match o with | .b n => x.readB n | _ => 0

/-- The handle of an h source. -/
def srcH (x : Ctx) (o : Operand) : Handle := match o with | .h n => x.readH n | _ => .empty

/-- A 64-bit result to a g, o or k destination. -/
def Ctx.writeW (x : Ctx) (o : Operand) (w : Word) : Ctx :=
  match o with
  | .g n => x.writeG n w
  | .o n => x.writeO n w
  | .k n => x.writeK n w
  | _ => x

def Ctx.writeVec (x : Ctx) (o : Operand) (v : Vec) : Ctx := match o with | .v n => x.writeV n v | _ => x
def Ctx.writeCap (x : Ctx) (o : Operand) (c : Cap) : Ctx := match o with | .b n => x.writeB n c | _ => x
def Ctx.writeHandle (x : Ctx) (o : Operand) (h : Handle) : Ctx := match o with | .h n => x.writeH n h | _ => x

/-- The operand fields of an instruction that its entry uses. -/
def usedFields (i : Instr) : List Operand :=
  match i.shape with
  | some (p, f) =>
    (if p.dst.isEmpty then [] else [f.dst]) ++ (if p.sa.isEmpty then [] else [f.sa]) ++
    (if p.sb.isEmpty then [] else [f.sb]) ++ (if p.sc.isEmpty then [] else [f.sc])
  | none => []

/-- May this field's class list take a vector, and a scalar? In group 3 a pd that names a scalar supplies every lane (R402). -/
def fieldTakes (group3 : Bool) (l : List Cls) (e : PdEntry) : Bool :=
  match e with
  | .none => false
  | .scalar _ => group3 || l.contains .g || l.contains .o || l.contains .k
  | .vector _ => l.contains .v

/-- The first pd source that names no result, or a result its field does not take (R17). -/
def badPd (x : Ctx) (pair : Bool) (i : Instr) : Option Operand :=
  match i.shape with
  | some (p, f) =>
    let bad (l : List Cls) (o : Operand) : Bool :=
      match o with
      | .pd n => ! l.isEmpty && ! fieldTakes (p.opc.toNat / 64 == 3) l (x.readPd n pair)
      | _ => false
    if bad p.sa f.sa then some f.sa else if bad p.sb f.sb then some f.sb else if bad p.sc f.sc then some f.sc else none
  | none => none

/-- Is the class open to this agent: a handler has g, k and b (R223); a loader or storer has no v (R75)? -/
def classOpen (a : Agent) (o : Operand) : Bool :=
  match a with
  | .handler _ => match o with | .g _ => true | .k _ => true | .b _ => true | .imm => true | _ => false
  | .ctx c => c.kind == .computer || ! o.isV

/-- Is the register within the agent's demand (R26, R223)? -/
def inDemand (a : Agent) (x : Ctx) (o : Operand) : Bool :=
  match o with
  | .g n => decide (n.toNat < x.gdem)
  | .v n => decide (n.toNat < x.vdem)
  | .b n => match a with | .handler _ => decide (n.toNat < 4) | .ctx _ => true
  | _ => true

end Sys2Proof.Machine
end

