-- ==== Sys2Proof/Machine/Work.lean ====
section
/-! DEFINITION. A context's accesses on their way: held plain stores, outstanding loads, queued bank commands and atomic requests,
how each is performed at its home, the order among them, and publication (spec/11_ordering.md R190 to R202, spec/06_bank_units.md
R109 to R112, spec/12_sync.md R217, spec/14_faults.md R246, R247, R251, R252, R419). -/

namespace Sys2Proof.Machine

/-- The channel and line of a target's byte (R251, R419); of a tile that a bad base byte leaves stale, that byte's (R142). -/
def State.chanOf (s : State) (t : Target) : Nat × Nat :=
  match t with
  | .dev sid obj off => match s.tileBase sid obj off with
      | some (o, a) => s.devChan sid o a
      | none => s.devChan sid obj off
  | .scr core off => (0x800 + 16 * core + off / 64 % 16, off / 1024)

/-- The address a cause reports for a target: an object offset or an absolute local address (R244). -/
def Target.eaddr : Target → Word
  | .dev _ _ off => BitVec.ofNat 64 off
  | .scr core off => BitVec.ofNat 64 (absLocal core off)

/-! ## Ranges -/

/-- The target moved by n bytes. -/
def Target.plus (t : Target) (n : Nat) : Target :=
  match t with
  | .dev sid obj off => .dev sid obj (off + n)
  | .scr core off => .scr core (off + n)

/-- Do two byte ranges share an ordering unit: an aligned 8 bytes of device memory, or a scratch row (R109, R193)? -/
def Target.meets (a : Target) (n : Nat) (b : Target) (m : Nat) : Bool :=
  match a, b with
  | .dev s o x, .dev s' o' y =>
    s == s' && o == o' && decide (x / 8 ≤ (y + m - 1) / 8) && decide (y / 8 ≤ (x + n - 1) / 8)
  | .scr c x, .scr c' y => c == c' && decide (x / 64 ≤ (y + m - 1) / 64) && decide (y / 64 ≤ (x + n - 1) / 64)
  | _, _ => false

/-- The aligned 8 bytes that hold a target's byte. -/
def Target.unit (t : Target) : Target :=
  match t with
  | .dev sid obj off => .dev sid obj (off / 8 * 8)
  | .scr core off => .scr core (off / 8 * 8)

/-- A device range as the direct object's bytes that it shows: of an alias the aliased object's, granule by granule (R91). -/
def State.direct (s : State) (t : Target) (n : Nat) : List (Target × Nat) :=
  match t with
  | .scr .. => [(t, n)]
  | .dev sid obj off =>
    match s.objEntry sid obj with
    | some e => if e.cls = 2 then
        (granuleParts off n).filterMap fun p => (s.place sid obj p.1).map fun q => (Target.dev sid q.obj q.off, p.2)
      else [(t, n)]
    | none => [(t, n)]

/-- Do two byte ranges share an ordering unit, through whatever windows (R91, R193)? -/
def State.meets (s : State) (a : Target) (n : Nat) (b : Target) (m : Nat) : Bool :=
  a.meets n b m ||
  match a, b with
  | .dev sid obj _, .dev sid' obj' _ =>
    sid == sid' && obj != obj' && (s.direct a n).any fun u => (s.direct b m).any fun v => u.1.meets u.2 v.1 v.2
  | _, _ => false

def HeldStore.meets (h : HeldStore) (t : Target) (n : Nat) : Bool := h.parts.any fun p => p.1.meets p.2.length t n
def State.storeMeets (s : State) (h : HeldStore) (t : Target) (n : Nat) : Bool := h.parts.any fun p => s.meets p.1 p.2.length t n

/-- The port at which an agent's requests enter: its core, or its slice beyond the cores. -/
def agentPort : Agent → Nat | .ctx c => c.core | .handler n => 1152 + n

/-! ## Reading at a home -/

/-- n bytes of a target as they stand at their homes (R190). -/
def State.bytesAt (s : State) (t : Target) (n : Nat) : List Byte :=
  match t with
  | .dev sid obj off => s.devRead sid obj off n
  | .scr core off => s.scrRead core off n

/-- Bytes overlaid by one part of a held store. -/
def overlay (t : Target) (bs : List Byte) (p : Target × List Byte) : List Byte :=
  let go (x y : Nat) : List Byte := (List.range bs.length).map fun i =>
    if y ≤ x + i then (match p.2[x + i - y]? with | some b => b | none => bs.getD i 0) else bs.getD i 0
  match t, p.1 with
  | .dev s o x, .dev s' o' y => if s = s' ∧ o = o' then go x y else bs
  | .scr c x, .scr c' y => if c = c' then go x y else bs
  | _, _ => bs

/-- Does any .ACQ producer of the context wait for its data (R193)? -/
def Ctx.acqPending (x : Ctx) : Bool := x.out.any (·.acq)

/-- An acquire point (R195): nothing that was read before it is used after it. -/
def Ctx.acquire (x : Ctx) : Ctx := { x with early := [] }

/-- An access of the context to ranges: what it read of them early is no longer used (R192). -/
def Ctx.dropEarly (x : Ctx) (s : State) (ts : List (Target × Nat)) : Ctx :=
  { x with early := x.early.filter fun e => ! ts.any fun t => s.meets t.1 t.2 e.1 8 }

/-- The aligned 8 bytes of a scratch range. -/
def unitsOf (t : Target) (n : Nat) : List Target :=
  match t with
  | .scr c o => (List.range ((o + n + 7) / 8 - o / 8)).map fun i => Target.scr c (8 * (o / 8 + i))
  | .dev .. => []

/-- Of early reads, newest first, those of a row that may still be used once the one of `u` has been: `u` and what was read after it. -/
def newerThan (u : Target) : List (Target × List Byte) → List (Target × List Byte)
  | [] => []
  | e :: es => if e.1 = u then e :: es.filter fun d => ! d.1.meets 8 u 8 else e :: newerThan u es

/-- A load of scratch ranges has been performed: a later load of the same rows is performed after it (R193), so that it uses no early read made
before the newest that this one used, and none where this one read the row late. -/
def Ctx.rowsRead (x : Ctx) (ts : List (Target × Nat)) : Ctx :=
  if x.early.isEmpty then x else
  { x with early := (ts.flatMap fun t => unitsOf t.1 t.2).foldl (fun es u =>
      if es.any (·.1 == u) then newerThan u es
      else if x.early.any (·.1 == u) then es
      else es.filter fun d => ! d.1.meets 8 u 8) x.early }

/-- What a context reads: its own last unperformed store to each byte, else what it read before the load was issued, else the home's value
(R192, R193). -/
def State.readOwn (s : State) (x : Ctx) (t : Target) (n : Nat) : List Byte :=
  x.held.foldl (fun bs h => h.parts.foldl (overlay t) bs)
    ((if x.acqPending then [] else x.early).foldl (overlay t) (s.bytesAt t n))

/-- The touch of R142 and R234 for a target; scratch never waits. -/
def State.touch (s : State) (port : Nat) (t : Target) (n : Nat) (isRead : Bool) : Option State :=
  match t with
  | .dev sid obj off => s.devTouch port sid obj off n isRead
  | .scr _ _ => some s

/-- The cold slabs of a target expanded; scratch never waits (R234). -/
def State.warm (s : State) (t : Target) (n : Nat) : Option State :=
  match t with
  | .dev sid obj off => s.expand sid obj (granuleStarts off n)
  | .scr _ _ => some s

/-- Is a read of the target uncorrectable (R247)? -/
def State.badAt (s : State) (t : Target) (n : Nat) : Bool :=
  match t with
  | .dev sid obj off => s.readBad sid obj off n
  | .scr core off => s.scrBad core off n

/-- The first byte of a range that reads uncorrectably: its unit is the one counted and logged (R252, R419). -/
def State.badByte (s : State) (t : Target) (n : Nat) : Target :=
  match (List.range n).find? fun i => s.badAt (t.plus i) 1 with
  | some i => t.plus i
  | none => t

/-- An uncorrectable read of n bytes at a target: counted and logged; the cause 0x41 it raises (R244, R247). What left a tile stale was counted
by the recompute that met it (R142). -/
def State.unc (s : State) (t : Target) (n : Nat) : State × PendCause :=
  let b := s.badByte t n
  let (ch, ln) := s.chanOf b
  let stale := match b with | .dev sid obj off => ! s.devBad sid obj off 1 | .scr .. => false
  (if stale then s else s.countUnc 0x41 ch ln, ⟨0x41, t.eaddr, BitVec.ofNat 32 ch⟩)

/-! ## Launch-page registers (R228) -/

/-- The launch page (8 x stack + page) that an object of a space names. -/
def State.pageAt (s : State) (sid obj : Nat) : Option Nat :=
  (s.pages.find? fun p => p.2.sid == sid && p.2.obj == obj).map (·.1)

/-- The register at an offset: NOTIFY reads zero. -/
def LaunchPage.read (p : LaunchPage) (off : Nat) : Word :=
  match off with
  | 8 => p.argp
  | 16 => p.sel
  | 24 => p.lstat
  | _ => 0

namespace LaunchPage
variable (p : LaunchPage)
def busy : Bool := p.lstat.getLsbD 32
def done : BitVec 32 := p.lstat.extractLsb' 0 32
end LaunchPage

/-- LSTAT from its fields (R228). -/
def lstatOf (cause : Option Cause) (busy : Bool) (done : BitVec 32) : Word :=
  BitVec.ofNat 64 (done.toNat + busy.toNat * 2 ^ 32 + cause.isSome.toNat * 2 ^ 33 + (cause.getD 0).toNat * 2 ^ 40)

/-- A store to a page's register: NOTIFY with BUSY = 0 and SEL not 0 sets BUSY and starts the launch, whose runs LAUNCH_NOTIFY starts
(R229); LSTAT ignores it. -/
def State.pageWrite (s : State) (n off : Nat) (v : Word) (rel : Bool) : State :=
  match s.pages.get n with
  | none => s
  | some p =>
    match off with
    | 0 =>
      if p.busy || p.sel == 0 then s else
      { s with pages := s.pages.set n { p with lstat := lstatOf none true p.done, fault := none },
               notes := s.notes ++ [(n, v, rel, p.argp, p.sel)] }
    | 8 => { s with pages := s.pages.set n { p with argp := v } }
    | 16 => { s with pages := s.pages.set n { p with sel := v &&& 0xFFFFF } }
    | _ => s

/-- The page that a target lies on. -/
def State.targetPage (s : State) (t : Target) : Option Nat :=
  match t with
  | .dev sid obj _ => s.pageAt sid obj
  | .scr .. => none

/-! ## Writing at a home -/

/-- A write of n bytes at a target begins (R203, R344). -/
def State.toWrite (s : State) (t : Target) (n : Nat) : State :=
  match t with
  | .dev sid obj off => s.beforeWrite sid obj off n
  | .scr .. => s

/-- Plain bytes written at a target. -/
def State.put (s : State) (t : Target) (bs : List Byte) : State :=
  match t with
  | .dev sid obj off => s.devWrite sid obj off bs
  | .scr core off => s.scrWrite core off bs

/-- The uncorrectable marks of a range cleared: a write of a whole unit makes it read correctly again (R399). -/
def State.mend (s : State) (t : Target) (n : Nat) : State :=
  match t with
  | .dev sid obj off =>
    let ks := (List.range n).filterMap fun i => (s.place sid obj (off + i)).map (·.key)
    { s with bad := s.bad.filter (fun k => ! ks.contains k), badLine := s.badLine.filter fun e => ! ks.contains (8 * e.1) }
  | .scr core off => { s with badScr := s.badScr.filter fun k => ! (decide (scrKey core off ≤ k) && decide (k < scrKey core off + n)) }

def Target.off : Target → Nat | .dev _ _ o => o | .scr _ o => o

/-- One part of a store, unit by unit: a unit written in part and found uncorrectable is not written and raises 0x41 (R399). -/
def State.putUnits : Nat → State → Target → List Byte → State × List PendCause
  | 0, s, _, _ => (s, [])
  | fuel + 1, s, t, bs =>
    if bs.isEmpty then (s, []) else
    let n := min bs.length (8 - t.off % 8)
    let u := t.unit
    let raw := match u with | .dev a b o => s.devBad a b o 8 | .scr c o => s.scrBad c o 8
    let (s, ps) :=
      if n < 8 && raw then (let r := s.unc u 8; (r.1, [r.2]))
      else (((if raw then s.mend u 8 else s).put t (bs.take n)), [])
    let r := State.putUnits fuel s (t.plus n) (bs.drop n)
    (r.1, ps ++ r.2)

/-- Each of a list of ranges' cold slabs expanded (R234); the registers of launch pages lie in none. -/
def State.warmAll (s : State) : List (Target × Nat) → Option State
  | [] => some s
  | (t, n) :: rest => match (if (s.targetPage t).isSome then some s else s.warm t n) with
    | some s => State.warmAll s rest
    | none => none

def HeldStore.ranges (h : HeldStore) : List (Target × Nat) := h.parts.map fun p => (p.1, p.2.length)

/-- A store begins at its home: one request of its slab (R128), and from now on other windows may hold what stood before all of it (R203). None
while a slab waits. -/
def State.beginStore (s : State) (a : Agent) (h : HeldStore) : Option State :=
  if h.begun then some s else
  (s.warmAll h.ranges).map fun s =>
    let s := match h.parts with
      | (.dev sid obj off, _) :: _ => if (s.pageAt sid obj).isSome then s else (s.heat sid obj off (agentPort a)).cacheObj sid obj
      | _ => s
    h.ranges.foldl (fun s r => match r.1 with
      | .dev sid obj off => if (s.pageAt sid obj).isSome then s else s.noteOld sid obj off r.2
      | .scr .. => s) s

/-! ## Leases (R52) -/

def State.frameOf (s : State) (c : CtxId) : Option Frame := s.frames.get (c.core, c.frm)

/-- The job of an agent, for leases (R52, R227): none for a launch page's run. -/
def State.jobOf (s : State) (a : Agent) : Option Nat :=
  match a with
  | .ctx c => (s.frameOf c).map fun f => f.task.job
  | .handler n => match s.runs.get n with
    | some r => match s.chains.get r.trig.chain with | some ch => ch.job | none => none
    | none => none

/-- The job of the issuing agent. -/
def State.curJob (s : State) : Option Nat := s.jobOf s.cur

/-- Is a device access within a job's lease (R52)? A mirror job has no lease of its own (R266). -/
def State.leased (s : State) (job : Option Nat) (sid obj off n : Nat) (w a : Bool) : Bool :=
  match job with
  | none => true
  | some j => match s.jobs.get j with
    | none => false
    | some jb => jb.mirror.isSome || jb.lease.any fun e =>
        e.sid == sid && e.obj == obj && decide (e.off ≤ off) && decide (off + n ≤ e.off + e.len) && (! w || e.w) && (! a || e.a)

/-- Does the lease cover an access of an agent where it arrives (R52, R371)? Scratch lies in none. -/
def State.granted (s : State) (who : Agent) (t : Target) (n : Nat) (w a : Bool) : Bool :=
  match t with
  | .scr .. => true
  | .dev sid obj off => s.leased (s.jobOf who) sid obj off n w a

/-- The lease fault of an access that is not performed where it arrives: EINFO carries the PC of the instruction to the kill's record (R42, R52). -/
def leaseLost (t : Target) (pc : Pc) : PendCause := ⟨0x13, t.eaddr, pc.zeroExtend 32⟩

/-! ## What a request carries (R92, R412) -/

/-- What a request of ranges is translated with as it is issued (R92). -/
def State.translate (s : State) (ts : List (Target × Nat)) : Trans :=
  let objs := (ts.filterMap fun t => match t.1 with | .dev sid obj _ => some (sid, obj) | .scr .. => none).eraseDups
  let slabs := (ts.flatMap fun t => match t.1 with
    | .dev sid obj off => (granuleStarts off t.2).filterMap fun o => (s.place sid obj o).map fun p => (sid, p.obj, p.slab, p.ext)
    | .scr .. => []).eraseDups
  { lines := objs.flatMap fun o => s.linesOf o.1 o.2, slabs := slabs }

/-- A core's object cache takes the entries that requests of ranges are translated with (R92). -/
def State.cacheFor (s : State) (ts : List (Target × Nat)) : State :=
  ts.foldl (fun s t => match t.1 with | .dev sid obj _ => s.cacheObj sid obj | .scr .. => s) s

/-- The machine as it performs a request that carries a translation: the request stands by it (R412), unless the EPOCH of a slab has advanced, or its
STATE has changed, when it goes back to its port and is translated anew (R92). -/
def State.carried (s : State) (a : Agent) (tr : Trans) : State :=
  if tr.lines.isEmpty then s else
  let t := { s with trans := { tr with slabs := [] } }
  let mark (x : BitVec 64) : BitVec 8 × BitVec 2 := (x.extractLsb' 26 8, x.extractLsb' 23 2)
  if tr.slabs.all fun e => (t.slabEntry e.1 e.2.1 e.2.2.1).map mark == some (mark e.2.2.2) then { s with trans := tr }
  else { s with via := match a with | .ctx c => some c.core | .handler _ => s.via }

/-- The request performed, what it carried is gone. -/
def State.landed (s t : State) : State := { t with via := s.via, trans := s.trans }

/-- One part of a store performed at its home (R191, R193, R399, R400), or outside the lease and not performed (R52, R371). None while a slab it
touches waits. -/
def State.performPart (s : State) (a : Agent) (h : HeldStore) (p : Target × List Byte) : Option (State × List PendCause) :=
  let s0 := s
  let s := s.carried a h.trans
  (if ! s.granted a p.1 p.2.length true false then some (s, [leaseLost p.1 h.pc]) else
   match s.targetPage p.1 with
   | some n => some (s.pageWrite n p.1.off (leWord p.2) false, [])
   | none =>
     match s.warm p.1 p.2.length with
     | none => none
     | some s =>
       let s := match p.1 with | .dev sid obj off => s.overDerived sid obj off p.2.length | .scr .. => s
       match p.1, h.cap with
       | .dev sid obj off, true => some ((s.mend p.1 16).capWrite sid obj off (capOf p.2 true), [])
       | t, _ => some (State.putUnits (p.2.length + 1) s t p.2)).map fun r => (s0.landed r.1, r.2)

/-- All parts of a held store performed, in order. None while a slab it touches migrates or cannot be expanded. -/
def State.performStore (s : State) (a : Agent) (h : HeldStore) : Option (State × List PendCause) :=
  match (s.carried a h.trans).beginStore a h with
  | none => none
  | some s' =>
    h.parts.foldl (fun o p =>
      match o with
      | none => none
      | some (s, ps) => (s.performPart a h p).map fun r => (r.1, ps ++ r.2)) (some (s.landed s', []))

/-- The device ranges of a list of targets. -/
def devRanges (ts : List (Target × Nat)) : List WriteRange :=
  ts.filterMap fun p => match p.1 with | .dev sid obj off => some (sid, obj, off, p.2) | .scr _ _ => none

/-! ## Outstanding loads -/

/-- The lanes of a 128-byte load: element i of a masked vector keeps its old value where the mask is clear. -/
def mergeLanes (w : Nat) (mask : BitVec 32) (old new : Vec) : Vec :=
  BitVec.ofNat 1024 (joinLanes w ((List.range (1024 / w)).map fun i =>
    if mask.getLsbD (i * w / 32) then laneOf w new.toNat i else laneOf w old.toNat i))

/-- Has a producer been performed? -/
def Pending.isReady : Pending → Bool | .ready _ => true | .readyV .. => true | .readyC _ => true | .failed _ => true | _ => false

/-- The whole accesses that an outstanding load makes, each within one lease entry (R52); a KLOOK's are its rows. -/
def Pending.accesses : Pending → List (Target × Nat)
  | .load t n => [(t, n)]
  | .vload t m => if m = 0 then [] else [(t, 128)]
  | .cap t => [(t, 16)]
  | _ => []

/-- What a KLOOK finds from probe p on (R126): the table's first byte is `t`; each bucket is read in turn. -/
def State.klook (s : State) (x : Ctx) (t : Target) (key : BitVec 32) (nb : Nat) : Nat → Nat → Option Nat
  | 0, _ => none
  | left + 1, p =>
    let b := bucket key nb p
    let row := leNat (s.readOwn x (t.plus (64 * b)) 64)
    match laneWith row key.toNat with
    | some j => some (valueRow nb b j)
    | none => match laneWith row 0xFFFFFFFF with
      | some _ => none
      | none => State.klook s x t key nb left (p + 1)

/-- The bucket rows a KLOOK reads (R249): it stops at the first that holds the key or an empty lane. -/
def State.klookRows (s : State) (x : Ctx) (t : Target) (key : BitVec 32) (nb : Nat) : Nat → Nat → List Target
  | 0, _ => []
  | left + 1, p =>
    let r := t.plus (64 * bucket key nb p)
    let row := leNat (s.readOwn x r 64)
    if (laneWith row key.toNat).isSome || (laneWith row 0xFFFFFFFF).isSome then [r] else r :: State.klookRows s x t key nb left (p + 1)

/-- DSTAT's word (R139). -/
def State.dstatWord (s : State) (sid obj tile : Nat) : Word :=
  match s.derivOf sid obj with
  | some (id, d) =>
    let x := s.tile id tile
    BitVec.ofNat 64 (d.rule * 2 ^ 22 + d.level * 2 ^ 19 + x.busy.isSome.toNat * 2 ^ 18 + x.err.toNat * 2 ^ 17 +
      x.stale.toNat * 2 ^ 16 + x.gen.toNat)
  | none => 0

/-- Touch each of a list of ranges that is read. -/
def State.touchAll (s : State) (port : Nat) : List (Target × Nat) → Option State
  | [] => some s
  | (t, n) :: rest => match s.touch port t n true with | none => none | some s => State.touchAll s port rest

/-- The first of a list of ranges whose read is uncorrectable. -/
def State.firstBad (s : State) (ts : List (Target × Nat)) : Option (Target × Nat) := ts.find? fun p => s.badAt p.1 p.2

/-- The 4-byte lanes of a 128-byte access that a mask takes. -/
def laneRanges (t : Target) (m : BitVec 32) : List (Target × Nat) :=
  ((List.range 32).filter fun i => m.getLsbD i).map fun i => (t.plus (4 * i), 4)

/-- An outstanding load performed at its home (R192): its data is ready, or its read failed (R247). None while it must wait. An
atomic and a line load are not performed here. -/
def State.performLoad (s : State) (port : Nat) (x : Ctx) (o : Outst) : Option (State × Pending) :=
  let fin2 (touched ts : List (Target × Nat)) (v : State → Pending) : Option (State × Pending) :=
    match s.touchAll port touched with
    | none => none
    | some s =>
      match s.firstBad ts with
      | some (t, n) => let (s, p) := s.unc t n; some (s, .failed p)
      | none => some (s, v s)
  let fin (ts : List (Target × Nat)) (v : State → Pending) : Option (State × Pending) := fin2 ts ts v
  match o.what with
  | .load t n =>
    match s.targetPage t with
    | some p => some (s, .ready (match s.pages.get p with | some p => p.read t.off | none => 0))
    | none => fin [(t, n)] fun s => .ready (leWord (s.readOwn x t n))
  | .vload t m =>
    fin2 (if m = 0 then [] else [(t, 128)]) (laneRanges t m) fun s => .readyV (leVec (s.readOwn x t 128)) m
  | .gather ts =>
    let rs := ts.filterMap fun t => t.map fun t => (t, 4)
    fin rs fun s => .readyV (leVec ((ts.map fun t => match t with | some t => s.readOwn x t 4 | none => [0, 0, 0, 0]).flatten))
      (BitVec.ofNat 32 (joinLanes 1 (ts.map fun t => t.isSome.toNat)))
  | .cap t => fin [(t, 16)] fun s =>
      match t with
      | .dev sid obj off =>
        match x.held.reverse.find? fun h => h.meets t 16 with
        | some h => .readyC (capOf (s.readOwn x t 16) h.cap)
        | none => .readyC (s.capRead sid obj off)
      | .scr _ _ => .readyC 0
  | .klook t key nb probe _ => fin ((s.klookRows x t key nb probe 0).map fun r => (r, 64)) fun s =>
      match (if key = 0xFFFFFFFF then none else s.klook x t key nb probe 0) with
      | some v => .ready (t.plus v).eaddr
      | none => .ready 0xFFFFFFFF
  | .dstat sid obj tile => some (s, .ready (s.dstatWord sid obj tile))
  | p => some (s, p)

/-- The bytes an outstanding load still has to read, with their lengths. -/
def Pending.ranges : Pending → List (Target × Nat)
  | .load t n => [(t, n)]
  | .vload t m => laneRanges t m
  | .gather ts => ts.filterMap fun t => t.map fun t => (t, 4)
  | .cap t => [(t, 16)]
  | .klook t key nb probe _ => (List.range probe).map fun p => (t.plus (64 * bucket key nb p), 64)
  | _ => []

/-! ## Atomics (R201, R217, R312) -/

/-- The result of an atomic operation on w-bit values: codes 0 to 9 of R312; 16 is ACAS with comparand `y` (R309). -/
def atomResult (op w old v y : Nat) : Nat :=
  match op with
  | 0 => (old + v) % 2 ^ w
  | 1 => Nat.land old v
  | 2 => Nat.lor old v
  | 3 => Nat.xor old v
  | 4 => if sextNat w v < sextNat w old then v else old
  | 5 => if sextNat w old < sextNat w v then v else old
  | 6 => min old v
  | 7 => max old v
  | 8 => v
  | 9 => (FFmt.f32.round .rne false (sumNum .rne [c32 old, c32 v])).1
  | _ => if old = y then v else old

/-- Operations applied one after another: the old value each saw, and the last value. -/
def atomRun (op w y : Nat) : Nat → List Nat → List Nat × Nat
  | old, [] => ([], old)
  | old, v :: vs =>
    let r := atomRun op w y (atomResult op w old v y) vs
    (old :: r.1, r.2)

/-- Bytes of an atomic put at their home, the dependent tiles marked first (R141). -/
def State.putMarked (s : State) (t : Target) (bs : List Byte) : State :=
  ((s.markStep (devRanges [(t, bs.length)])).toWrite t bs.length).put t bs

/-- Requests performed at their home as consecutive writes of one application (R201): marked first (R141), then applied once. The old values, none where the word is uncorrectable (R308). None: it must wait. -/
def State.applyGroup (s : State) (r : AtomReq) (vs : List Word) : Option (State × Option (List Word) × PendCause) :=
  let none' : PendCause := ⟨0x41, 0, 0⟩
  match s.touch (agentPort r.who) r.t r.bytes true with
  | none => none
  | some s =>
    if s.badAt r.t r.bytes then
      let (s, p) := s.unc r.t r.bytes
      some (s, none, p)
    else
      let w := 8 * r.bytes
      let old := leNat (s.bytesAt r.t r.bytes)
      let y := r.y.toNat % 2 ^ w
      let (olds, new) := atomRun r.op w y old (vs.map fun v => v.toNat % 2 ^ w)
      let ws := olds.map fun n => BitVec.ofNat 64 n
      if r.op = 16 ∧ old ≠ y then some (s, some ws, none')
      else if s.markHeld (devRanges [(r.t, r.bytes)]) then none
      else some (s.putMarked r.t (bytesOf r.bytes new), some ws, none')

/-- What an access of a device-form KACC leaves: it goes on, or has ended, with the cause it raises. -/
inductive KaccNext where
  | more (k : KaccReq)
  | ended (c : Option PendCause)

/-- One access of a device-form KACC at a row's home (R125, R127, R365): an atomic of its own, marked first (R141). With it the row it reached
and the range it wrote. None: it must wait. -/
def State.applyKacc (s : State) (r : AtomReq) (k : KaccReq) : Option (State × KaccNext × Target × List (Target × Nat)) :=
  let row := match k.slot with
    | none => r.t.plus (64 * bucket k.key k.nb k.at_)
    | some (b, j) => r.t.plus (valueRow k.nb b j)
  if ! s.granted r.who row 64 false true then some (s, .ended (some (leaseLost row r.pc)), row, []) else
  match s.touch (agentPort r.who) row 64 true with
  | none => none
  | some s =>
    if s.badAt row 64 then let (s, c) := s.unc row 64; some (s, .ended (some c), row, []) else
    let x := leNat (s.bytesAt row 64)
    match k.slot with
    | some _ =>
      if s.markHeld (devRanges [(row, 64)]) then none
      else some (s.putMarked row (bytesOf 64 (bankRow 0 k.fmt x k.v.toNat 0)), .ended none, row, [(row, 64)])
    | none =>
      let b := bucket k.key k.nb k.at_
      match laneWith x k.key.toNat with
      | some j => some (s, .more { k with slot := some (b, j) }, row, [])
      | none =>
        match laneWith x 0xFFFFFFFF with
        | some j =>
          let lane := row.plus (4 * j)
          if s.markHeld (devRanges [(lane, 4)]) then none
          else some (s.putMarked lane (bytesOf 4 k.key.toNat), .more { k with slot := some (b, j) }, row, [(lane, 4)])
        | none =>
          some (s, if k.at_ + 1 < k.probe then .more { k with at_ := k.at_ + 1 } else .ended (some ⟨0x31, row.eaddr, 0xF⟩), row, [])

/-! ## Order and publication (R109, R193, R194) -/

/-- Causes on their way to contexts. -/
abbrev Sent := List (CtxId × PendCause)

def State.setCtx (s : State) (a : Agent) (x : Ctx) : State := { s with ctxs := s.ctxs.set a x }


def State.coreOf (s : State) (c : Nat) : Core := (s.cores.get c).getD (Core.init s.boot.epoch)
def State.setCore (s : State) (c : Nat) (x : Core) : State := { s with cores := s.cores.set c x }

/-! ## Watchpoints (R248 to R250) -/

/-- The access kinds of KINDS (R248). -/
inductive WatchKind where
  | ld | st | eng | atm
  deriving DecidableEq, Repr

def WatchKind.bit : WatchKind → Nat | .ld => 0 | .st => 1 | .eng => 2 | .atm => 3

/-- The watchpoints of a core. -/
def Core.watches (k : Core) : Watches := k.wbase.toList.zip k.wctl.toList

/-- Does watchpoint n match an access of these bytes made in a space (R248)? -/
def watchHit (ws : Watches) (n : Nat) (wk : WatchKind) (t : Target) (len : Nat) : Bool :=
  let (b, w) := ws.getD n (0, 0)
  let l := (w.extractLsb' 4 2).toNat
  let under (base off : Nat) : Bool := (List.range len).any fun i =>
    decide (base ≤ off + i) && decide (off + i < base + 16 * 2 ^ l) && w.getLsbD (16 + (off + i - base) / 2 ^ l)
  w.getLsbD 63 && w.getLsbD wk.bit &&
  match t with
  | .dev sid obj off =>
    w.getLsbD 62 && (b.extractLsb' 40 12).toNat == sid && (w.extractLsb' 38 24).toNat == obj && under (b.extractLsb' 0 40).toNat off
  | .scr core off =>
    ! w.getLsbD 62 && (match localTarget 0 (b.extractLsb' 0 32) with
      | some (c, u, o) => c == core && ! u && under o off
      | none => false)

/-- The lowest matching watchpoint, over several ranges (R248). -/
def firstWatch (ws : Watches) (wk : WatchKind) (ts : List (Target × Nat)) : Option Nat :=
  (List.range 4).find? fun n => ts.any fun t => watchHit ws n wk t.1 t.2

/-- The EADDR of a report by a watchpoint of an access to several ranges: the object offset of the lowest byte under a set BMASK bit (R294),
or the absolute local address of the first range that matches (R244). -/
def watchAddr (ws : Watches) (n : Nat) (wk : WatchKind) (ts : List (Target × Nat)) : Word :=
  let bytes (t : Target) (len : Nat) : List Nat := ((List.range len).filter fun i => watchHit ws n wk (t.plus i) 1).map fun i => t.off + i
  match ts.find? fun t => watchHit ws n wk t.1 t.2 with
  | some (.scr c o, _) => (Target.scr c o).eaddr
  | some (.dev .., _) => BitVec.ofNat 64 (((ts.flatMap fun t => bytes t.1 t.2).min?).getD 0)
  | none => 0

/-- The lowest matching watchpoint of a core as it stands, and the EADDR of its report. -/
def State.watch (s : State) (core : Nat) (wk : WatchKind) (ts : List (Target × Nat)) : Option (Nat × Word) :=
  let ws := (s.coreOf core).watches
  (firstWatch ws wk ts).map fun n => (n, watchAddr ws n wk ts)

/-- A 0x39 starts on its way to a context, with the index of the matching instruction (R250). -/
def Ctx.report (x : Ctx) (eaddr : Word) (einfo seq : Nat) : Ctx := { x with coming := x.coming ++ [(⟨0x39, eaddr, BitVec.ofNat 32 einfo⟩, seq)] }

/-- The 0x39 for a KLOOK or scratch KACC row under a watchpoint that stood at its issue starts on its way; EADDR names the row in scratch, in
device memory the lowest byte under a set BMASK bit (R249, R250: KEYED, R294, R391). -/
def State.watchKeyed (s : State) (a : Agent) (ws : Watches) (wk : WatchKind) (seq : Nat) (row : Target) : State :=
  match a with
  | .handler _ => s
  | .ctx _ =>
    match firstWatch ws wk [(row, 64)], s.ctxs.get a with
    | some n, some x => s.setCtx a (x.report (watchAddr ws n wk [(row, 64)]) (n * 2 ^ 8 + 2 ^ 29) seq)
    | _, _ => s

/-- An agent's outstanding load performed, with the reports of the KLOOK rows it probes (R249); one that arrives outside the lease is not (R52,
R371). -/
def State.performFor (s : State) (a : Agent) (x : Ctx) (e : Outst) : Option (State × Pending) :=
  let s0 := s
  let s := s.carried a e.trans
  let rows := match e.what with | .klook t key nb probe _ => s.klookRows x t key nb probe 0 | _ => []
  match (e.what.accesses ++ rows.map fun r => (r, 64)).find? fun r => ! s.granted a r.1 r.2 false false with
  | some r => some (s0, .failed (leaseLost r.1 e.pc))
  | none =>
    (s.performLoad (agentPort a) x e).map fun r =>
      let s := match e.what with
        | .klook _ _ _ _ ws => rows.foldl (fun (s : State) row => s.watchKeyed a ws .ld e.seq row) r.1
        | _ => r.1
      let s := match s.ctxs.get a with | some z => s.setCtx a (z.rowsRead e.what.ranges) | none => s
      (s0.landed s, r.2)

/-- Must an earlier producer be performed before a later one: it acquires, or it reads some of the same bytes (R192, R193)? -/
def State.precedes (s : State) (a e : Outst) : Bool :=
  ! a.what.isReady && (a.acq || a.what.ranges.any fun r => e.what.ranges.any fun q => s.meets r.1 r.2 q.1 q.2)

/-- The producers that a test selects, with those that must be performed before one of them. -/
def State.withEarlier (s : State) (sel : Outst → Bool) : List Outst → List (Outst × Bool)
  | [] => []
  | e :: es =>
    let r := State.withEarlier s sel es
    (e, sel e || r.any fun q => q.2 && s.precedes e q.1) :: r

/-- Outstanding loads that a test selects are performed, in issue order (R192, R193, R195). None while one must wait. -/
def State.settle (s : State) (a : Agent) (sel : Outst → Bool) : Option State :=
  match s.ctxs.get a with
  | none => some s
  | some x =>
    let r := (s.withEarlier sel x.out).foldl (fun (o : Option (State × List Outst)) q =>
      let e := q.1
      match o with
      | none => none
      | some (s, es) =>
        if q.2 then
          match s.performFor a ((s.ctxs.get a).getD x) e with
          | none => none
          | some (s, p) => some (s, es ++ [{ e with what := p }])
        else some (s, es ++ [e])) (some (s, []))
    match r with
    | none => none
    | some (s, es) => match s.ctxs.get a with
      | some x => some (s.setCtx a { x with out := es })
      | none => some s

/-- Held stores that a test selects are performed, in issue order; their device bytes still await marking (R141). -/
def State.drainHeld (s : State) (a : Agent) (sel : HeldStore → Bool) : Option (State × List PendCause) :=
  match s.ctxs.get a with
  | none => some (s, [])
  | some x =>
    let r := x.held.foldl (fun (o : Option (State × List PendCause × List HeldStore × List (Target × Nat))) h =>
      match o with
      | none => none
      | some (s, ps, keep, done) =>
        if sel h then
          match s.performStore a h with
          | none => none
          | some (s, qs) => some (s, ps ++ qs, keep, done ++ if qs.any (·.cause == 0x13) then [] else h.ranges)
        else some (s, ps, keep ++ [h], done)) (some (s, [], [], []))
    match r with
    | none => none
    | some (s, ps, keep, done) => match s.ctxs.get a with
      | some x =>
        let dev := done.filter fun p => match p.1 with | .dev .. => true | .scr .. => false
        some (s.setCtx a { x with held := keep, unmarked := x.unmarked ++ dev, win := x.win ++ dev }, ps)
      | none => some (s, ps)

/-- The target of a scratch row's key, and of an absolute local address. -/
def rowTarget (r : Nat) : Target := .scr (r / 2 ^ 19) (r % 2 ^ 19)
def keyTarget (a : Word) : Target :=
  match localTarget 0 (a.extractLsb' 0 32) with | some (c, _, o) => .scr c o | none => .scr 0 0

/-- The first command of a core makes its next access (R111), with the causes it raises; an uncorrectable row is counted (R107). What remains
of the command stays first. -/
def State.performNext (s : State) (core : Nat) : State × Sent :=
  let k := s.coreOf core
  match k.cmds with
  | [] => (s, [])
  | q :: rest =>
    let s := match q.cmd.keyedRow with
      | some r => s.watchKeyed (.ctx q.who) q.ws .st q.seq (rowTarget r)
      | none => s
    let (s, ps, more) := s.performCmd q
    let s := ps.foldl (fun s p => if p.einfo = 0xF then s else (s.unc (keyTarget p.eaddr) 64).1) s
    let cmds := match more with | some c => { q with cmd := c } :: rest | none => rest
    (s.setCore core { s.coreOf core with cmds := cmds }, ps.map fun p => (q.who, p))

/-- The accesses that a command still makes, at most. -/
def BankCmd.accesses : BankCmd → Nat
  | .scale _ _ n _ => n
  | .scaling _ _ n d _ => n - d
  | .reduce _ _ _ n _ => n + 1
  | .reducing _ _ _ n _ d _ _ => n + 1 - d
  | .kacc _ _ _ probe _ _ => probe + 1
  | .probing _ _ _ probe p _ _ => probe + 1 - p
  | _ => 1

/-- The first command of a core performed to its end. -/
def State.performAccesses (s : State) (core left : Nat) : Nat → State × Sent
  | 0 => (s, [])
  | n + 1 =>
    if (s.coreOf core).cmds.length ≤ left then (s, []) else
    let (s, ps) := s.performNext core
    let r := State.performAccesses s core left n
    (r.1, ps ++ r.2)

/-- The first n bank commands of a core performed in order (R111), with the causes they raise. -/
def State.performCmds (s : State) (core : Nat) : Nat → State × Sent
  | 0 => (s, [])
  | n + 1 =>
    match (s.coreOf core).cmds with
    | [] => (s, [])
    | q :: rest =>
      let (s, ps) := s.performAccesses core rest.length q.cmd.accesses
      let r := State.performCmds s core n
      (r.1, ps ++ r.2)

/-- The number of leading commands of a list that end with the last one a test selects. -/
def lastSel (l : List QueuedCmd) (sel : QueuedCmd → Bool) : Nat :=
  (l.foldl (fun (acc : Nat × Nat) q => (acc.1 + 1, if sel q then acc.1 + 1 else acc.2)) (0, 0)).2

/-- The report of an atomic under watchpoint n starts on its way (R249, R250): SRC, home slice, MERGE. SKID is added where it arrives. -/
def State.atomReport (s : State) (x : Ctx) (r : AtomReq) (t : Target) (n : Nat) (eaddr : Word) (weight : Nat) : Ctx :=
  let home := match t with | .dev sid obj off => s.sliceOf sid obj off | .scr .. => 0xFF
  x.report eaddr (n * 2 ^ 8 + 2 ^ 10 + home * 2 ^ 16 + min weight 31 * 2 ^ 24) r.seq

/-- The home of an atomic (R190): its slice, or numbered beyond the slices its scratch bank. -/
def State.homeOf (s : State) (t : Target) : Nat :=
  match t with
  | .dev sid obj off => s.sliceOf sid obj off
  | .scr core off => 160 + 16 * core + off / 64 % 16

/-- The home's replay filter keeps the reply (R202): the last 64 of each source. -/
def State.keepReply (s : State) (r : AtomReq) (reply : Word) : State :=
  let home := s.homeOf r.t
  let mine (e : ReplayEnt) : Bool := e.home == home && e.source == r.source
  { s with replay := ⟨home, r.source, r.rid, reply⟩ :: ((s.replay.filter mine).take 63 ++ s.replay.filter fun e => ! mine e) }

/-- A request that has been applied answers: it leaves, or its reply stands for the context that awaits it. -/
def State.endAtom (s : State) (n : Nat) (r : AtomReq) (reply : Option Word) : State :=
  { s with atoms := if r.wants then s.atoms.set n { r with applied := true, reply := reply, led := false, merged := [] } else s.atoms.del n }

/-- One request of an application answers; a watchpoint's report starts on its way (R249). -/
def State.answerAtom (s : State) (n : Nat) (r : AtomReq) (reply : Option Word) (weight : Nat) : State :=
  let s := match r.who with
    | .ctx c => match s.ctxs.get (.ctx c) with
      | some x =>
        let x := match r.wp with | some (k, ea) => s.atomReport x r r.t k ea weight | none => x
        let win := match r.t, reply with | .dev .., some _ => x.win ++ [(r.t, r.bytes)] | _, _ => x.win
        s.setCtx (.ctx c) { x with win := win }
      | none => s
    | .handler _ => s
  s.endAtom n r reply

/-- An access of a device-form KACC: its write is the context's, and a watchpoint of kind ATM on its row starts its report (R249, R391). -/
def State.kaccDone (s : State) (r : AtomReq) (ws : Watches) (row : Target) (written : List (Target × Nat)) : State :=
  match r.who with
  | .handler _ => s
  | .ctx c =>
    match s.ctxs.get (.ctx c) with
    | none => s
    | some x =>
      let x := match firstWatch ws .atm [(row, 64)] with
        | some k => s.atomReport x r row k (watchAddr ws k .atm [(row, 64)]) 1
        | none => x
      s.setCtx (.ctx c) { x with win := x.win ++ written }

/-- The requests of an application that arrive outside their tasks' leases, and so are not performed (R52, R371), answered. -/
def State.loseAtoms (s : State) (lost : List (Nat × AtomReq)) : State × Sent :=
  (lost.foldl (fun s p => s.endAtom p.1 p.2 none) s,
   lost.filterMap fun p => match p.2.who with | .ctx k => some (k, leaseLost p.2.t p.2.pc) | .handler _ => none)

/-- An unapplied request's application (R201): with it apply those it leads, or its leader. A KACC makes its next access. -/
def State.applyStep (s : State) (n : Nat) : Option (State × Sent) :=
  let s0 := s
  let lead := match s.atoms.find? fun p => (p.2.merged.any fun m => m.2 == n) && ! p.2.applied with
    | some p => p.1
    | none => n
  match s.atoms.get lead with
  | none => some (s, [])
  | some r =>
    if r.applied then some (s, []) else
    let s := s.carried r.who r.trans
    Option.map (fun (p : State × Sent) => (s0.landed p.1, p.2)) <|
    match r.kacc with
    | some k =>
      (s.applyKacc r k).map fun (s, next, row, written) =>
        let s := (s.kaccDone r k.ws row written).keepReply r 0
        match next with
        | .more k => ({ s with atoms := s.atoms.set lead { r with kacc := some k } }, [])
        | .ended c => (s.endAtom lead r none, match c, r.who with | some p, .ctx w => [(w, p)] | _, _ => [])
    | none =>
    let led := r.merged.filterMap fun m => (s.atoms.get m.2).map fun q => (m.2, q)
    let within (p : Nat × AtomReq) : Bool := s.granted p.2.who p.2.t p.2.bytes false true
    let all := ((lead, r) :: led).filter within
    let (s, qs) := s.loseAtoms (((lead, r) :: led).filter fun p => ! within p)
    if all.isEmpty then some (s, qs) else
    match s.applyGroup r (all.map fun p => p.2.x) with
    | none => none
    | some (s, some olds, _) =>
      let s := s.keepReply r (olds.headD 0)
      some ((all.zip olds).foldl (fun s p => s.answerAtom p.1.1 p.1.2 (some p.2) all.length) s, qs)
    | some (s, none, c) =>
      let s := all.foldl (fun s p => s.answerAtom p.1 p.2 none all.length) (s.keepReply r 0)
      let hush (q : AtomReq) : AtomReq := if q.group != 0 && q.group == r.group then { q with quiet := true } else q
      some ({ s with atoms := s.atoms.map fun p => (p.1, hush p.2) },
        qs ++ all.filterMap fun p => if p.2.quiet then none else match p.2.who with | .ctx k => some (k, c) | .handler _ => none)

/-- A request applied to its end: a KACC makes the accesses it has left. -/
def State.applyReq (s : State) (n : Nat) : Option (State × Sent) :=
  match (s.atoms.get n).bind (·.kacc) with
  | none => s.applyStep n
  | some k => (List.range (k.probe + 1 - k.at_)).foldl (fun o _ => match o with
    | none => none
    | some (s, ps) => (s.applyStep n).map fun r => (r.1, ps ++ r.2)) (some (s, []))

/-- Atomic requests of an agent that a test selects are applied, in issue order. -/
def State.applyAtoms (s : State) (a : Agent) (sel : AtomReq → Bool) : Option (State × Sent) :=
  (s.atoms.filter fun p => p.2.who == a && ! p.2.applied && sel p.2).foldl (fun o p =>
    match o with
    | none => none
    | some (s, ps) =>
      match s.applyReq p.1 with
      | none => none
      | some (s, qs) => some (s, ps ++ qs)) (some (s, []))

/-- Does the context's frame have a queued matrix instruction of this context that touches the range (R109, R372)? -/
def MatCmd.meets (m : MatCmd) (t : Target) (n : Nat) : Bool :=
  let row (k len : Nat) : Bool := (Target.scr (k / 2 ^ 19) (k % 2 ^ 19)).meets len t n
  match m with
  | .lda rows rowb => rows.any fun r => row r rowb
  | .ldb a len => row a len
  | .scl _ _ a len => row a len
  | .mvb _ _ rows _ _ _ => rows.any fun k => row k 64
  | .store _ rows rowb tile =>
    rows.any (fun k => row k rowb) || (match tile with | some (k, len) => row k len | none => false)
  | _ => false

def State.matrixMeets (s : State) (c : CtxId) (t : Target) (n : Nat) : Bool :=
  match s.frames.get (c.core, c.frm) with
  | some f => f.mq.any fun m => m.who == c.kind && m.cmd.meets t n
  | none => false

/-- What an agent read early of ranges is no longer used (R192). -/
def State.dropEarly (s : State) (a : Agent) (ts : List (Target × Nat)) : State :=
  match s.ctxs.get a with
  | some x => if x.early.isEmpty then s else s.setCtx a (x.dropEarly s ts)
  | none => s

/-- Everything of a context's own, its queued matrix instructions apart, that must be performed before an access to these ranges is
(R109, R193): its queued bank commands and its atomics there, and for an access that is not itself held or outstanding its held stores;
a write also waits for its earlier loads. None: the access waits. -/
def State.orderCore (s : State) (c : CtxId) (ts : List (Target × Nat)) (writes drains : Bool) : Option (State × Sent) :=
  let a := Agent.ctx c
  let hit (t : Target) (n : Nat) : Bool := ts.any fun u => s.meets u.1 u.2 t n
  match (if writes then s.settle a fun e => e.what.ranges.any fun r => hit r.1 r.2 else some s) with
  | none => none
  | some s =>
    match (if drains then s.drainHeld a fun h => h.parts.any fun p => hit p.1 p.2.length else some (s, [])) with
    | none => none
    | some (s, ps) =>
      let n := lastSel (s.coreOf c.core).cmds fun q => q.who == c && q.cmd.rows.any fun r => hit (rowTarget r) 64
      let (s, qs) := s.performCmds c.core n
      match s.applyAtoms a fun r => hit r.t r.bytes with
      | none => none
      | some (s, rs) => some (if writes then s.dropEarly a ts else s, ps.map (fun p => (c, p)) ++ qs ++ rs)

/-- The order of R109 and R193 before an access; one that meets a queued matrix instruction of the context waits (R372). -/
def State.orderBefore (s : State) (a : Agent) (ts : List (Target × Nat)) (writes drains : Bool) : Option (State × Sent) :=
  match a with
  | .handler _ => some (s, [])
  | .ctx c => if ts.any fun t => s.matrixMeets c t.1 t.2 then none else s.orderCore c ts writes drains

/-- The marking that a context's performed stores still owe, with that of one it is about to perform (R141), as one step. -/
def State.markOwn (s : State) (a : Agent) (own : List (Target × Nat)) : State :=
  match s.ctxs.get a with
  | some x => (s.setCtx a { x with unmarked := [] }).markStep (devRanges (x.unmarked ++ own))
  | none => s

/-- Does the frame hold a queued matrix instruction of this context that writes memory (R110, R194)? -/
def State.matrixWrites (s : State) (c : CtxId) : Bool :=
  match s.frames.get (c.core, c.frm) with
  | some f => f.mq.any fun m => m.who == c.kind && (match m.cmd with | .store .. => true | .mvb .. => true | _ => false)
  | none => false

/-- Does it hold an MST of this context? An MMVB's rows are bank commands, for which neither FENCE nor an engine operation waits (R112, R193). -/
def State.matrixStores (s : State) (c : CtxId) : Bool :=
  match s.frames.get (c.core, c.frm) with
  | some f => f.mq.any fun m => m.who == c.kind && (match m.cmd with | .store .. => true | _ => false)
  | none => false

/-- Stores performed without marking: what FENCE (R193) and an engine operation's begin ask for, and every earlier load too. -/
def State.performAll (s : State) (a : Agent) : Option (State × Sent) :=
  match a with
  | .handler _ => some (s, [])
  | .ctx c =>
    if s.matrixStores c then none else
    match s.settle a fun _ => true with
    | none => none
    | some s =>
      match s.drainHeld a fun _ => true with
      | none => none
      | some (s, ps) => some (s, ps.map fun p => (c, p))

/-- A context's writes published, with the ranges of a .REL store or atomic about to be performed (R194): its unit-space stores performed (R190),
its held stores, its bank commands (R110) and its atomics performed, and the marking done in one step (R140, R141). None: the point waits,
for a unit, a slab, or the ninth attempt of a tile (R142). -/
def State.publishWrites (s : State) (a : Agent) (own : List (Target × Nat)) : Option (State × Sent) :=
  match a, s.ctxs.get a with
  | .ctx c, some x =>
    if s.unitq.any (fun q => q.1 == c) || s.markHeld (devRanges (x.unmarked ++ x.held.flatMap HeldStore.ranges ++ own)) then none else
    match s.drainHeld a fun _ => true with
    | none => none
    | some (s, ps) =>
      let n := lastSel (s.coreOf c.core).cmds fun q => q.who == c
      let (s, qs) := s.performCmds c.core n
      match s.applyAtoms a fun _ => true with
      | none => none
      | some (s, rs) => some (s.markOwn a own, ps.map (fun p => (c, p)) ++ qs ++ rs)
  | _, _ => some (s, [])

/-- A publication point of a context (R194): it waits for an acquire that has not returned and for queued matrix instructions that write
(R116), every earlier load is performed, and every earlier write published. -/
def State.publishWith (s : State) (a : Agent) (own : List (Target × Nat)) : Option (State × Sent) :=
  match a with
  | .handler _ => some (s, [])
  | .ctx c =>
    if (match s.ctxs.get a with | some x => x.acqPending | none => false) || s.matrixWrites c then none else
    match s.settle a fun _ => true with
    | none => none
    | some s => s.publishWrites a own

def State.publish (s : State) (a : Agent) : Option (State × Sent) := s.publishWith a []

/-- Has all that a context sent over Gleit links been acknowledged (R198): its spawns and decrements, and its pod barrier arrivals? -/
def State.linkClear (s : State) (c : CtxId) : Bool :=
  ! (s.proxies.any fun p => (match p.1.2 with | .link _ => true | .die _ => false) && p.2.any fun e => e.who == some c) &&
  ! (s.arrivals.any fun r => r.who == some c && r.key.id.toNat / 4096 == 4) &&
  ! (s.atoms.any fun r => r.2.who == .ctx c && r.2.link.isSome && ! r.2.applied)

/-- A publication point of a scope code (R194, R198): at code 4 it covers work carried over a Gleit link too. -/
def State.publishAt (s : State) (a : Agent) (scope : Nat) (own : List (Target × Nat) := []) : Option (State × Sent) :=
  match a with
  | .ctx c => if scope = 4 && ! s.linkClear c then none else s.publishWith a own
  | .handler _ => s.publishWith a own

/-- A store or atomic with .REL is performed after every earlier access has completed, a load from unit space among them (R193). -/
def Ctx.unitLoads (x : Ctx) : Bool := x.out.any fun o => match o.what with | .unit _ => true | _ => false

end Sys2Proof.Machine
end

