-- ==== Sys2Proof/Machine/Barrier.lean ====
section
/-! DEFINITION. Barrier objects at their roots, and tollgate lines (spec/12_sync.md R205 to R214, R218, R220; R53). -/

namespace Sys2Proof.Machine

/-! ## What comes next from several sources (R204) -/

/-- The places in a list of the elements that a test selects, each the first of its source. -/
def firstsOf {α κ : Type} [DecidableEq κ] (sel : α → Bool) (source : α → κ) (l : List α) : List Nat :=
  (List.range l.length).filter fun i => match l[i]? with
    | some a => sel a && ! ((l.take i).any fun b => sel b && source b == source a)
    | none => false

/-- One of several places: what arrives from different sources is accepted in any order (R204; DESIGN CHOICE, LOG 100). -/
def State.pick (s : State) (salt : Nat) (is : List Nat) : Option Nat :=
  match is with
  | [] => none
  | [i] => some i
  | is => is[(Config.freeValue (s.freeTick * 2 ^ 48 + 2 ^ 39 + salt)).toNat % is.length]?

/-! ## Clusters -/

def State.clusterAt (s : State) (c : Nat) : Cluster := (s.clusters.get c).getD Cluster.init
/-- Entries that a level holds on chip, and in its ring (R57, R58). -/
def Level.entries (l : Level) : List QEntry := l.dealer ++ l.spawn ++ l.cont
def Level.onChip (l : Level) : Nat := (l.entries.filter fun e => e.spill.isNone).length
def Level.spilled (l : Level) : List Nat := l.entries.filterMap fun e => e.spill
def Cluster.level (c : Cluster) (n : Nat) : Level := c.levels.toList.getD n Level.init
def State.setCluster (s : State) (c : Nat) (x : Cluster) : State := { s with clusters := s.clusters.set c x }

/-! ## Saved and departing frames (R68) -/

/-- Is a frame being saved? -/
def State.saving (s : State) (k : Nat × Nat) : Bool :=
  s.preempts.any fun (p : Nat × Preempt) => p.2.save && p.2.frames.contains k

/-- A context, live or saved. -/
def State.heldCtx (s : State) (c : CtxId) : Option Ctx :=
  match s.ctxs.get (.ctx c) with
  | some x => some x
  | none => s.saved.findSome? fun v =>
      if v.core = c.core ∧ v.frm = c.frm then (v.ctxs.find? fun p => p.1 == c.kind).map (·.2) else none

/-- A context updated, live or saved. -/
def State.updHeld (s : State) (c : CtxId) (g : Ctx → Ctx) : State :=
  match s.ctxs.get (.ctx c) with
  | some x => s.setCtx (.ctx c) (g x)
  | none => { s with saved := s.saved.map fun v =>
      if v.core = c.core ∧ v.frm = c.frm then { v with ctxs := v.ctxs.map fun p => if p.1 = c.kind then (p.1, g p.2) else p } else v }

/-! ## Barrier objects (R210 to R213) -/

/-- The object an id names for an issuer (R210): its cluster's at scope 1, its die's at scope 2. -/
def objKey (sid core : Nat) (id : BitVec 16) : ObjKey :=
  { sid := sid, id := id,
    inst := match id.toNat / 4096 with | 1 => clusterOf core | 2 => dieOf core | _ => 0 }

def State.barrier (s : State) (k : ObjKey) : Barrier :=
  (s.barriers.get k).getD { phase := 0, sum := 0, extra := 0, doneCtr := none, groupCount := none, counted := [], extWord := none }

def State.setBarrier (s : State) (k : ObjKey) (b : Barrier) : State := { s with barriers := s.barriers.set k b }

/-- The table entry of an object: COUNT and DONEINIT (R210). Group domains have COUNT from their bind and DONEINIT 0. -/
def State.barEntry (s : State) (k : ObjKey) : Nat × Nat :=
  match (s.barrier k).groupCount with
  | some n => (n, 0)
  | none =>
    if k.id.toNat / 4096 = 1 ∧ 0xF00 ≤ k.id.toNat % 4096 then (0, 0) else
    match s.spaces.get k.sid with
    | none => (0, 0)
    | some sp =>
      let b := memRead s.mem ((sp.barTab.toList.getD (k.id.toNat / 4096 - 1) 0) + 8 * (k.id.toNat % 4096)) 8
      (leAt b 0 4, leAt b 4 4)

/-! ## The way of an arrival (R211) -/

/-- The routers that hold an arrival of a core on its way to an object's root: none at cluster scope; the cluster's; its die's, at device scope for a
core of die 1 only; at pod scope die 0's too (DESIGN CHOICE, LOG 100). Routers 0 to 23 are the clusters', 24 and 25 the dies'. -/
def rootPath (k : ObjKey) (core : Nat) : List Nat :=
  let cl := clusterOf core
  let d := cl / 12
  match k.id.toNat / 4096 with
  | 1 => []
  | 2 => [cl]
  | 3 => cl :: (if d = 0 then [] else [25])
  | _ => cl :: (if d = 0 then [24] else [25, 24])

/-- An arrival of a core at an object as it sets out (R211). -/
def State.arrivalOf (s : State) (k : ObjKey) (c : CtxId) : Arrival :=
  { key := k, who := some c, fin := false, xch := false, quiet := false, ticket := s.freeTick, path := rootPath k c.core, port := c.core, time := s.clock }

/-- The device's own arrival, delivered to the object (R53). -/
def State.ownArrival (s : State) (k : ObjKey) : Arrival :=
  { key := k, who := none, fin := false, xch := false, quiet := true, port := 1152, time := s.clock }

def Arrival.atRoot (a : Arrival) : Bool := a.path.isEmpty
def Arrival.router (a : Arrival) : Option Nat := a.path.head?

/-- The arrivals that a router holds for an object. -/
def State.heldAt (s : State) (r : Nat) (k : ObjKey) : List Arrival := s.arrivals.filter fun a => a.key == k && a.router == some r

/-- What a router has marked for an object. -/
def State.portsOf (s : State) (r : Nat) (k : ObjKey) : PortMarks :=
  (s.portMarks.find? fun p => p.router == r && p.key == k).getD { router := r, key := k, marked := [], ports := [] }

/-- May a router forward what it holds for an object (R211): every port marked in the phase before has reported, or 32 cycles have passed since the
first arrival it holds? -/
def State.mayForward (s : State) (r : Nat) (k : ObjKey) : Bool :=
  let held := s.heldAt r k
  let m := s.portsOf r k
  ! held.isEmpty && (m.marked.all (fun p => m.ports.contains p || held.any fun a => a.port == p) || held.any fun a => decide (a.time + 32 ≤ s.clock))

/-- A router forwards one packet, the arrivals that it holds for an object, and notes their ports (R211). -/
def State.forwardHeld (s : State) (r : Nat) (k : ObjKey) : State :=
  let held := s.heldAt r k
  let m := s.portsOf r k
  let on (a : Arrival) : Arrival := { a with path := a.path.tail, port := 2000 + r, time := s.clock }
  { s with
    arrivals := (s.arrivals.filter fun a => ! (a.key == k && a.router == some r)) ++ held.map on,
    portMarks := { m with ports := (m.ports ++ held.map (·.port)).eraseDups } :: s.portMarks.filter fun p => ! (p.router == r && p.key == k) }

/-- A phase's end at the routers of an object: the ports that reported in it are those marked for the next (R211). -/
def State.turnMarks (s : State) (k : ObjKey) : State :=
  { s with portMarks := s.portMarks.map fun p => if p.key = k then { p with marked := p.ports, ports := [] } else p }

/-- Does a context wait in an XBEGIN for a phase of the object, the one in which that XBEGIN's arrival was counted (R218, R220)? -/
def Ctx.inXbegin (x : Ctx) (k : ObjKey) (p : BitVec 16) : Bool :=
  (match x.xch with | some e => e.start.isNone && e.key == k | none => false) &&
  x.bara.any fun r => ! r.own && r.key == k && r.phase == some p

/-! ## Phases (R211 to R214) -/

/-- Send the release of the present phase to every context counted in it, and begin the next (R211, R213). -/
def State.releasePhase (s : State) (k : ObjKey) (broken : Bool) : State :=
  let b := s.barrier k
  let rs := b.counted.map fun c =>
    ({ who := c, key := k, phase := b.phase, broken := broken, xch := (s.heldCtx c).any fun x => x.inXbegin k b.phase, time := s.clock } : Release)
  (({ s with releases := s.releases ++ rs }.turnMarks k).setBarrier k
    { b with phase := b.phase + 1, sum := 0, extra := 0, counted := [] })

/-- A frozen allocation counts one arrival of another member in a later phase, and is freed when none is awaited (R214). -/
def State.thaw (s : State) (k : ObjKey) (c : CtxId) : State :=
  let step (f : (Nat × Nat) × ObjKey × Nat × Nat × List CtxId) : (Nat × Nat) × ObjKey × Nat × Nat × List CtxId :=
    if f.2.1 = k then (f.1, f.2.1, f.2.2.1, f.2.2.2.1, f.2.2.2.2.filter (fun m => ! (m.core == c.core && m.frm == c.frm))) else f
  { s with frozen := (s.frozen.map step).filter (fun f => ! f.2.2.2.2.isEmpty) }

/-- The record that waits on an arrival takes the phase in which it was counted (R212, R220). -/
def recordPhase (k : ObjKey) (ticket : Nat) (p : BitVec 16) (rs : List BaraRec) : List BaraRec :=
  rs.map fun r => if r.key = k ∧ r.ticket = ticket ∧ r.phase = none then { r with phase := some p } else r

/-- One arrival counted in the present phase (R211, R212), and whether it ends the done counter. -/
def State.countArrival (s : State) (doneInit : Nat) (a : Arrival) : State × Bool :=
  let b := s.barrier a.key
  let ctr := b.doneCtr.getD doneInit
  let fin := a.fin && decide (0 < doneInit)
  let ctr' := if fin then ctr - 1 else ctr
  let s := s.setBarrier a.key
    { b with sum := b.sum + 1, counted := (match a.who with | some c => b.counted ++ [c] | none => b.counted),
             doneCtr := if fin then some (if ctr' = 0 then doneInit else ctr') else b.doneCtr }
  (match a.who with
   | none => s
   | some c =>
     let s := s.thaw a.key c
     if a.fin || a.quiet then s else s.updHeld c fun x => { x with bara := recordPhase a.key a.ticket b.phase x.bara },
   fin && ctr' == 0)

/-- The arrivals of a packet counted, all in the present phase (DESIGN CHOICE, LOG 100), and whether one ends the done counter. -/
def State.countArrivals (doneInit : Nat) : List Arrival → State → State × Bool
  | [], s => (s, false)
  | a :: as, s =>
    let r := s.countArrival doneInit a
    let q := State.countArrivals doneInit as r.1
    (q.1, r.2 || q.2)

/-- The root accepts one packet of arrivals (R211, R212): counted, or for an object that is not configured the cause 0x22 for their issuers. -/
def State.rootAccept (s : State) (k : ObjKey) (as : List Arrival) : State × Sent :=
  let (count, doneInit) := s.barEntry k
  if count = 0 then (s, as.filterMap fun a => a.who.map fun c => (c, ⟨0x22, 0, k.id.zeroExtend 32⟩))
  else
    let r := State.countArrivals doneInit as s
    let b := r.1.barrier k
    (if count + b.extra ≤ b.sum || r.2 then r.1.releasePhase k false else r.1, [])

/-- Mark the records of a released phase (R212, R213). -/
def markRecords (k : ObjKey) (p : BitVec 16) (broken : Bool) (rs : List BaraRec) : List BaraRec :=
  rs.map fun r => if r.key = k ∧ r.phase = some p then { r with released := true, broken := r.broken || broken } else r

/-- A release reaches a context (R212). -/
def State.releaseAt (s : State) (r : Release) : State :=
  s.updHeld r.who fun x => { x with bara := markRecords r.key r.phase r.broken x.bara }

/-- A killed frame breaks each open phase in which it has a counted arrival (R213); its group domain's breaks by itself. -/
def State.breakPhases (s : State) (core frm : Nat) (domain : Option ObjKey) : State :=
  (s.barriers.filter fun p => some p.1 != domain && p.2.counted.any fun c => c.core == core && c.frm == frm).foldl
    (fun s p => s.releasePhase p.1 true) s

/-- A killed member of a group domain breaks its current phase and lowers its COUNT (R213). -/
def State.breakGroup (s : State) (k : ObjKey) : State :=
  let s := s.releasePhase k true
  let b := s.barrier k
  s.setBarrier k { b with groupCount := b.groupCount.map fun n => n - 1 }

/-! ## Tollgate lines (R205 to R208) -/

def Cluster.bar (c : Cluster) (n : Nat) : BarLine :=
  (c.bars.get n).getD { cfg := 0, count := 0, phase := 0, pending := [], waiters := [] }
def Cluster.mutex (c : Cluster) (n : Nat) : MutexLine := (c.mutexes.get n).getD { holder := none, grants := 0, waiters := [] }
def Cluster.event (c : Cluster) (n : Nat) : EventLine := (c.events.get n).getD { count := 0, waiters := [] }

def BarLine.en (l : BarLine) : Bool := l.cfg.getLsbD 63
def BarLine.goal (l : BarLine) : Nat := (l.cfg.extractLsb' 48 8).toNat
/-- MASK's bit for a core (R206). -/
def BarLine.inMask (l : BarLine) (core : Nat) : Bool := l.cfg.getLsbD (8 * (coreY core % 6) + coreX core % 8)

/-- A word whose load waits for a tollgate line's answer (R205). -/
def UnitWord.isLine : UnitWord → Bool | .barrier .. => true | .mutex .. => true | .event .. => true | _ => false

/-- Answer the line load on which a context waits: its data is ready, and the context acquires (R195, R205). -/
def State.answerLine (s : State) (c : CtxId) (w : Word) : State :=
  match s.ctxs.get (.ctx c) with
  | none => s
  | some x =>
    let rec go : List Outst → List Outst
      | [] => []
      | o :: os => match o.what with
        | .unit u => if u.isLine then { o with what := .ready w } :: os else o :: go os
        | _ => o :: go os
    { s.setCtx (.ctx c) { x.acquire with out := go x.out } with lineBack := s.lineBack.del c }

def State.answerLines (s : State) (cs : List CtxId) (w : Word) : State := cs.foldl (fun s c => s.answerLine c w) s

/-- A store to a configuration word (R206): EN reads 0 with COUNT outside 1 to 192; the count and the phase reset; waiters are answered. -/
def State.barConfig (s : State) (cl n : Nat) (v : Word) : State :=
  let k := s.clusterAt cl
  let l := k.bar n
  let goal := (v.extractLsb' 48 8).toNat
  let en := v.getLsbD 63 && decide (1 ≤ goal) && decide (goal ≤ 192)
  let stray := l.cfg.getLsbD 62 && ! v.getLsbD 62
  let cfg := setBit (setBit (v &&& 0x00FFFFFFFFFFFFFF) 63 en) 62 stray
  let s := s.setCluster cl { k with bars := k.bars.set n { cfg := cfg, count := 0, phase := 0, pending := [], waiters := [] } }
  s.answerLines l.waiters 0xFFFFFFFFFFFFFFFF

/-- An arrival at a barrier line (R206). -/
def State.barArrive (s : State) (cl n : Nat) (who : CtxId) : State :=
  let k := s.clusterAt cl
  let l := k.bar n
  if ! l.en then s
  else if ! l.inMask who.core then s.setCluster cl { k with bars := k.bars.set n { l with cfg := setBit l.cfg 62 true } }
  else if l.count + 1 = l.goal then
    let s := s.setCluster cl { k with bars := k.bars.set n { l with count := 0, phase := l.phase + 1, pending := [], waiters := [] } }
    s.answerLines l.waiters ((l.phase + 1).zeroExtend 64)
  else
    s.setCluster cl { k with bars := k.bars.set n { l with count := l.count + 1, pending := l.pending ++ [who] } }

/-- A load of a barrier line reaches it (R206): a pending context waits for the firing, any other has the phase at once. -/
def State.barLoad (s : State) (cl n : Nat) (who : CtxId) : State :=
  let k := s.clusterAt cl
  let l := k.bar n
  if ! l.en then s.answerLine who 0xFFFFFFFFFFFFFFFF
  else if l.pending.contains who then
    (if l.waiters.contains who then s else s.setCluster cl { k with bars := k.bars.set n { l with waiters := l.waiters ++ [who] } })
  else s.answerLine who (l.phase.zeroExtend 64)

/-- A load of a mutex line reaches it (R207): it takes a free line, or waits in order. The grant count is as it stands after its
advance (DEDUCED, LOG 15). -/
def State.mutexLoad (s : State) (cl n : Nat) (who : CtxId) : State :=
  let k := s.clusterAt cl
  let l := k.mutex n
  match l.holder with
  | none =>
    let s := s.setCluster cl { k with mutexes := k.mutexes.set n { l with holder := some who, grants := l.grants + 1 } }
    s.answerLine who (l.grants + 1)
  | some _ =>
    if l.waiters.contains who then s else
    s.setCluster cl { k with mutexes := k.mutexes.set n { l with waiters := l.waiters ++ [who] } }

/-- A mutex line is freed and its first waiter granted (R207). -/
def State.mutexGrant (s : State) (cl n : Nat) : State :=
  let k := s.clusterAt cl
  let l := k.mutex n
  match l.waiters with
  | [] => s.setCluster cl { k with mutexes := k.mutexes.set n { l with holder := none } }
  | w :: ws =>
    let s := s.setCluster cl { k with mutexes := k.mutexes.set n { holder := some w, grants := l.grants + 1, waiters := ws } }
    s.answerLine w (l.grants + 1)

/-- A store to a mutex line (R207): the holder frees it; any other is ignored. -/
def State.mutexFree (s : State) (cl n : Nat) (who : CtxId) : State :=
  if ((s.clusterAt cl).mutex n).holder = some who then s.mutexGrant cl n else s

/-- A signal at an event line (R208): it serves the first waiting load, or counts, saturating. -/
def State.eventSignal (s : State) (cl n : Nat) : State :=
  let k := s.clusterAt cl
  let l := k.event n
  match l.waiters with
  | w :: ws =>
    let s := s.setCluster cl { k with events := k.events.set n { l with waiters := ws } }
    s.answerLine w (BitVec.ofNat 64 (l.count.toNat + 1))
  | [] => s.setCluster cl { k with events := k.events.set n { l with count := if l.count = 0xFFFF then l.count else l.count + 1 } }

def State.eventClear (s : State) (cl n : Nat) : State :=
  let k := s.clusterAt cl
  s.setCluster cl { k with events := k.events.set n { k.event n with count := 0 } }

/-- A load of an event line reaches it (R208): it takes 1 from a count above 0 and returns the count before, or waits. -/
def State.eventLoad (s : State) (cl n : Nat) (who : CtxId) : State :=
  let k := s.clusterAt cl
  let l := k.event n
  if l.count = 0 then
    (if l.waiters.contains who then s else s.setCluster cl { k with events := k.events.set n { l with waiters := l.waiters ++ [who] } })
  else
    let s := s.setCluster cl { k with events := k.events.set n { l with count := l.count - 1 } }
    s.answerLine who (l.count.zeroExtend 64)

/-- Free every mutex line of a cluster that a test on the holder selects. -/
def State.freeMutexes (s : State) (cl : Nat) (sel : CtxId → Bool) : State :=
  (List.range 32).foldl (fun s n =>
    match ((s.clusterAt cl).mutex n).holder with
    | some h => if sel h then s.mutexGrant cl n else s
    | none => s) s

/-- Withdraw a context's waiting line loads (R209). -/
def State.withdraw (s : State) (c : CtxId) : State :=
  let cl := clusterOf c.core
  let k := s.clusterAt cl
  let keep (l : List CtxId) := l.filter (· != c)
  if s.clusters.get cl = none then s else
  s.setCluster cl { k with
    bars := k.bars.map fun p => (p.1, { p.2 with waiters := keep p.2.waiters }),
    mutexes := k.mutexes.map fun p => (p.1, { p.2 with waiters := keep p.2.waiters }),
    events := k.events.map fun p => (p.1, { p.2 with waiters := keep p.2.waiters }) }

end Sys2Proof.Machine
end

