-- ==== Sys2Proof/Machine/Ops.lean ====
section
/-! DEFINITION. The shared operations: futures, kills, imprecise causes, taking an exception and returning from one, address and
capability checks, watchpoints, and the issue of one instruction (spec/14_faults.md, spec/03_execution.md R32, R39, R40,
spec/10_encoding.md R176, R181 to R184, spec/05_memory.md R76 to R84, spec/04_scheduling.md R52). -/

namespace Sys2Proof.Machine

/-! ## Names of contexts -/

def ctxNo : CtxKind → Nat | .loader => 0 | .computer => 1 | .storer => 2
def ctxKinds : List CtxKind := [.loader, .computer, .storer]
def ctxsOf (core frm : Nat) : List CtxId := ctxKinds.map fun k => ⟨core, frm, k⟩

def State.setFrame (s : State) (core frm : Nat) (f : Frame) : State := { s with frames := s.frames.set (core, frm) f }
def State.updFrame (s : State) (core frm : Nat) (g : Frame → Frame) : State :=
  match s.frames.get (core, frm) with
  | some f => s.setFrame core frm (g f)
  | none => s
def State.updCtx (s : State) (a : Agent) (g : Ctx → Ctx) : State :=
  match s.ctxs.get a with
  | some x => s.setCtx a (g x)
  | none => s

/-- The issuing agent's frame; a handler has none. -/
def State.curFrame (s : State) : Option Frame := match s.cur with | .ctx c => s.frameOf c | .handler _ => none
/-- The core that addresses of the issuing agent are relative to. -/
def State.curCore (s : State) : Nat := match s.cur with | .ctx c => c.core | .handler _ => 0
def State.curId (s : State) : Option CtxId := match s.cur with | .ctx c => some c | .handler _ => none

/-- Does a context's frame hold an MMVB of it whose bank half is to come (R106)? -/
def State.halfPending (s : State) (c : CtxId) : Bool :=
  match s.frameOf c with
  | some fr => fr.mq.any fun m => m.who == c.kind && (match m.cmd with | .mvb .. => true | _ => false)
  | none => false

/-- Scratch blocks of a task type (R23, R26). -/
def tdescBlocks (d : BitVec 512) : Nat := (d.extractLsb' 80 16).toNat / 4
def Frame.blocks (f : Frame) : Nat := tdescBlocks f.tdesc

/-- CYCLE of a core (R359). -/
def State.cycle (s : State) (core : Nat) : Nat := s.clock - (s.coreOf core).cyc0

/-- The slot table in force on a core (R65, R395). -/
def State.slotTable (s : State) (core : Nat) : Word :=
  match (s.coreOf core).nextSlots with
  | some (t, w) => if t ≤ s.cycle core then w else (s.coreOf core).slots
  | none => (s.coreOf core).slots

/-! ## Futures (R32, R33) -/

/-- A completion word (R33). -/
def cword (f : Bool) (cause : Cause) (value : Nat) : Word :=
  BitVec.ofNat 64 ((if f then 2 ^ 63 else 0) + cause.toNat % 128 * 2 ^ 56 + value % 2 ^ 56)
def okWord (value : Nat) : Word := cword false 0 value
def faultWord (cause : Cause) (value : Nat) : Word := cword true cause value

/-- The word of a handle that has completed; an empty one counts as completed with word 0 (R32). -/
def Handle.word : Handle → Option Word
  | .empty => some 0
  | .complete w _ => some w
  | _ => none

/-- The operations whose completion a read of the handle observes. -/
def Handle.done : Handle → List Nat
  | .complete _ ns => ns
  | _ => []

/-- FJOIN's handle of two (R32): complete once both are; ha's word if ha faulted, else hb's. -/
def Handle.join (a b : Handle) : Handle :=
  match a.word, b.word with
  | some x, some y => .complete (if x.getLsbD 63 then x else y) (a.done ++ b.done)
  | _, _ => .joined a b

/-- A handle after operation n completes with word w. -/
def Handle.resolve (n : Nat) (w : Word) : Handle → Handle
  | .pending m => if m = n then .complete w [n] else .pending m
  | .joined a b => Handle.join (a.resolve n w) (b.resolve n w)
  | h => h

/-- Does a handle hold operation n? -/
def Handle.holds (n : Nat) : Handle → Bool
  | .pending m => m == n
  | .joined a b => a.holds n || b.holds n
  | _ => false

/-- The operations a handle holds. -/
def Handle.ops : Handle → List Nat
  | .pending m => [m]
  | .joined a b => a.ops ++ b.ops
  | _ => []

def Ctx.holdsOp (x : Ctx) (n : Nat) : Bool := x.h.toList.any (Handle.holds n)

/-- The queue and the opcode index that a 0x30 reports for an operation (R244). -/
def OpKind.report : OpKind → Nat × Nat
  | .copy c => (c.q, match c.instr with | .cpyx _ => 1 | .cpya _ => 2 | .ebag _ => 3 | _ => 0)
  | .chain _ => (0, 5)
  | .reduce => (0, 5)
  | .dsync .. => (0, 8)
  | .lease _ => (0, 3)
  | .mvb _ => (0, 6)
  | .save _ => (0, 6)
  | .restore _ => (0, 7)

/-- An operation completes (R32, R33): its word goes to every handle that holds it; a detached one that faulted sends 0x30 (R244). -/
def State.completeOp (s : State) (n : Nat) (w : Word) : State × Sent :=
  match s.ops.get n with
  | none => (s, [])
  | some op =>
    let live := s.ctxs.any (fun p => p.2.holdsOp n) || s.saved.any fun v => v.ctxs.any fun p => p.2.holdsOp n
    let upd (x : Ctx) : Ctx := if x.holdsOp n then { x with h := x.h.map (Handle.resolve n w) } else x
    let s := { s with ops := s.ops.del n, ctxs := s.ctxs.map fun p => (p.1, upd p.2),
                      saved := s.saved.map fun v => { v with ctxs := v.ctxs.map fun p => (p.1, upd p.2) } }
    let r := op.kind.report
    (s, if w.getLsbD 63 && ! live then
        [(op.who, ⟨0x30, 0, BitVec.ofNat 32 ((w.extractLsb' 56 7).toNat + 256 * r.1 + 1024 * r.2)⟩)] else [])

/-- Device ranges that an operation wrote, for FENCE.WIN (R203). -/
def State.noteWin (s : State) (n : Nat) (ts : List (Target × Nat)) : State :=
  let dev := ts.filter fun p => match p.1 with | .dev .. => true | .scr .. => false
  if dev.isEmpty then s else { s with engWin := s.engWin.set n (((s.engWin.get n).getD []) ++ dev) }

/-- Writes of the operations whose completion a context has read: FENCE.WIN covers them from then on (R203). -/
def State.observed (s : State) (h : Handle) : List (Target × Nat) := h.done.flatMap fun n => (s.engWin.get n).getD []

/-- A context reads a handle's completion word: it acquires (R195), and FENCE.WIN covers the operations' writes (R203). An empty handle acquires
nothing (R356, R377). -/
def State.observe (s : State) (h : Handle) : State :=
  match h with
  | .empty => s
  | h =>
    let ts := s.observed h
    s.updCtx s.cur fun x => { x.acquire with win := x.win ++ ts }

/-- A new operation, pending in no handle yet. -/
def State.newOp (s : State) (o : Op) : Nat × State := (s.nextId, { s with ops := s.ops.set s.nextId o, nextId := s.nextId + 1 })

/-! ## Kills (R40, R213, R214) -/

/-- What a kill by the host records (R42): ADDR and PC are not stated (DESIGN CHOICE, LOG 11). FRAME.KILL takes its ADDR from here too
(DESIGN CHOICE, LOG 79). -/
def State.hostKill (s : State) : KillInfo :=
  { cause := 0x00, ctx := 3, eaddr := Config.freeValue (s.freeTick * 2 ^ 48 + 2 ^ 43),
    pc := (Config.freeValue (s.freeTick * 2 ^ 48 + 2 ^ 43 + 1)).extractLsb' 0 15 }

/-- The domain object of a frame of a group (R29, R31). -/
def Frame.domain (f : Frame) (core : Nat) : Option ObjKey :=
  if f.gbar = 0 then none else some (objKey (spaceSid f.task.space) core f.gbar)

/-- The frames of a group other than this one that are not killed. -/
def State.peers (s : State) (f : Frame) (core frm : Nat) : List CtxId :=
  match f.group with
  | none => []
  | some n => match s.groups.get n with
    | none => []
    | some g => (g.members.filter fun m => m != (core, frm) &&
        (match s.frames.get m with | some p => p.killed.isNone && p.group == some n | none => false)).map fun m => ⟨m.1, m.2, .computer⟩

/-- The unpublished stores of a killed context mark, then reach their homes (R40): all within the step that kills it, in the order in which it
issued them (DESIGN CHOICE, LOG 116). What a migration delays stays held. -/
def State.flushKilled (s : State) (c : CtxId) : State :=
  match s.ctxs.get (.ctx c) with
  | none => s
  | some x =>
    let s := s.markStep (devRanges (x.unmarked ++ x.held.flatMap fun h => h.parts.map fun p => (p.1, p.2.length)))
    match s.drainHeld (.ctx c) fun _ => true with
    | some (s, _) => s.updCtx (.ctx c) fun x => { x with unmarked := [] }
    | none => s

/-- A killed context (R40): ended, its futures discarded, its waits and records gone. -/
def Ctx.killed (x : Ctx) : Ctx :=
  { x with ended := true, out := [], early := [], bara := [], wait := .none, xch := none, pend := [], coming := [], owed := none, h := Vector.replicate 16 .empty }

/-- Is an operation a copy of the frame that has not begun, or an MMVB (R40)? -/
def Op.unbegunOf (o : Op) (core frm : Nat) : Bool :=
  o.who.core == core && o.who.frm == frm && (match o.kind with | .copy c => ! c.begun | .mvb _ => true | _ => false)

/-- QFENCEs with no operation of their queues before them leave (R384). -/
def fenceSettle : List QItem → BitVec 4 → List QItem
  | [], _ => []
  | .op n q :: rest, seen => .op n q :: fenceSettle rest (seen ||| (1#4 <<< q))
  | .fence m c w :: rest, seen => if m &&& seen = 0 then fenceSettle rest seen else .fence m c w :: fenceSettle rest seen

def State.settleFences (s : State) : State := { s with engine := s.engine.map fun (p : Nat × List QItem) => (p.1, fenceSettle p.2 0) }

/-- An MMVB whose bank half runs (R114). -/
def MatOp.halfBegun (m : MatOp) : Bool := match m.cmd with | .mvb .. => m.steps != 0 | _ => false

/-- The operations of a frame that have not begun go, with their places in the engine order (R40); its bank half that runs stays (R113). -/
def State.dropUnbegun (s : State) (core frm : Nat) : State :=
  let half (n : Nat) : Bool := match s.frames.get (core, frm) with
    | some f => f.mq.any fun m => m.halfBegun && (match m.cmd with | .mvb op .. => op == n | _ => false)
    | none => false
  let gone := (s.ops.filter fun p => p.2.unbegunOf core frm && ! half p.1).map (·.1)
  State.settleFences { s with
    ops := s.ops.filter fun p => ! gone.contains p.1,
    engine := s.engine.map fun (p : Nat × List QItem) => (p.1, p.2.filter fun q => match q with | .op n _ => ! gone.contains n | .fence .. => true) }

/-- A saved frame is killed (R42, R209): its contexts end, what it has queued goes, its lines are free and its phases broken. -/
def State.killSaved (s : State) (core frm : Nat) (info : KillInfo) : State :=
  match s.saved.find? fun v => v.core == core && v.frm == frm with
  | none => s
  | some v =>
    if v.frame.killed.isSome then s else
    let dead (w : Saved) : Saved := if w.core = core ∧ w.frm = frm then
        { w with frame := { w.frame with killed := some info }, ctxs := w.ctxs.map fun p => (p.1, p.2.killed) } else w
    let s := s.dropUnbegun core frm
    let s := { s with saved := s.saved.map dead }
    let s := s.freeMutexes (clusterOf core) fun h => h.core == core && h.frm == frm
    let s := s.breakPhases core frm (v.frame.domain core)
    match v.frame.domain core with
    | none => s
    | some k => (s.thaw k ⟨core, frm, .computer⟩).breakGroup k

/-- A kill ends a frame's three contexts at once (R40). -/
def State.killFrame (s : State) (core frm : Nat) (info : KillInfo) : State :=
  match s.frames.get (core, frm) with
  | none => s.killSaved core frm info
  | some f =>
    if f.killed.isSome then s else
    let s := (ctxsOf core frm).foldl State.flushKilled s
    let peers := s.peers f core frm
    let s := s.dropUnbegun core frm
    let s := { s with
      ctxs := s.ctxs.map fun (p : Agent × Ctx) => match p.1 with
        | .ctx c => if c.core = core ∧ c.frm = frm then (p.1, p.2.killed) else p
        | .handler _ => p }
    let s := s.setFrame core frm { f with killed := some info, mq := f.mq.filter MatOp.halfBegun, semq := [], trappedBy := none }
    let s := (ctxsOf core frm).foldl (fun s c => { s.withdraw c with lineBack := s.lineBack.del c }) s
    let s := s.freeMutexes (clusterOf core) fun h => h.core == core && h.frm == frm
    let s := s.breakPhases core frm (f.domain core)
    match f.domain core with
    | none => s
    | some k =>
      let s := (s.thaw k ⟨core, frm, .computer⟩).breakGroup k
      if peers.isEmpty then s else { s with frozen := s.frozen ++ [((core, frm), k, f.block, f.blocks, peers)] }

/-- An imprecise cause arrives (R242): pending, or the fifth kills; for a context that has executed END it kills (R41). PC of such a kill's record is
the context's (R42; DESIGN CHOICE, LOG 107). A lease fault kills at once, at the instruction whose access was lost (R40, R52). -/
def State.arrive (s : State) (c : CtxId) (p : PendCause) : State :=
  match s.ctxs.get (.ctx c), s.frameOf c with
  | some x, some f =>
    if f.killed.isSome then s
    else if p.cause = 0x13 then s.killFrame c.core c.frm ⟨0x13, ctxNo c.kind, p.eaddr, p.einfo.extractLsb' 0 15⟩
    else if x.ended || decide (4 ≤ x.pend.length) then
      s.killFrame c.core c.frm ⟨p.cause, ctxNo c.kind, p.eaddr, x.pc⟩
    else s.setCtx (.ctx c) { x with pend := x.pend ++ [p] }
  | _, _ =>
    -- a saved frame keeps what arrives for it, and the fifth kills it (R242)
    match s.heldCtx c with
    | none => s
    | some x =>
      if x.ended || decide (4 ≤ x.pend.length) then s.killFrame c.core c.frm ⟨p.cause, ctxNo c.kind, p.eaddr, x.pc⟩
      else s.updHeld c fun x => { x with pend := x.pend ++ [p] }

/-- Causes delivered in order. -/
def State.send (s : State) (ps : Sent) : State := ps.foldl (fun s p => s.arrive p.1 p.2) s

/-- Kill a frame. -/
def State.kill (s : State) (core frm : Nat) (info : KillInfo) : State := s.killFrame core frm info

/-- Complete an operation and deliver what follows. -/
def State.finishOp (s : State) (n : Nat) (w : Word) : State :=
  let r := s.completeOp n w
  r.1.send r.2

/-! ## Instruction stores (R166, R169, R170) -/

/-- Lines in the store that an agent issues from. -/
def storeLines (a : Agent) : Nat :=
  match a with
  | .ctx c => if c.kind = .computer then 4096 else 256
  | .handler _ => 256

/-- A line of the store that an agent issues from. A line that nothing has loaded holds zeros (DESIGN CHOICE, LOG 6). -/
def State.line (s : State) (a : Agent) (n : Nat) : BitVec 512 :=
  match a with
  | .ctx c =>
    (match c.kind with
     | .loader => (s.coreOf c.core).lstore.get n
     | .storer => (s.coreOf c.core).sstore.get n
     | .computer => (s.clusterAt (clusterOf c.core)).store.get n).getD 0
  | .handler _ => (s.handlerStore.get n).getD 0

def pcLine (p : Pc) : Nat := (p.extractLsb' 0 12).toNat
def pcSlot (p : Pc) : Nat := (p.extractLsb' 12 3).toNat
def pcOf (slot line : Nat) : Pc := BitVec.ofNat 15 (slot % 8 * 4096 + line % 4096)

/-- The model's mark of a context that has fallen through the last line of the shared store (R169): no slot has it. -/
def pcPast : Pc := 0x7FFF

/-- A program counter in the form of R169: past line 4,095 the next one is line 0, slot 0 in its twelve line bits (DEDUCED, LOG 27). -/
def pcForm (p : Pc) : Pc := if p = pcPast then 0 else p

/-- The next slot in issue order (R169). -/
def pcNext (p : Pc) : Pc :=
  if pcSlot p < 4 then pcOf (pcSlot p + 1) (pcLine p) else if pcLine p = 4095 then pcPast else pcOf 0 (pcLine p + 1)

/-- May a control transfer go here (R170)? -/
def State.targetOk (s : State) (a : Agent) (p : Pc) : Bool :=
  decide (pcSlot p < 5) && decide (pcLine p < storeLines a) && tgtBit (s.line a (pcLine p)) (pcSlot p)

/-! ## Taking an exception (R237, R238, R243) and returning (R239) -/

/-- STATUS as trap entry leaves it (R237): SV = 1, IE = 0, PP = 0, PAYLOAD = 0; RM and the flags are kept. -/
def trapStatus (w : Word) : Word := (w &&& 0xFFFFFFFF0000FFF9#64) ||| 1#64

/-- A tagged producer completes: its result is written (R176, R177), and one with .ACQ acquires (R195). -/
def State.writeOutst (x : Ctx) (o : Outst) : Ctx :=
  let x := if o.acq then x.acquire else x
  match o.what with
  | .ready w => x.writeW o.dst w
  | .readyV v m => x.writeVec o.dst (mergeLanes 32 m (match o.dst with | .v n => x.readV n | _ => 0) v)
  | .readyC c => x.writeCap o.dst c
  | _ => x

/-- Ready producers of a context are written back, in order; failed ones raise their cause (R247). -/
def State.retireReady (s : State) (c : CtxId) : State :=
  match s.ctxs.get (.ctx c) with
  | none => s
  | some x =>
    let done := x.out.filter fun o => o.what.isReady
    let x := done.foldl State.writeOutst x
    let x := { x with out := x.out.filter fun o => ! o.what.isReady }
    (s.setCtx (.ctx c) x).send (done.filterMap fun o => match o.what with | .failed p => some (c, p) | _ => none)

/-- Replies of a context's applied atomics become ready data; one whose word was uncorrectable writes nothing (R308). -/
def State.takeReplies (s : State) (c : CtxId) : State :=
  match s.ctxs.get (.ctx c) with
  | none => s
  | some x =>
    let step (o : Outst) : Option Outst :=
      match o.what with
      | .atomic n _ => match s.atoms.get n with
        | some r => if r.applied then r.reply.map fun w => { o with what := .ready w } else some o
        | none => some o
      | _ => some o
    let taken := x.out.filterMap fun o => match o.what with
      | .atomic n _ => match s.atoms.get n with | some r => if r.applied then some n else none | none => none
      | _ => none
    ({ s with atoms := s.atoms.filter fun p => ! taken.contains p.1 }).setCtx (.ctx c) { x with out := x.out.filterMap step }

/-- The value of a unit-space word that no line answers (R57, R81). -/
def State.unitRead (s : State) (u : UnitWord) : Word :=
  let occ (c : Cluster) (n : Nat) : Word := BitVec.ofNat 64 (joinLanes 16 ((List.range 4).map fun i => (c.level (n + i)).onChip))
  match u with
  | .config c n => ((s.clusterAt c).bar n).cfg
  | .dctl c => BitVec.ofNat 64 ((s.clusterAt c).rsz * 2 ^ 16 + (s.clusterAt c).keyed.toNat)
  | .spill c => (s.clusterAt c).spillReg
  | .occ0 c => occ (s.clusterAt c) 0
  | .occ1 c => occ (s.clusterAt c) 4
  | .age c => BitVec.ofNat 64 ((s.clusterAt c).age % 2 ^ 11)
  | .cb core frm n =>
    (match (s.frames.get (core, frm)).bind fun f => f.cbs.toList[n]? with
     | some b => BitVec.ofNat 64 (b.free % 256 + b.filled % 256 * 2 ^ 8 + b.prodPos % 64 * 2 ^ 16 + b.consPos % 64 * 2 ^ 24 +
         b.closed.toNat * 2 ^ 32 + b.abandoned.toNat * 2 ^ 33)
     | none => 0)
  | .sem core frm n =>
    (match (s.frames.get (core, frm)).bind fun f => f.sems.toList[n]? with
     | some c => c.zeroExtend 64
     | none => 0)
  | _ => 0

/-- The cluster whose tollgate serves a word. -/
def UnitWord.cluster : UnitWord → Nat
  | .barrier c _ => c | .mutex c _ => c | .event c _ => c | .config c _ => c | .dctl c => c | .spill c => c | .occ0 c => c
  | .occ1 c => c | .age c => c | .reserved c => c | .cb core _ _ => clusterOf core | .sem core _ _ => clusterOf core

/-- Has a context a store on its way to the tollgate that serves a word? Its later load of the word follows (R82, R205). -/
def State.unitBefore (s : State) (c : CtxId) (u : UnitWord) : Bool := s.unitq.any fun q => q.1 == c && q.2.1.cluster == u.cluster

/-- A producer that waits for a tollgate line's answer (R205). -/
def Outst.isLine (e : Outst) : Bool := match e.what with | .unit u => u.isLine | _ => false

/-- An uncompleted producer performed at its home, as far as it can be: none while it must wait. An atomic's reply and a line's answer
come by their own events. -/
def State.performOut (s : State) (c : CtxId) (x : Ctx) (e : Outst) : Option (State × Pending) :=
  match e.what with
  | .atomic .. => none
  | .unit u => if u.isLine || s.unitBefore c u then none else some (s, .ready (s.unitRead u))
  | _ => s.performFor (.ctx c) x e

/-- The producers of a list performed one after another, each that nothing earlier holds back and that need not wait. -/
def State.performEach (s : State) (c : CtxId) (done : List Outst) : List Outst → State × List Outst
  | [] => (s, done)
  | e :: es =>
    match (if e.what.isReady || done.any (fun a => s.precedes a e) then none else (s.ctxs.get (.ctx c)).bind fun x => s.performOut c x e) with
    | some (s, p) => State.performEach s c (done ++ [{ e with what := p }]) es
    | none => State.performEach s c (done ++ [e]) es

/-- Complete the tagged producers of one context, each that can be (R177): atomics applied, loads read, results written. -/
def State.completeTagged (s : State) (c : CtxId) : State :=
  let a := Agent.ctx c
  match s.ctxs.get a with
  | none => s
  | some x =>
    if x.out.isEmpty then s else
    let s := (s.atoms.filter fun p => p.2.who == a && ! p.2.applied).foldl (fun s p =>
      match s.applyReq p.1 with | some (s, ps) => s.send ps | none => s) s
    let s := s.takeReplies c
    match s.ctxs.get a with
    | none => s
    | some x =>
      let (s, es) := s.performEach c [] x.out
      (s.updCtx a fun x => { x with out := es }).retireReady c

/-- Does a tagged producer of the frame still have to complete? A load that waits for a tollgate line keeps its place (R209). -/
def State.tagsOut (s : State) (core frm : Nat) : Bool :=
  (ctxsOf core frm).any fun c => match s.ctxs.get (.ctx c) with
    | some x => x.out.any fun o => ! o.isLine
    | none => false

/-- Trap entry (R237): the saved registers, STATUS, the suspension of the frame, and the pc at the vector. It waits for every tagged
producer of the frame (R177), with the frame suspended. A vector line beyond the store or without TGT bit 27 kills the frame with 0x04
(R238), at the instruction `here` (R42). -/
def State.enterTrap (s : State) (c : CtxId) (cause : Cause) (eaddr : Word) (einfo : BitVec 32) (epc here : Pc) : State :=
  let s := (ctxsOf c.core c.frm).foldl State.completeTagged s
  if s.tagsOut c.core c.frm then
    { (s.updCtx (.ctx c) fun x => { x with owed := some (cause, eaddr, einfo, epc, here) }).updFrame c.core c.frm
        (fun f => { f with trappedBy := some c.kind }) with last := .trapped }
  else
  match s.ctxs.get (.ctx c) with
  | none => s
  | some x =>
    let line := (x.tvec.extractLsb' 6 12).toNat + cause.toNat % 128
    if decide (line < storeLines (.ctx c)) && tgtBit (s.line (.ctx c) line) 0 then
      let x := { x with estatus := x.status, epc := (pcForm epc).zeroExtend 64, owed := none, ecause := (cause &&& 0x7F).zeroExtend 64, eaddr := eaddr,
                        einfo := einfo.zeroExtend 64, status := trapStatus x.status, pc := pcOf 0 line, wait := .none }
      { (s.setCtx (.ctx c) x).updFrame c.core c.frm (fun f => { f with trappedBy := some c.kind, semq := f.semq.filter (·.2 != c.kind) }) with last := .trapped }
    else
      { s.kill c.core c.frm ⟨0x04, ctxNo c.kind, BitVec.ofNat 64 line, here⟩ with last := .trapped }

/-- An owed trap entry tried again (R177): it still waits while a tagged producer of the frame is out. -/
def State.retryTrap (s : State) (c : CtxId) : State :=
  match (s.ctxs.get (.ctx c)).bind (·.owed) with
  | some (cause, eaddr, einfo, epc, here) =>
    let s := s.enterTrap c cause eaddr einfo epc here
    if ((s.ctxs.get (.ctx c)).bind (·.owed)).isSome then { s with last := .waited } else s
  | none => s

/-- A handler's fault ends its run (R225): the chain takes the first fault's word. -/
def State.handlerFault (s : State) (n : Nat) (cause : Cause) (eaddr : Word) (bit25 : Bool) : State :=
  match s.runs.get n, s.ctxs.get (.handler n) with
  | some r, some x =>
    let v := x.pc.toNat + r.count * 2 ^ 16 + (if bit25 then 2 ^ 25 else 0)
    let s := match s.chains.get r.trig.chain with
      | some ch =>
        let s := { s with chains := s.chains.set r.trig.chain { ch with word := ch.word.or (some (faultWord cause v)) } }
        -- a lease fault also kills the task (R52, R227)
        if cause = 0x13 then
          match ch.op with
          | some op => match s.ops.get op with
            | some o => (s.finishOp op (faultWord 0x13 0)).kill o.who.core o.who.frm ⟨0x13, ctxNo o.who.kind, eaddr, o.pc⟩
            | none => s
          | none => s
        else s
      | none => s
    { s.setCtx (.handler n) { x with ended := true } with last := .trapped }
  | _, _ => s

/-- A precise fault of the issuing agent (R237, R243, R225), with EPC the pc as it stands: at SV = 1 the frame is killed, and its record
names the instruction at `here` (R42). -/
def State.raiseAt (s : State) (here : Pc) (cause : Cause) (eaddr : Word) (einfo : BitVec 32) : State :=
  match s.cur with
  | .handler n => s.handlerFault n cause eaddr (einfo = 0x2000000 && cause = 0x32)
  | .ctx c =>
    match s.ctxs.get s.cur with
    | none => s
    | some x =>
      if x.sv then { s.kill c.core c.frm ⟨cause, ctxNo c.kind, eaddr, here⟩ with last := .trapped }
      else s.enterTrap c cause eaddr einfo x.pc here

/-- A precise fault at the instruction that the pc names. -/
def State.raise (s : State) (cause : Cause) (eaddr : Word) (einfo : BitVec 32) : State :=
  s.raiseAt (match s.ctxs.get s.cur with | some x => x.pc | none => 0) cause eaddr einfo

/-- Deliver the oldest pending cause (R237, R242): the trap is entered at the next instruction not yet issued. -/
def State.deliverPending (s : State) (c : CtxId) : State :=
  match s.ctxs.get (.ctx c) with
  | none => s
  | some x =>
    match x.pend with
    | [] => s
    | p :: ps => (s.setCtx (.ctx c) { x with pend := ps }).enterTrap c p.cause p.eaddr p.einfo x.pc x.pc

/-- May a pending cause be delivered (R242)? An XSEND that has been sent completes first, and a .REL to unit space that is on its way. -/
def Ctx.deliverable (x : Ctx) : Bool :=
  ! x.pend.isEmpty && x.ie && ! x.sv && (match x.wait with | .sent => false | .unitRel => false | _ => true)

/-- A return from exception (R239): STATUS from ESTATUS, the pc from EPC, and the frame's contexts resumed. -/
def State.trapReturn (s : State) : State :=
  match s.cur with
  | .handler _ => s
  | .ctx c =>
    match s.ctxs.get s.cur with
    | none => s
    | some x =>
      (s.setCtx s.cur { x with status := x.estatus, pc := x.epc.extractLsb' 0 15 }).updFrame c.core c.frm
        fun f => { f with trappedBy := none }

/-! ## The outcome of a meaning's body -/

/-- How a body ends early: a precise trap (`trapIn` keeps the counting of a machine check); a wait at issue, with what has come about
so far; or the kill of the task (R52). -/
inductive Halt where
  | trap (cause : Cause) (eaddr : Word) (einfo : BitVec 32)
  | trapIn (s : State) (cause : Cause) (eaddr : Word) (einfo : BitVec 32)
  | wait (s : State)
  | kill (cause : Cause) (eaddr : Word)

/-- What an instruction leaves: the state, its pd result, a jump, and a trap after it (0x38, 0x3A, 0x3B). -/
structure Eff where
  s : State
  pd : PdEntry := .none
  jump : Option Pc := none
  after : Option (Cause × Word × BitVec 32) := none

abbrev Body := Ctx → State → Except Halt Eff

def trap {α : Type} (cause : Cause) (eaddr : Word) (einfo : BitVec 32) : Except Halt α := .error (.trap cause eaddr einfo)

/-- Continue, or wait at issue in the state given. -/
def orWait {α : Type} (s : State) : Option α → Except Halt α
  | some a => .ok a
  | none => .error (.wait s)

/-- The state with the issuing agent's context updated. -/
def State.me (s : State) (g : Ctx → Ctx) : State := s.updCtx s.cur g

/-- The operation whose chain the running handler belongs to. -/
def State.runOp (s : State) : Option Nat :=
  match s.cur with
  | .handler n => (s.runs.get n).bind fun r => (s.chains.get r.trig.chain).bind (·.op)
  | .ctx _ => none

/-- A handler's device write noted under its chain's operation (R203, R227). -/
def State.noteRun (s : State) (ts : List (Target × Nat)) : State :=
  match s.runOp with
  | some n => s.noteWin n ts
  | none => s

/-- A scalar result in a g, o or k destination; a k result is written as given (R16). A result whose destination is g0 or k0 is still the
instruction's result for pd (DESIGN CHOICE, LOG 99). -/
def scalarResult (s : State) (dst : Operand) (w : Word) : Eff := { s := s.me fun x => x.writeW dst w, pd := .scalar w }
def vectorResult (s : State) (dst : Operand) (v : Vec) : Eff := { s := s.me fun x => x.writeVec dst v, pd := .vector v }

/-! ## Address checks -/

/-- Rights a capability access needs. -/
structure Needs where
  r : Bool := false
  w : Bool := false
  a : Bool := false
  l : Bool := false
  x : Bool := false

def Needs.ok (n : Needs) (c : Cap) : Bool :=
  (! n.r || CapF.r c) && (! n.w || CapF.w c) && (! n.a || CapF.a c) && (! n.l || CapF.l c) && (! n.x || CapF.x c)

/-- The exact offset g + imm of R84. -/
def capOff (g : Word) (imm : Int) : Int := (g.toNat : Int) + imm
/-- EADDR of an offset (R244). -/
def offWord (off : Int) : Word := BitVec.ofInt 64 off

/-- R84's checks in order: the cause, none when all pass. An object that R88 does not give raises 0x10; an alias byte with no place
0x11 (R91; with no usable ALIAS: DESIGN CHOICE, LOG 111). A launch page's object takes only LDG.D and STG.D (`page`) at offsets 0x000 to 0x01F (R228). -/
def State.capCause (s : State) (space : Word) (c : Cap) (off : Int) (n : Nat) (need : Needs) (al : Nat) (page : Bool := false) :
    Option Cause :=
  let sid := spaceSid space
  let onPage := (s.pageAt sid (CapF.obj c)).isSome
  if ! CapF.tag c then some 0x10
  else if ! s.spaceLive space || (s.objEntry sid (CapF.obj c)).isNone then some 0x10
  else if off < CapF.base c ∨ (CapF.limit c : Int) < off + n ∨ (s.objSize sid (CapF.obj c) : Int) < off + n then some 0x11
  else if onPage && decide (0x1F < off) then some 0x11
  else if ! onPage && (granuleStarts off.toNat n).any (fun o => (s.place sid (CapF.obj c) o).isNone) then some 0x11
  else if ! need.ok c then some 0x12
  else if onPage && ! page then some 0x15
  else if off.toNat % al ≠ 0 then some 0x15
  else none

/-- The b index that EINFO[3:0] reports (R244). -/
def bIndex : Operand → BitVec 32 | .b n => n.zeroExtend 32 | _ => 0

/-- R84 made precise at the instruction: the checked offset. -/
def State.capChk (s : State) (x : Ctx) (b : Operand) (off : Int) (n : Nat) (need : Needs) (al : Nat) (page : Bool := false) :
    Except Halt Nat :=
  match s.capCause x.space (srcC x b) off n need al page with
  | some c => trap c (offWord off) (if c = 0x15 then 0 else bIndex b)
  | none => .ok off.toNat

/-- The 0x29 of a write to a derived object (R143). -/
def State.derivedChk (s : State) (x : Ctx) (obj off : Nat) : Except Halt Unit :=
  match s.place (spaceSid x.space) obj off with
  | some p => if (s.objEntry (spaceSid x.space) p.obj).any (·.derived) then trap 0x29 (BitVec.ofNat 64 off) 0 else .ok ()
  | none => .ok ()

/-- The lease check of a direct access: outside it the task is killed (R52). -/
def State.leaseChk (s : State) (sid obj off n : Nat) (w a : Bool) : Except Halt Unit :=
  if s.leased s.curJob sid obj off n w a then .ok () else .error (.kill 0x13 (BitVec.ofNat 64 off))

/-- A capability access of the issuing agent checked whole: R84, derived writes, lease. -/
def State.devChk (s : State) (x : Ctx) (b : Operand) (off : Int) (n : Nat) (need : Needs) (writes : Bool) (page : Bool := false) :
    Except Halt Target := do
  let o ← s.capChk x b off n need (min n 128) page
  if writes then s.derivedChk x (CapF.obj (srcC x b)) o
  s.leaseChk (spaceSid x.space) (CapF.obj (srcC x b)) o n need.w need.a
  .ok (.dev (spaceSid x.space) (CapF.obj (srcC x b)) o)

/-- A local address with its immediate added to OFFSET, as EADDR reports it (R76, R244; DEDUCED, LOG 16). -/
def localEaddr (a : Word) (imm : Int) : Word :=
  let off := (((a.extractLsb' 0 19).toNat : Int) + imm) % (2 ^ 19 : Int)
  BitVec.ofNat 64 ((a.extractLsb' 19 13).toNat * 2 ^ 19 + off.toNat)

/-- R76 and R77: the core, UNIT and OFFSET that an address names, with the frame's home alias applied (R72); else 0x14. -/
def State.localChk (s : State) (a : Word) (imm : Int) : Except Halt (Nat × Bool × Nat) :=
  let off := ((a.extractLsb' 0 19).toNat : Int) + imm
  if off < 0 ∨ 0x7FFFF < off then trap 0x14 (localEaddr a imm) 0 else
  match localTarget s.curCore (a.extractLsb' 0 32) with
  | none => trap 0x14 (localEaddr a imm) 0
  | some (core, u, _) =>
    let core := match s.curFrame with
      | some f => if f.homes.contains core && ! a.getLsbD 31 && ! u && decide (f.block * 4096 ≤ off.toNat) &&
            decide (off.toNat < (f.block + f.blocks) * 4096) then s.curCore else core
      | none => core
    .ok (core, u, off.toNat)

/-- A scratch access within the issuing core's cluster (R79, R80, R82), aligned to `al`: its target. A handler reaches no scratchpad
(R223). -/
def State.scrChk (s : State) (a : Word) (imm : Int) (al : Nat) : Except Halt (Nat × Nat) := do
  if (match s.cur with | .handler _ => true | .ctx _ => false) then trap 0x14 (localEaddr a imm) 0
  let (core, u, off) ← s.localChk a imm
  if u || clusterOf core != clusterOf s.curCore then trap 0x14 (localEaddr a imm) 0
  else if off % al ≠ 0 then trap 0x15 (localEaddr a imm) 0
  else .ok (core, off)

/-! ## Reports of watchpoints (R249, R250) -/

/-- The 0x38 that a direct load or store reports after it (R249). Handlers have no core and no watchpoint. -/
def State.watch38 (s : State) (wk : WatchKind) (ts : List (Target × Nat)) : Option (Cause × Word × BitVec 32) :=
  match s.cur with
  | .handler _ => none
  | .ctx c =>
    (s.watch c.core wk ts).map fun n => (0x38, n.2, BitVec.ofNat 32 (256 * n.1))

/-- A 0x39 sent on its way to a context (R249, R250), with the index of the matching instruction, from which SKID counts. -/
def State.sendWatch (s : State) (c : CtxId) (eaddr : Word) (einfo seq : Nat) : State := s.updCtx (.ctx c) fun x => x.report eaddr einfo seq

/-- A cause as it arrives: a 0x39 takes the instructions issued so far after the matching one as its SKID (R250). -/
def Ctx.arriving (x : Ctx) (q : PendCause × Nat) : PendCause :=
  if q.1.cause = 0x39 then { q.1 with einfo := q.1.einfo + BitVec.ofNat 32 (min (x.issued - (q.2 + 1)) 255) } else q.1

/-! ## Issue checks (R181 to R184) -/

/-- Does the agent's profile include the opcode (R181)? -/
def inProfile (a : Agent) (sv : Bool) (opc : BitVec 10) : Bool :=
  let n := opc.toNat
  let g := n / 64
  match a with
  | .handler _ =>
    g == 0 || (g == 2 && n != 0x082 && n != 0x083 && n != 0x084) || (0x100 ≤ n && n ≤ 0x103) || (0x140 ≤ n && n ≤ 0x142) || n == 0x206
  | .ctx c =>
    c.kind == .computer || g == 0 || g == 1 || g == 2 || g == 6 || g == 7 || g == 8 || g == 0xA || g == 0xB || g == 0xC ||
    (0x100 ≤ n && n ≤ 0x103) || (0x140 ≤ n && n ≤ 0x142) || n == 0x340 || n == 0x34B || n == 0x34C || (g == 0xD && sv)

/-- The feature bits that an opcode with this IMM and MOD needs (R183). -/
def featuresOf (opc : BitVec 10) (imm : BitVec 32) : List Nat :=
  let n := opc.toNat
  let g := n / 64
  let pod : Bool := (imm.extractLsb' 26 3).toNat == 4
  (if g = 6 ∨ n = 0x246 then [0] else []) ++ (if 0x286 ≤ n ∧ n ≤ 0x289 then [1] else []) ++
  (if 0x280 ≤ n ∧ n ≤ 0x285 ∨ n = 0x34E ∨ n = 0x34D then [2] else []) ++
  (if n = 0x240 && (imm.extractLsb' 0 4 == 10 || imm.extractLsb' 0 4 == 11 || imm.extractLsb' 4 4 == 10 || imm.extractLsb' 4 4 == 11) then [3] else []) ++
  (if 0x2C7 ≤ n ∧ n ≤ 0x2C9 then [4] else []) ++ (if n = 0x205 then [5] else []) ++
  (if pod && (g == 4 || g == 5 || n == 0x2C4 || n == 0x2C5) then [8] else []) ++
  (if (n = 0x2C0 ∨ n = 0x2C1 ∨ n = 0x2C2 ∨ n = 0x2C3 ∨ n = 0x246 ∨ n = 0x2C7 ∨ n = 0x343) ∧ (imm.extractLsb' 12 4).toNat = 4 then [8] else []) ++
  (if n = 0x045 ∨ n = 0x046 then [10] else [])

/-- Is a feature bit locked in (R262)? -/
def State.feature (s : State) (n : Nat) : Bool := s.boot.locked && (s.boot.accept[0]).getLsbD n

/-- The supervisor-only opcodes (R182). -/
def supervisorOnly (opc : BitVec 10) : Bool :=
  [0x341, 0x342, 0x345, 0x346, 0x347, 0x348, 0x34A, 0x34D].contains opc.toNat

/-- The registers that a task may read (R240, R357). -/
def taskReadable (n : Nat) : Bool := n == 0 || (0x10 ≤ n && n ≤ 0x14) || n == 0x30

/-- The 0x08 check (R182, R357): its EINFO. -/
def privilegeFault (sv : Bool) (opc : BitVec 10) (imm : BitVec 32) : Option (BitVec 32) :=
  let reg : BitVec 32 := if opc = 0x340 ∨ opc = 0x341 then (imm.extractLsb' 0 12).zeroExtend 32 <<< 10 else 0
  if sv then none
  else if supervisorOnly opc then some (opc.zeroExtend 32 ||| reg)
  else if opc = 0x340 && sysregAssigned (imm.extractLsb' 0 12).toNat && ! taskReadable (imm.extractLsb' 0 12).toNat then some (opc.zeroExtend 32 ||| reg)
  else none

/-- What an entry adds to the common checks: further registers and accumulators that IMM names, a 0x02 that depends on the context,
which payloads it takes as a target (none: any prefix is misuse), its own 0x05, and whether its predicate suppresses it. -/
structure Pre where
  extra : Operand → List Operand := fun _ => []
  regs : List Operand := []
  accs : List Nat := []
  dyn02 : State → Ctx → Bool := fun _ _ => false
  dyn07 : State → Ctx → Option (BitVec 32) := fun _ _ => none
  pfx : Option (Ctx → Bool) := none
  own05 : Bool := false
  gated : Bool := true

/-- The specifier of an operand in EINFO (R244). -/
def specInfo (o : Operand) : BitVec 32 := (o.spec).zeroExtend 32

/-- The checks of ranks 0x01 to 0x05 (R184), in order: the cause and EINFO of the first that fails. -/
def issueFault (s : State) (x : Ctx) (i : Instr) (p : Pre) : Option (Cause × BitVec 32) :=
  match i.shape with
  | none => none
  | some (sh, f) =>
    let pair := s.pairView.isSome
    let op32 : BitVec 32 := sh.opc.zeroExtend 32
    let regs := usedFields i ++ p.regs
    if ! inProfile s.cur x.sv sh.opc then some (0x01, op32)
    else if (featuresOf sh.opc f.imm).any (fun n => ! s.feature n) then some (0x01, op32)
    else match privilegeFault x.sv sh.opc f.imm with
    | some e => some (0x08, e)
    | none =>
      match sh.check f with
      | some .reserved => some (0x02, op32)
      | st =>
        if p.dyn02 s x then some (0x02, op32) else
        match st with
        | some (.operandClass o) => some (0x07, specInfo o)
        | _ =>
          match regs.find? (fun o => ! classOpen s.cur o) with
          | some o => some (0x07, specInfo o)
          | none =>
            match badPd x pair i with
            | some o => some (0x07, specInfo o)
            | none =>
              match p.dyn07 s x with
              | some e => some (0x07, e)
              | none =>
                match regs.find? (fun o => ! inDemand s.cur x o) with
                | some o => some (0x06, specInfo o)
                | none =>
                  if p.accs.any (fun n => decide (x.adem ≤ n)) then some (0x06, (Config.freeValue s.freeTick).extractLsb' 0 32)
                  else if p.own05 then some (0x05, f.imm &&& 0xFFFF)
                  else if x.pp && ! (match p.pfx with | some ok => ok x | none => false) then some (0x05, (x.status.extractLsb' 16 16).zeroExtend 32)
                  else none

/-- Does an instruction wait at issue for a tag, or for a destination that a producer still has to write (R15, R177)? -/
def waitsForTag (x : Ctx) (i : Instr) : Bool :=
  match i.shape with
  | none => false
  | some (sh, f) =>
    let held (t : BitVec 4) : Bool := t != 0 && x.out.any fun o => o.tag == t
    held f.tw0 || held f.tw1 || held f.talloc || (! sh.dst.isEmpty && f.dst != .g 0 && x.out.any fun o => o.dst == f.dst)

/-- A stream as the higher member of a pair sees it: advanced by the lower, but with its old binding (R96, R179, R361, R388). -/
def pairStream (now before : Option Stream) : Option Stream :=
  match now, before with
  | some a, some b => if a.turn = b.turn then now else before
  | _, b => b

/-- The registers an instruction reads, and the tags that stand: at the higher member of a pair, as they stood before the lower (R15,
R179). -/
def State.view (s : State) (x : Ctx) : Ctx :=
  match s.pairView with
  | none => x
  | some y => { x with g := y.g, o := y.o, k := y.k, b := y.b, v := y.v, h := y.h, out := y.out,
                       st := Vector.zipWith pairStream x.st y.st }

/-- A pending 0x39 counts the instructions issued until its delivery in SKID, up to 255 (R250). -/
def PendCause.bump (p : PendCause) : PendCause :=
  if p.cause = 0x39 ∧ p.einfo.extractLsb' 0 8 ≠ 0xFF then { p with einfo := p.einfo + 1 } else p

/-- One more instruction issued (R250). -/
def Ctx.countIssue (x : Ctx) : Ctx := { x with issued := x.issued + 1, pend := x.pend.map PendCause.bump }

/-- An instruction that has taken effect: the pc moves on, pd records its result, and a trap after it is entered (R237). -/
def Eff.retire (e : Eff) (pc : Pc) : State :=
  let next := e.jump.getD (pcNext pc)
  let s := e.s.me fun x => ({ x with pc := next }.pushPd e.pd).countIssue
  let s := match s.cur with
    | .handler n => match s.runs.get n with
      | some r => { s with runs := s.runs.set n { r with count := r.count + 1 } }
      | none => s
    | .ctx _ => s
  let s := { s with last := .retired }
  match e.after with
  | none => s
  | some (c, ea, ei) => s.raiseAt pc c ea ei

/-- The issue of one instruction by the agent `cur` (R184): waits, the predicate, the common checks in rank order, then its body. -/
def issue (i : Instr) (p : Pre) (body : Body) (s : State) : Host.Outcome State Fault Refusal :=
  match s.ctxs.get s.cur, i.shape with
  | some x, some (_, f) =>
    let y := s.view x
    if waitsForTag y i then .next { s with last := .waited }
    else
      let s1 := s.setCtx s.cur (if x.pp then x.consumePrefix else x)
      if p.gated && ! y.executes f then .next (Eff.retire { s := s1 } x.pc)
      else match issueFault s y i p with
      | some (c, e) => .next (s1.raise c 0 e)
      | none =>
        match body y s1 with
        | .ok e => .next (e.retire x.pc)
        | .error (.trap c ea ei) => .next (s1.raise c ea ei)
        | .error (.trapIn s2 c ea ei) => .next (s2.raise c ea ei)
        | .error (.kill c ea) =>
          (match s.cur with
           | .ctx k => .next { s1.kill k.core k.frm ⟨c, ctxNo k.kind, ea, x.pc⟩ with last := .trapped }
           | .handler n => .next (s1.handlerFault n c ea false))
        | .error (.wait s2) =>
          .next { s2.me (fun z => if x.pp then { z with status := x.status } else z) with last := .waited }
  | _, _ => .fault .noIssuer

end Sys2Proof.Machine
end

