-- ==== Sys2Proof/Machine/Stream.lean ====
section
/-! DEFINITION. Reads that an instruction makes at its issue, and the elements of bound streams (spec/05_memory.md R95, R96;
spec/07_joins.md R121, R123; spec/25_ref_n_s.md R388, R389). -/

namespace Sys2Proof.Machine

/-- n bytes read at issue (R193, R247): the instruction waits behind a pending .ACQ, its own earlier accesses there, loads among them, and a
held home; an uncorrectable one raises 0x41 precisely. -/
def State.loadNow (s : State) (y : Ctx) (t : Target) (n : Nat) : Except Halt (State × List Byte) :=
  if y.acqPending then .error (.wait s) else
  match (s.settle s.cur fun e => e.what.ranges.any fun r => s.meets r.1 r.2 t n).bind fun s => s.orderBefore s.cur [(t, n)] false false with
  | none => .error (.wait s)
  | some (s1, ps) =>
    let s1 := s1.send ps
    match s1.touch (agentPort s1.cur) t n true with
    | none => .error (.wait s1)
    | some s2 =>
      if s2.badAt t n then
        let r := s2.unc t n
        .error (.trapIn r.1 0x41 r.2.eaddr r.2.einfo)
      else .ok (s2.updCtx s2.cur fun x => x.rowsRead [(t, n)], s2.readOwn y t n)

/-- A device word read at issue by the issuing context through an object, under its lease (R52). -/
def State.devWordNow (s : State) (y : Ctx) (obj off : Nat) : Except Halt (State × Nat) := do
  s.leaseChk (spaceSid y.space) obj off 4 false false
  let (s, bs) ← s.loadNow y (.dev (spaceSid y.space) obj off) 4
  .ok (s, leNat bs)

/-- A word of a directory or of a relation's row (R119, R121), checked by R84 as it is read, alignment included (DESIGN CHOICE, LOG 121): a capability
that stands in no b register is reported as 0. -/
def State.dirWord (s : State) (y : Ctx) (dir : Cap) (off : Nat) : Except Halt (State × Nat) :=
  match s.capCause y.space dir off 4 { r := true } 4 with
  | some c => trap c (BitVec.ofNat 64 off) 0
  | none => s.devWordNow y (CapF.obj dir) off

/-- What MOV and FWAIT read of a handle (R32): a pending one waits. -/
def readHandle (s : State) (h : Handle) : Except Halt Word :=
  match h.word with
  | some w => .ok w
  | none => .error (.wait s)

/-! ## Descriptors (R95) -/

def descField (d : BitVec 256) (byte n : Nat) : Nat := d.toNat / 2 ^ (8 * byte) % 2 ^ (8 * n)
def strideN (d : BitVec 256) (i : Nat) : Nat := descField d (8 + 2 * i) 2
def strideS (d : BitVec 256) (i : Nat) : Int := sextNat 32 (descField d (16 + 4 * i) 4)

/-- Element p of a strided stream, modulo 2^64, with its flags (R96, R388). -/
def stridedElem (d : BitVec 256) (p : Nat) : Word × BitVec 3 :=
  let n0 := strideN d 0
  let n1 := strideN d 1
  let i0 := p % n0
  let i1 := p / n0 % n1
  let i2 := p / n0 / n1
  let e0 := decide (i0 + 1 = n0)
  let e1 := e0 && decide (i1 + 1 = n1)
  let e2 := e1 && decide (i2 + 1 = strideN d 2)
  (BitVec.ofInt 64 ((descField d 0 8 : Int) + i0 * strideS d 0 + i1 * strideS d 1 + i2 * strideS d 2),
   BitVec.ofNat 3 (e0.toNat + 2 * e1.toNat + 4 * e2.toNat))

/-- Word i of an array at a local address: a scratch word of the context (R388) in its core's cluster (R79), aligned as a load of 4 bytes is (R80). -/
def State.arrayWord (s : State) (y : Ctx) (addr i : Nat) : Except Halt (State × Nat) := do
  let a : Word := BitVec.ofNat 64 addr
  let (core, u, off) ← s.localChk a (4 * i)
  if u || decide (0x7FFFF < off) || clusterOf core != clusterOf s.curCore then trap 0x14 (localEaddr a (4 * i)) 0
  if off % 4 ≠ 0 then trap 0x15 (localEaddr a (4 * i)) 0
  let (s, bs) ← s.loadNow y (.scr core off) 4
  .ok (s, leNat bs)

/-- The length of row r of a CSR stream and its first index: a row whose next pointer is not greater is empty (R388). -/
def State.csrRow (s : State) (y : Ctx) (d : BitVec 256) (r : Nat) : Except Halt (State × Nat × Nat) := do
  let (s, a) ← s.arrayWord y (descField d 16 4) r
  let (s, b) ← s.arrayWord y (descField d 16 4) (r + 1)
  .ok (s, a, b - a)

/-- The column index of element `rem` among `fuel` rows from r, with a mark on the last element of its row and the row after it. -/
def State.csrFind (y : Ctx) (d : BitVec 256) : Nat → State → Nat → Nat → Except Halt (State × Option (Nat × Bool × Nat × Nat))
  | 0, s, _, _ => .ok (s, none)
  | fuel + 1, s, r, rem => do
    let (s, a, n) ← s.csrRow y d r
    if rem < n then .ok (s, some (a + rem, decide (rem + 1 = n), fuel, r + 1))
    else State.csrFind y d fuel s (r + 1) (rem - n)

/-- Are the rows from r on all empty? -/
def State.csrEmpty (y : Ctx) (d : BitVec 256) : Nat → State → Nat → Except Halt (State × Bool)
  | 0, s, _ => .ok (s, true)
  | fuel + 1, s, r => do
    let (s, _, n) ← s.csrRow y d r
    if n = 0 then State.csrEmpty y d fuel s (r + 1) else .ok (s, false)

/-- Is an element at a row's end the stream's last? The element is determined without the words that say so, so one of them that cannot be read
faults nothing, and E2 is then a free value (R388; DESIGN CHOICE, LOG 11). -/
def State.csrLast (y : Ctx) (d : BitVec 256) (fuel : Nat) (s : State) (r : Nat) : Except Halt (State × Bool) :=
  match State.csrEmpty y d fuel s r with
  | .ok q => .ok q
  | .error (.wait s') => .error (.wait s')
  | .error _ => .ok (s, (Config.freeValue (s.freeTick * 2 ^ 48 + 2 ^ 41 + r)).getLsbD 0)

/-- The elements of the rows from r on. -/
def State.csrTotal (y : Ctx) (d : BitVec 256) : Nat → State → Nat → Nat → Except Halt (State × Nat)
  | 0, s, _, acc => .ok (s, acc)
  | fuel + 1, s, r, acc => do
    let (s, _, n) ← s.csrRow y d r
    State.csrTotal y d fuel s (r + 1) (acc + n)

/-! ## Elements -/

def csrRow0 (d : BitVec 256) : Nat := descField d 8 2
def csrRows (d : BitVec 256) : Nat := descField d 10 2

/-- Element p of a stream, none past the end; with `want` false only its flags are located, and no COL word, directory key or relation
row is read (R389). -/
def State.streamAt (s : State) (y : Ctx) (st : Stream) (p : Nat) (want : Bool) : Except Halt (State × Option (Word × BitVec 3)) :=
  let last : BitVec 3 := if p + 1 = st.count then 7 else 0
  match st.src with
  | .strided d => .ok (s, if p < st.count then some (stridedElem d p) else none)
  | .csr d => do
    let (s, r) ← State.csrFind y d (csrRows d) s (csrRow0 d) p
    match r with
    | none => .ok (s, none)
    | some (i, lastInRow, fuel, next) =>
      let (s, end_) ← if lastInRow then State.csrLast y d fuel s next else .ok (s, false)
      let fl : BitVec 3 := if lastInRow then (if end_ then 7 else 3) else 0
      if want then
        let (s, c) ← s.arrayWord y (descField d 20 4) i
        .ok (s, some (BitVec.ofNat 64 (descField d 0 8 + c * descField d 24 4), fl))
      else .ok (s, some (0, fl))
  | .rows base first rowsz => .ok (s, if p < st.count then some (BitVec.ofNat 64 (base + (first + p) * rowsz), last) else none)
  | .keys cap lo =>
    if st.count ≤ p then .ok (s, none) else
    if want then do
      let (s, w) ← s.dirWord y cap (CapF.base cap + 16 + 4 * (lo + p))
      .ok (s, some (BitVec.ofNat 64 w, last))
    else .ok (s, some (0, last))
  | .second cap first rowsz k2col =>
    if st.count ≤ p then .ok (s, none) else
    if want then do
      let (s, w) ← s.dirWord y cap (CapF.base cap + (first + p) * rowsz + k2col)
      .ok (s, some (BitVec.ofNat 64 w, last))
    else .ok (s, some (0, last))

/-- The element count of a stream's bound range. -/
def State.streamCount (s : State) (y : Ctx) (st : Stream) : Except Halt (State × Nat) :=
  match st.src with
  | .csr d => State.csrTotal y d (csrRows d) s (csrRow0 d) 0
  | _ => .ok (s, st.count)

/-- A bound on the elements that a stream has left: a CSR row has no more than scratch has words. -/
def Stream.room (st : Stream) : Nat :=
  match st.src with
  | .csr d => csrRows d * 2 ^ 17
  | _ => st.count - st.pos

/-- Word i of an array as it stands, none where it cannot be read. -/
def State.arrayPeek (s : State) (y : Ctx) (addr i : Nat) : Option Nat :=
  match s.localChk (BitVec.ofNat 64 addr) (4 * i) with
  | .ok (core, u, off) =>
    if u || off % 4 != 0 || clusterOf core != clusterOf s.curCore || s.badAt (.scr core off) 4 then none
    else some (leNat (s.readOwn y (.scr core off) 4))
  | .error _ => none

/-- The element count that KCNT gives (R122). A CSR stream's it takes from the pointers as they stand, without a wait (R366); one that cannot be read
leaves a free value (DEDUCED, LOG 122). -/
def State.countNow (s : State) (y : Ctx) (st : Stream) : Nat :=
  match st.src with
  | .csr d =>
    let row (r : Nat) : Option Nat := do
      let a ← s.arrayPeek y (descField d 16 4) r
      let b ← s.arrayPeek y (descField d 16 4) (r + 1)
      some (b - a)
    let sum := ((List.range (csrRows d)).map fun i => row (csrRow0 d + i)).foldl (fun (o : Option Nat) r => do some ((← o) + (← r))) (some 0)
    sum.getD (Config.freeValue (s.freeTick * 2 ^ 48 + 2 ^ 41)).toNat
  | _ => st.count

/-- Store a stream back, unless its register was bound anew by the pair partner (R388). -/
def State.putStream (s : State) (n : BitVec 3) (old new : Stream) : State :=
  s.me fun x => match x.readS n with
    | some now => if now.turn = old.turn then x.writeS n (some new) else x
    | none => x

/-- A stream register bound anew (R361). -/
def Ctx.bindStream (x : Ctx) (n : BitVec 3) (st : Stream) : Ctx :=
  x.writeS n (some { st with turn := match x.readS n with | some old => ! old.turn | none => false })

/-- The next element (R96), none at the end: fetched ahead, or fetched now. -/
def State.streamPeek (s : State) (y : Ctx) (st : Stream) : Except Halt (State × Option (Word × BitVec 3)) :=
  match st.ahead with
  | e :: _ => .ok (s, some e)
  | [] => s.streamAt y st st.pos true

/-- A stream advanced by one element that left these flags. -/
def Stream.advance (st : Stream) (fl : BitVec 3) : Stream := { st with pos := st.pos + 1, flags := fl, ahead := st.ahead.drop 1 }
/-- A stream at its end: every flag set (R96). -/
def Stream.atEnd (st : Stream) : Stream := { st with flags := 7, ahead := [] }

/-- One read of a stream (R96): the element, or all ones at the end. -/
def State.streamRead (s : State) (y : Ctx) (st : Stream) : Except Halt (State × Word × Stream) := do
  let (s, e) ← s.streamPeek y st
  match e with
  | some (w, fl) => .ok (s, w, st.advance fl)
  | none => .ok (s, 0xFFFFFFFFFFFFFFFF, st.atEnd)

/-- A stream moved to position q, with the flags of element q - 1 (R389). -/
def State.streamMove (s : State) (y : Ctx) (st : Stream) (q : Nat) : Except Halt (State × Stream) := do
  if q = 0 then .ok (s, { st with pos := 0, flags := 0, ahead := [] })
  else
    let (s, e) ← s.streamAt y st (q - 1) false
    match e with
    | some (_, fl) => .ok (s, { st with pos := q, flags := fl, ahead := [] })
    | none =>
      let (s, n) ← s.streamCount y st
      .ok (s, { st with pos := n, flags := (if n = 0 then 0 else 7), ahead := [] })

/-- What a stream instruction has come to where it waits, kept (R366). -/
def keepAt {α : Type} (put : State → State) : Except Halt α → Except Halt α
  | .error (.wait s) => .error (.wait (put s))
  | r => r

/-- Reads past every element below v (R123), with fuel for the elements left; `keep` holds the position reached where it waits (R366). -/
def State.streamSeek (y : Ctx) (keep : State → Stream → State) (v : Nat) : Nat → State → Stream → Except Halt (State × Stream)
  | 0, s, st => .ok (s, st)
  | fuel + 1, s, st => do
    let (s, e) ← keepAt (fun s => keep s st) (s.streamPeek y st)
    match e with
    | some (w, fl) => if w.toNat < v then State.streamSeek y keep v fuel s (st.advance fl) else .ok (s, st)
    | none => .ok (s, st)

/-- The 0x07 of an instruction that names an unbound stream (R28). -/
def unbound (o : Operand) (x : Ctx) : Option (BitVec 32) :=
  match o with
  | .s n => if (x.readS n).isNone then some (specInfo o) else none
  | _ => none

/-- The stream that a source names. -/
def srcS (x : Ctx) (o : Operand) : Option Stream := match o with | .s n => x.readS n | _ => none
/-- The number of an s register. -/
def sIndex (o : Operand) : BitVec 3 := match o with | .s n => n | _ => 0

end Sys2Proof.Machine
end

