-- ==== Sys2Proof/Machine/Access.lean ====
section
/-! DEFINITION. Loads and stores: group 0x4, and LDC and STC of group 0x1 (spec/05_memory.md R79 to R86, spec/11_ordering.md R193,
spec/13_near_memory.md R223, R224, R228, spec/24_ref_g_m.md R368, R369, spec/25_ref_n_s.md R398 to R400, spec/26_ref_v_y.md R408,
R409). -/

namespace Sys2Proof.Machine

/-! ## Where an access goes -/

/-- Where a scalar local access goes: a scratch byte, a unit-space word (R81), or a byte of a handler's work area (R223). -/
inductive LocalRef where
  | scr (core off : Nat)
  | unit (u : UnitWord)
  | work (off : Nat)
  deriving DecidableEq, Repr

/-- The unit-space word at a multiple of 8 (R81, R57); none where the table lists nothing. -/
def unitWordAt (core off : Nat) : Option UnitWord :=
  let cl := clusterOf core
  if off < 0x100 then some (.barrier cl (off / 8))
  else if off < 0x200 then some (.mutex cl ((off - 0x100) / 8))
  else if off < 0x400 then some (.event cl ((off - 0x200) / 8))
  else if off < 0x440 then
    some (match (off - 0x400) / 8 with
      | 0 => .dctl cl | 2 => .spill cl | 4 => .occ0 cl | 5 => .occ1 cl | 6 => .age cl | _ => .reserved cl)
  else if 0x800 ≤ off ∧ off < 0x900 then some (.config cl ((off - 0x800) / 8))
  else if 0x1000 ≤ off ∧ off < 0x1100 then some (.cb core ((off - 0x1000) / 64) ((off - 0x1000) % 64 / 8))
  else if 0x1100 ≤ off ∧ off < 0x1200 then some (.sem core ((off - 0x1100) / 64) ((off - 0x1100) % 64 / 8))
  else none

/-- The checks of a scalar local access of n bytes (R76, R79, R80, R82; in a handler R223). -/
def State.localRef (s : State) (a : Word) (imm : Int) (n : Nat) : Except Halt LocalRef :=
  match s.cur with
  | .handler _ =>
    let off := ((a.extractLsb' 0 19).toNat : Int) + imm
    if a.extractLsb' 19 13 ≠ 0 ∨ off < 0 ∨ 0x7FF < off then trap 0x14 (localEaddr a imm) 0
    else if off.toNat % n ≠ 0 then trap 0x15 (localEaddr a imm) 0
    else .ok (.work off.toNat)
  | .ctx _ => do
    let (core, u, off) ← s.localChk a imm
    if clusterOf core != clusterOf s.curCore then trap 0x14 (localEaddr a imm) 0
    else if u then
      match unitWordAt core (off / 8 * 8) with
      | none => trap 0x14 (localEaddr a imm) 0
      | some w => if n ≠ 8 ∨ off % 8 ≠ 0 then trap 0x15 (localEaddr a imm) 0 else .ok (.unit w)
    else if off % n ≠ 0 then trap 0x15 (localEaddr a imm) 0
    else .ok (.scr core off)

/-! ## Loads -/

/-- A tagged producer is on its way (R176), translated as its core's port has the objects (R92). -/
def State.track (s : State) (f : Fld) (y : Ctx) (acq : Bool) (p : Pending) (ea : Word) : State :=
  (s.cacheFor p.ranges).me fun x => { x with out := x.out ++ [⟨f.talloc, f.dst, acq, p, ea, y.pc, x.issued, s.translate p.ranges⟩] }

/-- A load of a context issued to ranges at known addresses: its own earlier work there first (R109, R193), then on its way; a
watchpoint reports after it (R249). -/
def State.sendLoad (s : State) (f : Fld) (y : Ctx) (p : Pending) (ea : Word) (ts : List (Target × Nat)) : Except Halt Eff :=
  let page := ts.any fun t => (s.targetPage t.1).isSome
  match s.orderBefore s.cur ts false page with
  | none => .error (.wait s)
  | some (s, ps) =>
    let s := match p with | .cap _ => s.dropEarly s.cur ts | _ => s
    .ok { s := (s.track f y (f.ord == 1) p ea).send ps, after := s.watch38 .ld ts }

/-- The issuing context as it stands at a line load, to which a pre-emption takes it back (R209). -/
def State.keepBack (s : State) : State :=
  match s.cur, s.ctxs.get s.cur with
  | .ctx c, some x => { s with lineBack := s.lineBack.set c x }
  | _, _ => s

/-- A handler's device read of n bytes, performed at once (R224); a launch page answers with its register. -/
def State.handlerRead (s : State) (y : Ctx) (t : Target) (n : Nat) : Except Halt (State × List Byte) :=
  match s.targetPage t with
  | some p => .ok (s, match s.pages.get p with | some g => bytesOf 8 (g.read t.off).toNat | none => [])
  | none => s.loadNow y t n

/-- A scalar device load through a capability (R368). -/
def loadDevice (f : Fld) (b : Operand) (off : Int) (n : Nat) : Body := fun y s => do
  let t ← s.devChk y b off n { r := true } false (n == 8)
  match s.cur with
  | .handler _ =>
    let (s, bs) ← s.handlerRead y t n
    .ok { s := s.me fun x => x.writeW f.dst (leWord bs) }
  | .ctx _ => s.sendLoad f y (.load t n) (offWord off) [(t, n)]

/-- LD (R368). -/
def execLd (f : Fld) (s : State) : Host.Outcome State Fault Refusal :=
  issue (.ld f) {} (fun y s => do
    let a := srcW y f s.pairView.isSome f.sa
    let imm := f.off24.toInt
    let n := f.width / 8
    match ← s.localRef a imm n with
    | .work off =>
      match s.cur with
      | .handler k =>
        let w : Word := match s.runs.get k with
          | some r => BitVec.ofNat 64 (r.work.toNat / 256 ^ off % 256 ^ n)
          | none => 0
        .ok { s := s.me fun x => x.writeW f.dst w }
      | .ctx _ => .ok { s := s }
    | .unit u => if y.acqPending then .error (.wait s) else
      .ok { s := (if u.isLine then s.keepBack else s).track f y (f.ord == 1) (.unit u) (localEaddr a imm) }
    | .scr core off => s.sendLoad f y (.load (.scr core off) n) (localEaddr a imm) [(.scr core off, n)]) s

/-- LDG (R368). -/
def execLdg (f : Fld) (s : State) : Host.Outcome State Fault Refusal :=
  issue (.ldg f) {} (fun y s =>
    loadDevice f f.sa (capOff (srcW y f s.pairView.isSome f.sb) f.off24.toInt) (f.width / 8) y s) s

/-- LDC (R369). -/
def execLdc (f : Fld) (s : State) : Host.Outcome State Fault Refusal :=
  issue (.ldc f) {} (fun y s => do
    let off := capOff (srcW y f s.pairView.isSome f.sb) f.off24.toInt
    let t ← s.devChk y f.sa off 16 { r := true, l := true } false
    s.sendLoad { f with imm := 0 } y (.cap t) (offWord off) [(t, 16)]) s

/-- A group 4 vector instruction is masked by lane, never gated as a whole (R175). -/
def laneAccess : Pre := { gated := false }

/-- The mask over 32 lanes of 4 bytes (R175, R409). -/
def Ctx.mask32 (y : Ctx) (f : Fld) : BitVec 32 := (y.mask f).extractLsb' 0 32

/-- VLD (R409). -/
def execVld (f : Fld) (s : State) : Host.Outcome State Fault Refusal :=
  issue (.vld f) laneAccess (fun y s => do
    let a := srcW y f s.pairView.isSome f.sa
    let (core, off) ← s.scrChk a f.off24.toInt 128
    s.sendLoad f y (.vload (.scr core off) (y.mask32 f)) (localEaddr a f.off24.toInt) (laneRanges (.scr core off) (y.mask32 f))) s

/-- VLDG (R409). -/
def execVldg (f : Fld) (s : State) : Host.Outcome State Fault Refusal :=
  issue (.vldg f) laneAccess (fun y s => do
    let off := capOff (srcW y f s.pairView.isSome f.sb) f.off24.toInt
    let t ← s.devChk y f.sa off 128 { r := true } false
    s.sendLoad f y (.vload t (y.mask32 f)) (offWord off) (laneRanges t (y.mask32 f))) s

/-- The addresses of VGATH and VSCAT (R408): lane i of the taken lanes, in order; the lowest failing lane's fault. -/
def State.laneTargets (s : State) (ga : Word) (vi : Vec) (m : BitVec 32) : Except Halt (List (Option Target)) :=
  (List.range 32).mapM fun i =>
    if m.getLsbD i then
      let a : BitVec 32 := ga.extractLsb' 0 32 + lane32 vi i * 4
      match s.scrChk (a.zeroExtend 64) 0 4 with
      | .ok (core, off) => .ok (some (.scr core off))
      | .error h => .error h
    else .ok none

/-- VGATH (R408). -/
def execVgath (f : Fld) (s : State) : Host.Outcome State Fault Refusal :=
  issue (.vgath f) laneAccess (fun y s => do
    let ga := srcW y f s.pairView.isSome f.sa
    let ts ← s.laneTargets ga (srcV y f s.pairView.isSome 32 f.sb) (y.mask32 f)
    s.sendLoad f y (.gather ts) (ga &&& 0xFFFFFFFF) (ts.filterMap fun t => t.map fun t => (t, 4))) s

/-! ## Stores -/

/-- A store of a handler, performed at once with a marking step of its own (R224, R140; DESIGN CHOICE, LOG 120); a bad unit written in part ends
the run (R247). -/
def State.storeNow (s : State) (h : HeldStore) : Except Halt State :=
  if s.markHeld (devRanges h.ranges) then .error (.wait s) else
  match (s.markStep (devRanges h.ranges)).performStore s.cur h with
  | none => .error (.wait s)
  | some (s, []) => .ok (s.noteRun h.ranges)
  | some (s, p :: _) => .error (.trapIn s p.cause p.eaddr p.einfo)

/-- The scope code of a .REL access; none for a plain one (R30, R194). -/
def Fld.rel (f : Fld) : Option Nat := if f.ord = 2 then some f.scope.toNat else none

/-- A .REL store performed, everything earlier published with it (R193, R194). None: it waits. -/
def State.storeRel (s : State) (y : Ctx) (scope : Nat) (h : HeldStore) : Option (State × Sent) :=
  if y.unitLoads then none else
  match (s.warmAll h.ranges).bind fun s => s.publishAt s.cur scope h.ranges with
  | none => none
  | some (s, ps) =>
    match h.parts with
    | [(t, bs)] =>
      (match s.targetPage t with
       | some n => some (s.pageWrite n t.off (leWord bs) true, ps)
       | none => finish s ps)
    | _ => finish s ps
where
  finish (s : State) (ps : Sent) : Option (State × Sent) :=
    (s.performStore s.cur h).map fun r =>
      let dev := h.ranges.filter fun p => match p.1 with | .dev .. => true | .scr .. => false
      let s := (r.1.dropEarly s.cur h.ranges).me fun x => { x with win := x.win ++ dev }
      (s, ps ++ match s.cur with | .ctx c => r.2.map fun p => (c, p) | .handler _ => [])

/-- A store of a context (R193, R194, R399): held, or with .REL performed and published after everything earlier. -/
def State.sendStore (s : State) (y : Ctx) (rel : Option Nat) (h : HeldStore) : Except Halt Eff :=
  match s.cur with
  | .handler _ => (s.storeNow h).map fun s => { s := s }
  | .ctx _ =>
    if y.acqPending then .error (.wait s)
    else match rel with
    | some scope =>
      (match s.storeRel y scope h with
       | none => .error (.wait s)
       | some (s', ps) => .ok { s := s'.send ps, after := s.watch38 .st h.ranges })
    | none =>
      match s.orderBefore s.cur h.ranges true false with
      | none => .error (.wait s)
      | some (s, ps) =>
        let h := { h with pc := y.pc, trans := s.translate h.ranges }
        .ok { s := ((s.cacheFor h.ranges).me fun x => { x with held := x.held ++ [h] }).send ps, after := s.watch38 .st h.ranges }

/-- Is the word part of the dispatcher block, which only the supervisor stores to (R57)? -/
def UnitWord.dispatcher : UnitWord → Bool
  | .dctl _ => true | .spill _ => true | .occ0 _ => true | .occ1 _ => true | .age _ => true | .reserved _ => true | _ => false

/-- Is a store to the word ignored (R82)? -/
def UnitWord.readOnly : UnitWord → Bool
  | .occ0 _ => true | .occ1 _ => true | .age _ => true | .reserved _ => true | .cb .. => true | .sem .. => true | _ => false

/-- A value that the word ignores: other than 0 and 1 at an event line (R208). -/
def UnitWord.ignores : UnitWord → Word → Bool
  | .event .., v => v != 0 && v != 1
  | _, _ => false

/-- The bytes that eight spill rings hold (R57). -/
def ringBytes (rsz : Nat) : Nat := 8 * 2 ^ rsz * 32

/-- Does a store to DCTL or SPILL hold a value that raises 0x02 (R57)? -/
def State.unitReserved (s : State) (u : UnitWord) (v : Word) : Bool :=
  match u with
  | .dctl _ => let r := (v.extractLsb' 16 5).toNat; decide (r < 8) || decide (20 < r)
  | .spill cl => v.getLsbD 63 && decide (2 ^ 39 < (v.extractLsb' 12 28).toNat * 4096 + ringBytes (s.clusterAt cl).rsz)
  | _ => false

/-- A store or signal to unit space on its way to its unit (R82, R205, R347). With .REL it is a publication point that its own performance
completes (R194): the context waits at it. EVSIG's wait is DEDUCED (LOG 101). None: it waits for what comes before it. -/
def State.sendUnitRel (s : State) (c : CtxId) (y : Ctx) (scope : Nat) (u : UnitWord) (v : Word) : Except Halt Eff :=
  match y.wait with
  | .unitRel =>
    if s.unitq.any fun q => q.1 == c then .error (.wait s) else .ok { s := s.me fun x => { x with wait := .none } }
  | _ =>
    if y.unitLoads then .error (.wait s) else
    match s.publishAt s.cur scope with
    | none => .error (.wait s)
    | some (s, ps) => .error (.wait (({ s with unitq := s.unitq ++ [(c, u, v)] }.me fun x => { x with wait := .unitRel }).send ps))

/-- A store to unit space (R82, R205): never held, on its way to its unit in order. One that the word ignores is not sent. -/
def State.sendUnit (s : State) (f : Fld) (y : Ctx) (u : UnitWord) (v : Word) (opc : BitVec 32) : Except Halt Eff :=
  if u.dispatcher && ! y.sv then trap 0x08 0 opc
  else if s.unitReserved u v then trap 0x02 0 opc
  else if y.acqPending then .error (.wait s)
  else
    match s.cur with
    | .handler _ => .ok { s := s }
    | .ctx c =>
      let ignored := u.readOnly || u.ignores v
      match Fld.rel f with
      | some scope =>
        if ignored then
          (match (if y.unitLoads then none else s.publishAt s.cur scope) with
           | none => .error (.wait s)
           | some (s, ps) => .ok { s := s.send ps })
        else s.sendUnitRel c y scope u v
      | none => .ok { s := if ignored then s else { s with unitq := s.unitq ++ [(c, u, v)] } }

/-- ST (R399). -/
def execSt (f : Fld) (s : State) : Host.Outcome State Fault Refusal :=
  issue (.st f) {} (fun y s => do
    let pair := s.pairView.isSome
    let a := srcW y f pair f.sa
    let v := srcW y f pair f.sb
    let n := f.width / 8
    match ← s.localRef a f.off24.toInt n with
    | .work off =>
      match s.cur with
      | .handler k =>
        .ok { s := match s.runs.get k with
          | some r =>
            let old := r.work.toNat
            let w := old - old / 256 ^ off % 256 ^ n * 256 ^ off + v.toNat % 256 ^ n * 256 ^ off
            { s with runs := s.runs.set k { r with work := BitVec.ofNat 16384 w } }
          | none => s }
      | .ctx _ => .ok { s := s }
    | .unit u => s.sendUnit f y u v 0x101
    | .scr core off => s.sendStore y (Fld.rel f) { parts := [(.scr core off, bytesOf n v.toNat)], cap := false }) s

/-- STG (R399). -/
def execStg (f : Fld) (s : State) : Host.Outcome State Fault Refusal :=
  issue (.stg f) {} (fun y s => do
    let pair := s.pairView.isSome
    let n := f.width / 8
    let t ← s.devChk y f.sa (capOff (srcW y f pair f.sb) f.off24.toInt) n { w := true } true (n == 8)
    s.sendStore y (Fld.rel f) { parts := [(t, bytesOf n (srcW y f pair f.sc).toNat)], cap := false }) s

/-- STC (R400): G is asked of a tagged value only. -/
def execStc (f : Fld) (s : State) : Host.Outcome State Fault Refusal :=
  issue (.stc f) {} (fun y s => do
    let off := capOff (srcW y f s.pairView.isSome f.sb) f.off24.toInt
    let v := srcC y f.sc
    match s.capCause y.space (srcC y f.sa) off 16 {} 1 with
    | some c => trap c (offWord off) (bIndex f.sa)
    | none =>
      if ! Needs.ok { w := true, l := true } (srcC y f.sa) then trap 0x12 (offWord off) (bIndex f.sa)
      else if CapF.tag v && ! CapF.g v then trap 0x12 (offWord off) (bIndex f.sc)
      else
        let t ← s.devChk y f.sa off 16 { w := true, l := true } true
        s.sendStore y none { parts := [(t, bytesOf 16 v.toNat)], cap := CapF.tag v }) s

/-- The bytes of the taken lanes, by aligned 8-byte units (R409). -/
def vecParts (t : Target) (m : BitVec 32) (v : Vec) : List (Target × List Byte) :=
  (List.range 16).flatMap fun j =>
    let b (i n : Nat) : List Byte := bytesOf n (v.toNat / 2 ^ (32 * i))
    match m.getLsbD (2 * j), m.getLsbD (2 * j + 1) with
    | true, true => [(t.plus (8 * j), b (2 * j) 8)]
    | true, false => [(t.plus (8 * j), b (2 * j) 4)]
    | false, true => [(t.plus (8 * j + 4), b (2 * j + 1) 4)]
    | false, false => []

/-- VST (R409). -/
def execVst (f : Fld) (s : State) : Host.Outcome State Fault Refusal :=
  issue (.vst f) laneAccess (fun y s => do
    let pair := s.pairView.isSome
    let (core, off) ← s.scrChk (srcW y f pair f.sa) f.off24.toInt 128
    s.sendStore y (Fld.rel f) { parts := vecParts (.scr core off) (y.mask32 f) (srcV y f pair 32 f.sb), cap := false }) s

/-- VSTG (R409). -/
def execVstg (f : Fld) (s : State) : Host.Outcome State Fault Refusal :=
  issue (.vstg f) laneAccess (fun y s => do
    let pair := s.pairView.isSome
    let t ← s.devChk y f.sa (capOff (srcW y f pair f.sb) f.off24.toInt) 128 { w := true } true
    s.sendStore y (Fld.rel f) { parts := vecParts t (y.mask32 f) (srcV y f pair 32 f.sc), cap := false }) s

/-- VSCAT (R408): the lanes in increasing order. -/
def execVscat (f : Fld) (s : State) : Host.Outcome State Fault Refusal :=
  issue (.vscat f) laneAccess (fun y s => do
    let pair := s.pairView.isSome
    let ts ← s.laneTargets (srcW y f pair f.sa) (srcV y f pair 32 f.sb) (y.mask32 f)
    let v := srcV y f pair 32 f.sc
    let parts := ((List.range 32).zip ts).filterMap fun p => p.2.map fun t => (t, bytesOf 4 (lane32 v p.1).toNat)
    s.sendStore y (Fld.rel f) { parts := parts, cap := false, inOrder := true }) s

end Sys2Proof.Machine
end

