-- ==== Sys2Proof/Machine/Atomic.lean ====
section
/-! DEFINITION. Group 0x5: ATOM, ARED, ACAS and VARED (spec/11_ordering.md R201, spec/12_sync.md R217, spec/22_ref_a_b.md R308, R309,
R311, R312, spec/26_ref_v_y.md R404). -/

namespace Sys2Proof.Machine

/-- One atomic: its target, operation (16 is ACAS), size, operand and comparand. -/
structure AtomSpec where
  t : Target
  op : Nat
  bytes : Nat
  x : Word
  y : Word

/-- The request of an atomic. -/
def AtomSpec.request (a : AtomSpec) (who : Agent) (space : Word) (ord : BitVec 2) (wants : Bool) (wp : Option (Nat × Word)) (group : Nat)
    (source : Nat := 0) (rid : BitVec 16 := 0) (seq : Nat := 0) (pc : Pc := 0) (trans : Trans := {}) : AtomReq :=
  { who := who, space := space, t := a.t, op := a.op, bytes := a.bytes, x := a.x, y := a.y, ord := ord, wants := wants, link := none,
    merged := [], source := source, rid := rid, seq := seq, pc := pc, trans := trans, led := false, reply := none, applied := false, wp := wp, group := group, quiet := false, kacc := none }

/-- The address checks of R308: device form by a b register, else local form. -/
def State.atomTarget (s : State) (y : Ctx) (f : Fld) (off : Int) (n : Nat) (need : Needs) : Except Halt Target :=
  if f.sa.isB then s.devChk y f.sa (capOff (srcW y f s.pairView.isSome f.sb) off) n need true
  else do
    let (core, o) ← s.scrChk (srcW y f s.pairView.isSome f.sa) off n
    .ok (.scr core o)

/-- A handler's atomic, performed at once (R224): its old value. -/
def State.atomNow (s : State) (y : Ctx) (a : AtomSpec) : Except Halt (State × Word) :=
  match s.applyGroup (a.request s.cur y.space 0 false none 0) [a.x] with
  | none => .error (.wait s)
  | some (s, some (w :: _), _) => .ok (s.noteRun [(a.t, a.bytes)], w)
  | some (s, some [], _) => .ok (s, 0)
  | some (s, none, p) => .error (.trapIn s p.cause p.eaddr p.einfo)

/-- The next request id of a source (R202). -/
def State.nextRid (s : State) (source : Nat) : BitVec 16 × State :=
  let n := (s.atomIds.get source).getD 0
  (BitVec.ofNat 16 n, { s with atomIds := s.atomIds.set source (n + 1) })

/-- May a core send further requests: none of its homes then has more than 64 of them outstanding (R202)? -/
def State.atomRoom (s : State) (ts : List Target) : Bool :=
  ts.all fun t =>
    let h := s.homeOf t
    let mine := s.atoms.filter fun p => p.2.source == s.curCore && s.homeOf p.2.t == h
    decide (mine.length + (ts.filter fun u => s.homeOf u == h).length ≤ 64)

/-- A request of the issuing context on its way; with `wants` its context awaits the reply. -/
def State.postAtom (s : State) (y : Ctx) (a : AtomSpec) (ord : BitVec 2) (wants : Bool) (group : Nat) : Nat × State :=
  let wp := match s.cur with
    | .ctx c => s.watch c.core .atm [(a.t, a.bytes)]
    | .handler _ => none
  let (rid, s) := s.nextRid s.curCore
  let seq := match s.ctxs.get s.cur with | some x => x.issued | none => 0
  let ts := [(a.t, a.bytes)]
  (s.nextId, { s.cacheFor ts with
    nextId := s.nextId + 1,
    atoms := s.atoms.set s.nextId (a.request s.cur y.space ord wants wp group s.curCore rid seq y.pc (s.translate ts)) })

/-- Atomics of a context issued together (R193, R194, R308): with .REL after everything earlier is published, and performed before it
completes; otherwise on their way. A destination, or .ACQ, is awaited. -/
def State.sendAtoms (s : State) (f : Fld) (y : Ctx) (as : List AtomSpec) (awaited : Bool) (ea : Word) : Except Halt Eff :=
  if y.acqPending || ! s.atomRoom (as.map (·.t)) then .error (.wait s) else
  let pre := if f.ord = 2 then
      (if y.unitLoads then none else (s.publishAt s.cur f.scope.toNat).map fun r => (r.1.dropEarly s.cur (as.map fun a => (a.t, a.bytes)), r.2))
    else s.orderBefore s.cur (as.map fun a => (a.t, a.bytes)) true true
  match pre with
  | none => .error (.wait s)
  | some (s1, ps) =>
    let group := if 1 < as.length then s1.nextId else 0
    let s2 := as.foldl (fun s a =>
      let (n, s) := s.postAtom y a f.ord (awaited || f.ord == 1) group
      if awaited || f.ord == 1 then
        s.me fun x => { x with out := x.out ++ [⟨f.talloc, (if awaited then f.dst else .g 0), f.ord == 1, .atomic n a.bytes, ea, y.pc, x.issued, {}⟩] }
      else s) s1
    if f.ord = 2 then
      match s2.applyAtoms s.cur fun _ => true with
      | none => .error (.wait (s1.send ps))
      | some (s3, qs) => .ok { s := s3.send (ps ++ qs) }
    else .ok { s := s2.send ps }

/-- An atomic of either kind of agent. -/
def atomBody (f : Fld) (off : Int) (op : Nat) (need : Needs) (x y' : Word) (returns : Bool) : Body := fun y s => do
  let n := f.width / 8
  let t ← s.atomTarget y f off n need
  let a : AtomSpec := { t := t, op := op, bytes := n, x := x, y := y' }
  match s.cur with
  | .handler _ =>
    let (s, w) ← s.atomNow y a
    .ok { s := if returns then s.me fun z => z.writeW f.dst w else s }
  | .ctx _ => s.sendAtoms f y [a] (returns && f.dst != .g 0) t.eaddr

/-- ATOM (R312). -/
def execAtom (f : Fld) (s : State) : Host.Outcome State Fault Refusal :=
  issue (.atom f) {} (fun y s =>
    atomBody f (f.imm.extractLsb' 0 20).toInt f.atomOp.toNat { r := true, a := true } (srcW y f s.pairView.isSome f.sc) 0 true y s) s

/-- ARED (R311). -/
def execAred (f : Fld) (s : State) : Host.Outcome State Fault Refusal :=
  issue (.ared f) {} (fun y s =>
    atomBody f (f.imm.extractLsb' 0 20).toInt f.atomOp.toNat { a := true } (srcW y f s.pairView.isSome f.sc) 0 false y s) s

/-- ACAS's new value register: IMM[23:18] names a g register (R308). -/
def Fld.gv (f : Fld) : BitVec 6 := f.imm.extractLsb' 18 6

/-- ACAS (R309). -/
def execAcas (f : Fld) (s : State) : Host.Outcome State Fault Refusal :=
  issue (.acas f) { regs := [.g (Fld.gv f)] } (fun y s =>
    atomBody f (f.imm.extractLsb' 0 18).toInt 16 { r := true, a := true } (y.readG (Fld.gv f))
      (srcW y f s.pairView.isSome f.sc) true y s) s

/-- VARED (R404): 32 separate atomics, one for each taken lane. -/
def execVared (f : Fld) (s : State) : Host.Outcome State Fault Refusal :=
  issue (.vared f) laneAccess (fun y s => do
    let off := (f.imm.extractLsb' 0 20).toInt
    let t ← s.atomTarget y f off 128 { a := true }
    let v := srcV y f s.pairView.isSome 32 f.sc
    let as := ((List.range 32).filter fun i => (y.mask32 f).getLsbD i).map fun i =>
      ({ t := t.plus (4 * i), op := 9, bytes := 4, x := (lane32 v i).zeroExtend 64, y := 0 } : AtomSpec)
    s.sendAtoms f y as false t.eaddr) s

end Sys2Proof.Machine
end

