-- ==== Sys2Proof/Machine/Vector.lean ====
section
/-! DEFINITION. Group 0x3, the vector unit (spec/26_ref_v_y.md R402, R403, R405 to R407, R410; spec/09_numbers.md R150 to R152, R163
to R165; spec/10_encoding.md R175, R189). -/

namespace Sys2Proof.Machine

/-- The lane width of MOD (R402). -/
def Fld.laneW (f : Fld) : Nat := if f.mod = 1 ∨ f.mod = 2 then 16 else 32
/-- The lane count of MOD. -/
def Fld.laneN (f : Fld) : Nat := 1024 / Fld.laneW f
/-- Is MOD a float format? -/
def Fld.isFloat (f : Fld) : Bool := f.mod != 3
/-- The floating layout of MOD. -/
def Fld.layout (f : Fld) : FFmt := match f.mod.toNat with | 0 => .f32 | 1 => .bf16 | _ => .f16

/-- A group 3 instruction is gated by lane, never as a whole (R175). -/
def laneMask : Pre := { gated := false }

/-- Lanes performed under a mask, the others kept, with the flags of those performed. -/
def lanesBy (w n : Nat) (m : Word) (old : Nat) (g : Nat → Nat × Flags) : Nat × Flags :=
  let rs := (List.range n).map fun i => if m.getLsbD i then g i else (laneOf w old i, ({} : Flags))
  (joinLanes w (rs.map (·.1)), rs.foldl (fun a r => a.or r.2) {})

/-- An elementwise instruction (R403): lane i ← g a b c i, flags made sticky. -/
def elementwise (f : Fld) (g : Ctx → Nat → Nat → Nat → Nat → Nat × Flags) : Body := fun y s =>
  let pair := s.pairView.isSome
  let w := Fld.laneW f
  let a := (srcV y f pair w f.sa).toNat
  let b := (srcV y f pair w f.sb).toNat
  let c := (srcV y f pair w f.sc).toNat
  let r := lanesBy w (Fld.laneN f) (y.mask f) (srcV y f pair w f.dst).toNat fun i => g y (laneOf w a i) (laneOf w b i) (laneOf w c i) i
  let e := vectorResult s f.dst (BitVec.ofNat 1024 r.1)
  .ok { e with s := e.s.me fun x => x.raiseFlags r.2 }

/-- The mode of vector arithmetic (R150): STATUS.RM in F32, RNE in BF16 and F16. -/
def vecRm (f : Fld) (y : Ctx) : Rm := if f.mod = 0 then Rm.ofCode y.rm else .rne

/-- A rounded arithmetic lane in a float format. -/
def floatLane (f : Fld) (y : Ctx) (xs : List Num) (r : Rm → Num) : Nat × Flags :=
  laneRound f.mod.toNat (vecRm f y) xs (r (vecRm f y))

def vaddLane (f : Fld) (y : Ctx) (a b _ _ : Nat) : Nat × Flags :=
  if Fld.isFloat f then
    let x := (Fld.layout f).decode a
    let z := (Fld.layout f).decode b
    floatLane f y [x, z] fun rm => sumNum rm [x, z]
  else ((a + b) % 2 ^ 32, {})

def vsubLane (f : Fld) (y : Ctx) (a b _ _ : Nat) : Nat × Flags :=
  if Fld.isFloat f then
    let x := (Fld.layout f).decode a
    let z := (Fld.layout f).decode b
    floatLane f y [x, z] fun rm => sumNum rm [x, z.neg]
  else ((a + 2 ^ 32 - b) % 2 ^ 32, {})

def vmulLane (f : Fld) (y : Ctx) (a b _ _ : Nat) : Nat × Flags :=
  if Fld.isFloat f then
    let x := (Fld.layout f).decode a
    let z := (Fld.layout f).decode b
    floatLane f y [x, z] fun _ => x.mul z
  else (a * b % 2 ^ 32, {})

def vfmaLane (f : Fld) (y : Ctx) (a b c _ : Nat) : Nat × Flags :=
  if Fld.isFloat f then
    let x := (Fld.layout f).decode a
    let z := (Fld.layout f).decode b
    let t := (Fld.layout f).decode c
    floatLane f y [x, z, t] fun rm => sumNum rm [x.mul z, t]
  else ((a * b + c) % 2 ^ 32, {})

/-- VMIN and VMAX (R100, R403): `mx` chooses the larger; ACTL[4] compares I32 lanes unsigned. -/
def vminmaxLane (f : Fld) (mx : Bool) (a b : Nat) : Nat × Flags :=
  if Fld.isFloat f then
    let x := (Fld.layout f).decode a
    let z := (Fld.layout f).decode b
    (((Fld.layout f).round .rne false (if mx then numMax x z else numMin x z)).1, {})
  else
    let lt : Bool := if f.imm.getLsbD 28 then decide (a < b) else decide (sextNat 32 a < sextNat 32 b)
    (if lt == mx then b else a, {})

/-- VABS (R403). -/
def vabsLane (f : Fld) (a : Nat) : Nat × Flags :=
  if Fld.isFloat f then
    (match (Fld.layout f).decode a with
     | .nan => ((Fld.layout f).nanCode, {})
     | _ => (a % (Fld.layout f).signBit, {}))
  else (if a < 2 ^ 31 then a else (2 ^ 32 - a) % 2 ^ 32, {})

/-- VSHR (R403): arithmetic, or logical with .U. -/
def vshrLane (f : Fld) (a b : Nat) : Nat × Flags :=
  let w := Fld.laneW f
  if f.imm.getLsbD 28 then (a / 2 ^ (b % w), {}) else (intCode w (sextNat w a / ((2 ^ (b % w) : Nat) : Int)), {})

/-- A reference function on a lane (R163 to R165): a 16-bit lane is widened, computed and rounded once. -/
def refLane (f : Fld) (g : Nat → Nat × Flags) (a : Nat) : Nat × Flags :=
  if f.mod = 0 then g a else
  let c := (FFmt.f32.round .rne false ((Fld.layout f).decode a)).1
  let r := g c
  let t := (Fld.layout f).round .rne false (FFmt.f32.decode r.1)
  (t.1, r.2.or { ov := t.2.ov })

def execVadd (f : Fld) (s : State) : Host.Outcome State Fault Refusal := issue (.vadd f) laneMask (elementwise f (vaddLane f)) s
def execVsub (f : Fld) (s : State) : Host.Outcome State Fault Refusal := issue (.vsub f) laneMask (elementwise f (vsubLane f)) s
def execVmul (f : Fld) (s : State) : Host.Outcome State Fault Refusal := issue (.vmul f) laneMask (elementwise f (vmulLane f)) s
def execVfma (f : Fld) (s : State) : Host.Outcome State Fault Refusal := issue (.vfma f) laneMask (elementwise f (vfmaLane f)) s
def execVmin (f : Fld) (s : State) : Host.Outcome State Fault Refusal :=
  issue (.vmin f) laneMask (elementwise f fun _ a b _ _ => vminmaxLane f false a b) s
def execVmax (f : Fld) (s : State) : Host.Outcome State Fault Refusal :=
  issue (.vmax f) laneMask (elementwise f fun _ a b _ _ => vminmaxLane f true a b) s
def execVand (f : Fld) (s : State) : Host.Outcome State Fault Refusal :=
  issue (.vand f) laneMask (elementwise f fun _ a b _ _ => (Nat.land a b, {})) s
def execVor (f : Fld) (s : State) : Host.Outcome State Fault Refusal :=
  issue (.vor f) laneMask (elementwise f fun _ a b _ _ => (Nat.lor a b, {})) s
def execVxor (f : Fld) (s : State) : Host.Outcome State Fault Refusal :=
  issue (.vxor f) laneMask (elementwise f fun _ a b _ _ => (Nat.xor a b, {})) s
def execVshl (f : Fld) (s : State) : Host.Outcome State Fault Refusal :=
  issue (.vshl f) laneMask (elementwise f fun _ a b _ _ => (a * 2 ^ (b % Fld.laneW f) % 2 ^ Fld.laneW f, {})) s
def execVshr (f : Fld) (s : State) : Host.Outcome State Fault Refusal :=
  issue (.vshr f) laneMask (elementwise f fun _ a b _ _ => vshrLane f a b) s
def execVabs (f : Fld) (s : State) : Host.Outcome State Fault Refusal :=
  issue (.vabs f) laneMask (elementwise f fun _ a _ _ _ => vabsLane f a) s
def execVrcp (f : Fld) (s : State) : Host.Outcome State Fault Refusal :=
  issue (.vrcp f) laneMask (elementwise f fun _ a _ _ _ => refLane f vrcp32 a) s
def execVrsq (f : Fld) (s : State) : Host.Outcome State Fault Refusal :=
  issue (.vrsq f) laneMask (elementwise f fun _ a _ _ _ => refLane f vrsq32 a) s
def execVexp (f : Fld) (s : State) : Host.Outcome State Fault Refusal :=
  issue (.vexp f) laneMask (elementwise f fun _ a _ _ _ => refLane f vexp32 a) s
/-- VSEL (R403): kc chooses each lane's source. -/
def execVsel (f : Fld) (s : State) : Host.Outcome State Fault Refusal :=
  issue (.vsel f) laneMask (fun y s =>
    let k := srcW y f s.pairView.isSome f.sc
    elementwise f (fun _ a b _ i => (if k.getLsbD i then a else b, {})) y s) s

/-! ## VCMP (R406) -/

/-- a COND b in a float format (R189): a NaN makes all false but .NE. -/
def floatCond (c : Nat) (x z : Num) : Bool :=
  match c with
  | 0 => x.eq z
  | 1 => ! x.eq z
  | 2 => x.lt z
  | 3 => ! x.isNan && ! z.isNan && ! x.lt z
  | 6 => ! x.isNan && ! z.isNan && ! z.lt x
  | _ => z.lt x

def vcmpLane (f : Fld) (a b : Nat) : Bool × Flags :=
  let c := f.actl.toNat
  if Fld.isFloat f then
    let x := (Fld.layout f).decode a
    let z := (Fld.layout f).decode b
    (floatCond c x z, { nv := (c == 2 || c == 3 || c == 6 || c == 7) && (x.isNan || z.isNan) })
  else (aluCond c 32 (BitVec.ofNat 64 a) (BitVec.ofNat 64 b), {})

def execVcmp (f : Fld) (s : State) : Host.Outcome State Fault Refusal :=
  issue (.vcmp f) laneMask (fun y s =>
    let pair := s.pairView.isSome
    let w := Fld.laneW f
    let a := (srcV y f pair w f.sa).toNat
    let b := (srcV y f pair w f.sb).toNat
    let m := y.mask f
    let old := srcW y f pair f.dst
    let rs := (List.range (Fld.laneN f)).map fun i =>
      if m.getLsbD i then vcmpLane f (laneOf w a i) (laneOf w b i) else (old.getLsbD i, ({} : Flags))
    let k : Word := BitVec.ofNat 64 (joinLanes 1 (rs.map fun r => r.1.toNat))
    let e := scalarResult s f.dst k
    .ok { e with s := e.s.me fun x => x.raiseFlags (rs.foldl (fun a r => a.or r.2) {}) }) s

/-! ## VCVT (R407) -/

/-- The format code of a MOD value, 12 standing for I32. -/
def modFmt (m : Nat) : Nat := if m = 3 then 12 else m
/-- The width and the value of a source element, 12 standing for I32. -/
def cvtWidth (c : Nat) : Nat := if c = 12 then 32 else fmtWidth c
def cvtDecode (c x : Nat) : Num := if c = 12 then .ofInt (signedOf 32 x) else fmtDecode c x

/-- The payload's fields (R153). -/
def payA (p : BitVec 15) : Nat := (p.extractLsb' 0 4).toNat
def payB (p : BitVec 15) : Nat := (p.extractLsb' 4 4).toNat
def payAsc (p : BitVec 15) : Nat := (p.extractLsb' 8 2).toNat
def payBsc (p : BitVec 15) : Nat := (p.extractLsb' 10 2).toNat
/-- The effective rounding mode under a payload (R150). -/
def payRm (rm : BitVec 2) (p : BitVec 15) : Rm :=
  let r := p.extractLsb' 12 3
  if r.toNat < 4 then Rm.ofCode (r.extractLsb' 0 2) else Rm.ofCode rm

/-- VCVT's source and target formats and rounding. -/
def cvtPlan (f : Fld) (y : Ctx) : Nat × Nat × Rm :=
  if y.pp then (payA y.payload, payB y.payload, payRm y.rm y.payload)
  else (modFmt f.mod.toNat, modFmt (f.imm.extractLsb' 0 2).toNat, Rm.ofCode y.rm)

def execVcvt (f : Fld) (s : State) : Host.Outcome State Fault Refusal :=
  issue (.vcvt f)
    { gated := false, dyn02 := fun _ y => y.pp && (f.mod != 0 || f.imm != 0),
      pfx := some fun y => payB y.payload < 10 && payAsc y.payload == 0 && payBsc y.payload == 0 } (fun y s =>
    let pair := s.pairView.isSome
    let (sf, tf, rm) := cvtPlan f y
    let ws := cvtWidth sf
    let wt := cvtWidth tf
    let n := 1024 / max ws wt
    let a := (srcV y f pair ws f.sa).toNat
    let old := (srcV y f pair wt f.dst).toNat
    let m := y.mask f
    let rs := (List.range n).map fun i =>
      if m.getLsbD (i % 64) then convert tf rm (cvtDecode sf (laneOf ws a i)) else (laneOf wt old i, ({} : Flags))
    let e := vectorResult s f.dst (BitVec.ofNat 1024 (joinLanes wt (rs.map (·.1))))
    .ok { e with s := e.s.me fun x => x.raiseFlags (rs.foldl (fun a r => a.or r.2) {}) }) s

/-! ## VRED and VSCAN (R410) -/

/-- The identity of an operation, as an F32 code or an I32 lane. -/
def redIdentity (flt : Bool) (op : Nat) : Nat :=
  match op with
  | 0 => if flt then 0x80000000 else 0
  | 1 => if flt then 0xFF800000 else 0x80000000
  | _ => if flt then 0x7F800000 else 0x7FFFFFFF

/-- One step on F32 codes or I32 lanes. -/
def redOp (flt : Bool) (rm : Rm) (op : Nat) (a b : Nat) : Nat × Flags :=
  if flt then
    let x := c32 a
    let z := c32 b
    match op with
    | 0 =>
      let t := sumNum rm [x, z]
      let r := FFmt.f32.round rm false t
      (r.1, r.2.or { nv := t.isNan && ! x.isNan && ! z.isNan })
    | 1 => ((FFmt.f32.round .rne false (numMax x z)).1, {})
    | _ => ((FFmt.f32.round .rne false (numMin x z)).1, {})
  else
    match op with
    | 0 => ((a + b) % 2 ^ 32, {})
    | 1 => (if sextNat 32 a < sextNat 32 b then b else a, {})
    | _ => (if sextNat 32 b < sextNat 32 a then b else a, {})

/-- One level of VRED: neighbours combined. -/
def redLevel (g : Nat → Nat → Nat × Flags) : List Nat → List Nat × Flags
  | a :: b :: rest =>
    let r := g a b
    let t := redLevel g rest
    (r.1 :: t.1, r.2.or t.2)
  | l => (l, {})

def redTree (g : Nat → Nat → Nat × Flags) : Nat → List Nat → Nat × Flags
  | 0, l => (l.headD 0, {})
  | n + 1, l =>
    match l with
    | [] => (0, {})
    | [a] => (a, {})
    | _ =>
      let r := redLevel g l
      let t := redTree g n r.1
      (t.1, r.2.or t.2)

/-- VSCAN's running values, each with the flags of its step. -/
def scanList (g : Nat → Nat → Nat × Flags) : Nat → List Nat → List (Nat × Flags)
  | _, [] => []
  | a, x :: xs => let r := g a x; r :: scanList g r.1 xs

/-- The contributing values (R410): lanes as F32 codes or I32, the identity where the mask is clear. -/
def redInputs (f : Fld) (m : Word) (a : Nat) : List Nat :=
  let w := Fld.laneW f
  (List.range (Fld.laneN f)).map fun i =>
    if m.getLsbD i then
      (if f.mod = 0 ∨ f.mod = 3 then laneOf w a i else (FFmt.f32.round .rne false ((Fld.layout f).decode (laneOf w a i))).1)
    else redIdentity (Fld.isFloat f) f.actl.toNat

/-- A result written to a lane: rounded once more in a 16-bit format. -/
def redOut (f : Fld) (r : Nat) : Nat × Flags :=
  if f.mod = 0 ∨ f.mod = 3 then (r, {}) else (Fld.layout f).round .rne false (c32 r)

def execVred (f : Fld) (s : State) : Host.Outcome State Fault Refusal :=
  issue (.vred f) laneMask (fun y s =>
    let w := Fld.laneW f
    let t := redInputs f (y.mask f) (srcV y f s.pairView.isSome w f.sa).toNat
    let r := redTree (redOp (Fld.isFloat f) (vecRm f y) f.actl.toNat) 7 t
    let o := redOut f r.1
    let e := vectorResult s f.dst (broadcast w o.1)
    .ok { e with s := e.s.me fun x => x.raiseFlags (r.2.or o.2) }) s

def execVscan (f : Fld) (s : State) : Host.Outcome State Fault Refusal :=
  issue (.vscan f) laneMask (fun y s =>
    let w := Fld.laneW f
    match redInputs f (y.mask f) (srcV y f s.pairView.isSome w f.sa).toNat with
    | [] => .ok { s := s }
    | t :: ts =>
      let rs := (t, ({} : Flags)) :: scanList (redOp (Fld.isFloat f) (vecRm f y) f.actl.toNat) t ts
      let os := rs.map fun r => redOut f r.1
      let e := vectorResult s f.dst (BitVec.ofNat 1024 (joinLanes w (os.map (·.1))))
      .ok { e with s := e.s.me fun x => x.raiseFlags ((rs ++ os).foldl (fun a r => a.or r.2) {}) }) s

/-! ## Lane movement (R405) -/

/-- Does a pd source name a scalar result? -/
def pdScalar (y : Ctx) (pair : Bool) (o : Operand) : Bool :=
  match o with
  | .pd n => (match y.readPd n pair with | .scalar _ => true | _ => false)
  | _ => false

def execVbcst (f : Fld) (s : State) : Host.Outcome State Fault Refusal :=
  issue (.vbcst f) { gated := false, dyn02 := fun s y => pdScalar y s.pairView.isSome f.sa && f.imm != 0 } (fun y s =>
    let w := Fld.laneW f
    let a := (srcV y f s.pairView.isSome w f.sa).toNat
    elementwise f (fun _ _ _ _ _ => (laneOf w a (f.imm.toNat % Fld.laneN f), {})) y s) s

def execViota (f : Fld) (s : State) : Host.Outcome State Fault Refusal :=
  issue (.viota f) laneMask (elementwise f fun _ _ _ _ i =>
    (if Fld.isFloat f then ((Fld.layout f).round .rne false (.ofInt i)).1 else i, {})) s

def execVperm (f : Fld) (s : State) : Host.Outcome State Fault Refusal :=
  issue (.vperm f) laneMask (fun y s =>
    let w := Fld.laneW f
    let a := (srcV y f s.pairView.isSome w f.sa).toNat
    elementwise f (fun _ _ b _ _ => (laneOf w a (b % Fld.laneN f), {})) y s) s

/-- The lane that an index operand names. -/
def laneIndex (f : Fld) (y : Ctx) (pair : Bool) : Nat := (srcW y f pair f.sb).toNat % Fld.laneN f

def execVgetl (f : Fld) (s : State) : Host.Outcome State Fault Refusal :=
  issue (.vgetl f) laneMask (fun y s =>
    let pair := s.pairView.isSome
    let w := Fld.laneW f
    let i := laneIndex f y pair
    .ok (scalarResult s f.dst
      (if (y.mask f).getLsbD i then BitVec.ofNat 64 (laneOf w (srcV y f pair w f.sa).toNat i) else srcW y f pair f.dst))) s

def execVsetl (f : Fld) (s : State) : Host.Outcome State Fault Refusal :=
  issue (.vsetl f) laneMask (fun y s =>
    let pair := s.pairView.isSome
    let w := Fld.laneW f
    let n := laneIndex f y pair
    let a := (srcW y f pair f.sa).toNat % 2 ^ w
    let old := (srcV y f pair w f.dst).toNat
    let v := if (y.mask f).getLsbD n then
      joinLanes w ((List.range (Fld.laneN f)).map fun i => if i = n then a else laneOf w old i) else old
    .ok (vectorResult s f.dst (BitVec.ofNat 1024 v))) s

end Sys2Proof.Machine
end

