-- ==== Sys2Proof/Machine/BankCmds.lean ====
section
/-! DEFINITION. Group 0x6: the issue of bank commands, and BSYNC (spec/06_bank_units.md R99 to R113, spec/22_ref_a_b.md R313, R317,
R318, R321, R325, R326). Their effect on a row stands in Bank.lean. -/

namespace Sys2Proof.Machine

/-- Does a prefix name I8 or N8 as its A format (R99)? -/
def laneByte (y : Ctx) : Bool := payA y.payload == 6 || payA y.payload == 7

/-- The lane format of a command (R99), by the codes of Bank.lean. -/
def bankFmt (f : Fld) (y : Ctx) : Nat := if y.pp && laneByte y then payA y.payload else f.mod.toNat

/-- The 64-byte operand of a source (R99, R313): a v register's low half, or low lane-width bits in every lane. -/
def bankOperand (f : Fld) (y : Ctx) (pair : Bool) (o : Operand) : BitVec 512 := (srcV y f pair (bankWidth (bankFmt f y)) o).extractLsb' 0 512

/-- The prefix rules of a command (R99). -/
def bankPre : Pre := { pfx := some laneByte }

/-- A prefix before a command with MOD not 0 raises 0x02 (R99). -/
def bankPreMod (f : Fld) : Pre := { bankPre with dyn02 := fun _ y => y.pp && f.mod != 0 }

/-- BCNT with MOD 0 and no I8 or N8 prefix also raises 0x02 (R102, R317). -/
def countPre (f : Fld) : Pre := { bankPre with dyn02 := fun _ y => y.pp && f.mod != 0 || f.mod == 0 && ! (y.pp && laneByte y) }

/-- A further 0x14 of a command, then the alignment of its row (R106). -/
def rowChk (s : State) (a : Word) (imm : Int) (bad : Nat → Nat → Bool) : Except Halt (Nat × Nat) := do
  let (core, off) ← s.scrChk a imm 1
  if bad core off then trap 0x14 (localEaddr a imm) 0
  else if off % 64 ≠ 0 then trap 0x15 (localEaddr a imm) 0
  else .ok (core, off)

/-- MMVB bank halves of a core not yet performed, which count as commands (R106). -/
def State.pendingHalves (s : State) (core : Nat) : Nat :=
  (s.frames.filter fun p => p.1.1 == core).foldl (fun n p =>
    n + (p.2.mq.filter fun m => match m.cmd with | .mvb .. => true | _ => false).length) 0

/-- A checked command is sent (R106, R109): it waits while 256 stand, and follows the context's own earlier accesses to its rows. -/
def State.sendCmd (s : State) (y : Ctx) (index : Nat) (cmd : BankCmd) : Except Halt Eff :=
  match s.cur with
  | .handler _ => .error (.wait s)
  | .ctx c =>
    let ts := cmd.rows.map fun r => ((Target.scr (r / 2 ^ 19) (r % 2 ^ 19), 64) : Target × Nat)
    if y.acqPending || decide (256 ≤ (s.coreOf c.core).cmds.length + s.pendingHalves c.core) then .error (.wait s) else
    match s.orderBefore s.cur ts true true with
    | none => .error (.wait s)
    | some (s, ps) =>
      let k := s.coreOf c.core
      .ok { s := (s.setCore c.core { k with cmds := k.cmds ++ [{ who := c, index := index, cmd := cmd, seq := y.issued, ws := k.watches }] }).send ps,
            after := s.watch38 .st ts }

/-- A command on the row at SA plus the offset. -/
def rowCmd (f : Fld) (index : Nat) (g : Ctx → Bool → Nat → BankCmd) : Body := fun y s => do
  let pair := s.pairView.isSome
  let (core, off) ← rowChk s (srcW y f pair f.sa) f.off24.toInt fun _ _ => false
  s.sendCmd y index (g y pair (scrKey core off))

/-- A lane-wise command of R102. -/
def laneCmd (f : Fld) (op index : Nat) : Body :=
  rowCmd f index fun y pair row => .lane op (bankFmt f y) row (bankOperand f y pair f.sb) (bankOperand f y pair f.sc)

def execBadd (f : Fld) (s : State) : Host.Outcome State Fault Refusal := issue (.badd f) (bankPreMod f) (laneCmd f 0 0) s
def execBmax (f : Fld) (s : State) : Host.Outcome State Fault Refusal := issue (.bmax f) (bankPreMod f) (laneCmd f 1 1) s
def execBmin (f : Fld) (s : State) : Host.Outcome State Fault Refusal := issue (.bmin f) (bankPreMod f) (laneCmd f 2 2) s
def execBfma (f : Fld) (s : State) : Host.Outcome State Fault Refusal := issue (.bfma f) (bankPreMod f) (laneCmd f 4 4) s

/-- BSCL (R105): the run starts at the address; q + n beyond 512 raises 0x14. -/
def execBscl (f : Fld) (s : State) : Host.Outcome State Fault Refusal :=
  issue (.bscl f) (bankPreMod f) (fun y s => do
    let pair := s.pairView.isSome
    let (core, off) ← rowChk s (srcW y f pair f.sa) 0 fun _ o => decide (512 < o / 1024 + f.run)
    s.sendCmd y 3 (.scale (bankFmt f y) (scrKey core off) f.run (bankOperand f y pair f.sb))) s

/-- BSMX (R103, R325). -/
def execBsmx (f : Fld) (s : State) : Host.Outcome State Fault Refusal :=
  issue (.bsmx f) {} (fun y s => do
    let pair := s.pairView.isSome
    let (core, off) ← rowChk s (srcW y f pair f.sa) f.off24.toInt fun _ o => decide (0x7FF80 < o)
    s.sendCmd y 5 (.softmax (scrKey core off) ((srcV y f pair 32 f.sb).extractLsb' 0 512))) s

/-- BCNT (R102, R317). -/
def execBcnt (f : Fld) (s : State) : Host.Outcome State Fault Refusal :=
  issue (.bcnt f) (countPre f) (rowCmd f 6 fun y pair row => .count (bankFmt f y) row (srcW y f pair f.sb)) s

/-- The target format of BCVT (R104), by the codes of Bank.lean. -/
def Fld.bcvtTarget (f : Fld) : Nat := match f.queue.toNat with | 4 => 6 | 5 => 7 | n => n

/-- BCVT (R104, R318). -/
def execBcvt (f : Fld) (s : State) : Host.Outcome State Fault Refusal :=
  issue (.bcvt f) (bankPreMod f) (rowCmd f 7 fun y _ row => .convert (bankFmt f y) (Fld.bcvtTarget f) row) s

/-- BFILL (R102). -/
def execBfill (f : Fld) (s : State) : Host.Outcome State Fault Refusal :=
  issue (.bfill f) (bankPreMod f) (rowCmd f 8 fun y pair row => .fill row (bankOperand f y pair f.sb)) s

/-- BRED (R105, R321): the destination lies in the core and bank of the run. The checks go the destination's address, the run's, the run's extent, the
common bank, then the alignment of each; EADDR is the run's address for its extent and the destination's for another bank (DESIGN CHOICE, LOG 125). -/
def execBred (f : Fld) (s : State) : Host.Outcome State Fault Refusal :=
  issue (.bred f) (bankPreMod f) (fun y s => do
    let pair := s.pairView.isSome
    let a := srcW y f pair f.sa
    let b := srcW y f pair f.sb
    let (cd, od) ← s.scrChk a 0 1
    let (cr, or_) ← s.scrChk b 0 1
    if 512 < or_ / 1024 + f.run then trap 0x14 (localEaddr b 0) 0
    else if cd ≠ cr ∨ od / 64 % 16 ≠ or_ / 64 % 16 then trap 0x14 (localEaddr a 0) 0
    else if od % 64 ≠ 0 then trap 0x15 (localEaddr a 0) 0
    else if or_ % 64 ≠ 0 then trap 0x15 (localEaddr b 0) 0
    else s.sendCmd y 9 (.reduce (bankFmt f y) (scrKey cd od) (scrKey cr or_) f.run f.queue.toNat)) s

/-- BSYNC (R112, R326): every earlier command of the context is performed first; an MMVB bank half is waited for. -/
def execBsync (f : Fld) (s : State) : Host.Outcome State Fault Refusal :=
  issue (.bsync f) {} (fun y s =>
    match s.cur with
    | .handler _ => .error (.wait s)
    | .ctx c =>
      if s.halfPending c || y.acqPending then .error (.wait s) else
      let r := s.performCmds c.core (lastSel (s.coreOf c.core).cmds fun q => q.who == c)
      .ok { s := r.1.send r.2 }) s

end Sys2Proof.Machine
end

