-- ==== Sys2Proof/Machine/Buffer.lean ====
section
/-! DEFINITION. Circular buffers, and group 0x7's buffer and semaphore instructions (spec/03_execution.md R34 to R37,
spec/02_tutorial.md R18, spec/23_ref_c_f.md R328 to R332, spec/25_ref_n_s.md R390). -/

namespace Sys2Proof.Machine

namespace CircBuf
variable (b : CircBuf)
def en : Bool := b.desc.getLsbD 31
def prod : Nat := (b.desc.extractLsb' 29 2).toNat
def cons : Nat := (b.desc.extractLsb' 27 2).toNat
/-- Slots (R24). -/
def slots : Nat := (b.desc.extractLsb' 21 6).toNat + 1
/-- Bytes of a slot. -/
def slotBytes : Nat := (b.desc.extractLsb' 13 8).toNat * 64
def base : Nat := (b.desc.extractLsb' 0 13).toNat * 64
/-- A new buffer of a descriptor: empty, positions 0, open (R28). -/
def ofDesc (d : BitVec 32) : CircBuf :=
  { desc := d, free := (d.extractLsb' 21 6).toNat + 1, filled := 0, prodPos := 0, consPos := 0, acq := [], waited := [], fifo := [],
    closed := false, abandoned := false }

/-- Published slots at the head of the acquired list become filled, in acquisition order (R34, R329). -/
def fill : Nat → CircBuf → CircBuf
  | 0, b => b
  | n + 1, b =>
    match b.acq with
    | (slot, _, _, true) :: rest => fill n { b with acq := rest, fifo := b.fifo ++ [slot], filled := b.filled + 1 }
    | _ => b

/-- Mark the first acquired slot that a test selects published, then fill from the head. -/
def publish (sel : Nat × Option CtxKind × Nat × Bool → Bool) : CircBuf :=
  let rec go : List (Nat × Option CtxKind × Nat × Bool) → List (Nat × Option CtxKind × Nat × Bool)
    | [] => []
    | e :: es => if sel e then (e.1, e.2.1, e.2.2.1, true) :: es else e :: go es
  fill b.acq.length { b with acq := go b.acq }

/-- Take the slot at the producer position (R34). -/
def take (owner : Option CtxKind) (op : Nat) : CircBuf :=
  { b with free := b.free - 1, acq := b.acq ++ [(b.prodPos, owner, op, false)], prodPos := (b.prodPos + 1) % b.slots }

/-- A close (R330): published slots still held become filled, the others are discarded. -/
def close : CircBuf :=
  let done := (b.acq.filter fun e => e.2.2.2).map (·.1)
  { b with acq := [], fifo := b.fifo ++ done, filled := b.filled + done.length, closed := true }

/-- Can a producer take no more slots (R34, R36)? -/
def shut : Bool := b.closed || b.abandoned
end CircBuf

/-- The scratch offset of slot n of a frame's buffer (R34). -/
def Frame.slotOff (f : Frame) (b : CircBuf) (n : Nat) : Nat := f.block * 4096 + b.base + n * b.slotBytes

def Frame.cb (f : Frame) (n : BitVec 3) : CircBuf := f.cbs[n.toNat]'n.isLt
def Frame.setCb (f : Frame) (n : BitVec 3) (b : CircBuf) : Frame := { f with cbs := f.cbs.set n.toNat b n.isLt }

def State.cbOf (s : State) (n : BitVec 3) : Option CircBuf := s.curFrame.map fun f => f.cb n
def State.putCb (s : State) (n : BitVec 3) (b : CircBuf) : State :=
  match s.cur with
  | .ctx c => s.updFrame c.core c.frm fun f => f.setCb n b
  | .handler _ => s
/-- The issuing context's code in PROD and CONS (R24). -/
def State.curNo (s : State) : Nat := match s.cur with | .ctx c => ctxNo c.kind | .handler _ => 3
def State.curKind (s : State) : Option CtxKind := match s.cur with | .ctx c => some c.kind | .handler _ => none

def Fld.cbn (f : Fld) : BitVec 3 := f.imm.extractLsb' 0 3

/-- The misuses of R35 common to the five instructions, and one of its own: EINFO is the buffer number. They come before the effect of a shut
buffer: a CBCLOSE of a buffer both closed and abandoned raises 0x07 (R35; R36 would return; DESIGN CHOICE, LOG 102). -/
def cbMisuse (f : Fld) (producer : Bool) (own : CircBuf → Option CtxKind → Bool) (s : State) (_ : Ctx) : Option (BitVec 32) :=
  match s.cbOf (Fld.cbn f) with
  | none => none
  | some b =>
    if ! b.en || s.curNo != (if producer then b.prod else b.cons) || own b s.curKind then some ((Fld.cbn f).zeroExtend 32) else none

/-- A body over the buffer that IMM names. -/
def cbBody (f : Fld) (g : Frame → CircBuf → Ctx → State → Except Halt Eff) : Body := fun y s =>
  match s.curFrame with
  | some fr => g fr (fr.cb (Fld.cbn f)) y s
  | none => .error (.wait s)

/-- CBACQ (R34): 0xFFFFFFFF from a shut buffer; waits while it is full. -/
def execCbacq (f : Fld) (s : State) : Host.Outcome State Fault Refusal :=
  issue (.cbacq f) { dyn07 := cbMisuse f true fun _ _ => false } (cbBody f fun fr b _ s =>
    if b.shut then .ok (scalarResult s f.dst 0xFFFFFFFF)
    else if b.free = 0 then .error (.wait s)
    else .ok (scalarResult (s.putCb (Fld.cbn f) (b.take s.curKind 0)) f.dst
      (BitVec.ofNat 64 (absLocal s.curCore (fr.slotOff b b.prodPos))))) s

/-- An acquired slot that the context owns and has not published. -/
def ownedSlot (k : Option CtxKind) (e : Nat × Option CtxKind × Nat × Bool) : Bool := e.2.1 == k && e.2.1.isSome && ! e.2.2.2

/-- CBPUB (R34, R194, R329): every earlier bank command of the context is performed (R110), the slot's bytes are published, and filled slots
leave the head. -/
def execCbpub (f : Fld) (s : State) : Host.Outcome State Fault Refusal :=
  issue (.cbpub f) { dyn07 := cbMisuse f true fun b k => ! b.acq.any (ownedSlot k) } (cbBody f fun fr b _ s =>
    match b.acq.find? (ownedSlot s.curKind), s.curId with
    | some e, some c =>
      if s.halfPending c then .error (.wait s) else
      (match s.orderBefore s.cur [(.scr s.curCore (fr.slotOff b e.1), b.slotBytes)] false true with
       | none => .error (.wait s)
       | some (s, ps) =>
         let r := s.performCmds c.core (lastSel (s.coreOf c.core).cmds fun q => q.who == c)
         .ok { s := (r.1.putCb (Fld.cbn f) (b.publish (ownedSlot s.curKind))).send (ps ++ r.2) })
    | _, _ => .error (.wait s)) s

/-- CBWAIT (R34, R332): the oldest filled slot; 0xFFFFFFFF from an empty closed buffer; waits on an empty open one. -/
def execCbwait (f : Fld) (s : State) : Host.Outcome State Fault Refusal :=
  issue (.cbwait f) { dyn07 := cbMisuse f false fun _ _ => false } (cbBody f fun fr b _ s =>
    match b.fifo with
    | n :: rest =>
      .ok (scalarResult ((s.me Ctx.acquire).putCb (Fld.cbn f)
          { b with filled := b.filled - 1, fifo := rest, waited := b.waited ++ [n], consPos := (b.consPos + 1) % b.slots }) f.dst
        (BitVec.ofNat 64 (absLocal s.curCore (fr.slotOff b n))))
    | [] => if b.closed then .ok (scalarResult s f.dst 0xFFFFFFFF) else .error (.wait s)) s

/-- CBREL (R34, R331). -/
def execCbrel (f : Fld) (s : State) : Host.Outcome State Fault Refusal :=
  issue (.cbrel f) { dyn07 := cbMisuse f false fun b _ => b.waited.isEmpty } (cbBody f fun _ b _ s =>
    .ok { s := s.putCb (Fld.cbn f) { b with waited := b.waited.drop 1, free := b.free + 1 } }) s

/-- CBCLOSE (R34, R36, R330): an abandoned buffer is left as it is. -/
def execCbclose (f : Fld) (s : State) : Host.Outcome State Fault Refusal :=
  issue (.cbclose f) { dyn07 := cbMisuse f true fun b _ => b.closed } (cbBody f fun _ b _ s =>
    .ok { s := if b.abandoned then s else s.putCb (Fld.cbn f) b.close }) s

/-! ## Semaphores (R37, R390) -/

def Frame.sem (f : Frame) (n : BitVec 3) : BitVec 8 := f.sems[n.toNat]'n.isLt
def Frame.setSem (f : Frame) (n : BitVec 3) (c : BitVec 8) : Frame := { f with sems := f.sems.set n.toNat c n.isLt }

/-- SEMW: waits in issue order while the count is 0, then takes one. -/
def execSemw (f : Fld) (s : State) : Host.Outcome State Fault Refusal :=
  issue (.semw f) {} (fun _ s =>
    match s.cur with
    | .handler _ => .error (.wait s)
    | .ctx c =>
      match s.frameOf c with
      | none => .error (.wait s)
      | some fr =>
        let n := Fld.cbn f
        let q := if fr.semq.contains (n.toNat, c.kind) then fr.semq else fr.semq ++ [(n.toNat, c.kind)]
        if fr.sem n ≠ 0 ∧ (q.find? fun e => e.1 == n.toNat) = some (n.toNat, c.kind) then
          .ok { s := s.setFrame c.core c.frm { fr.setSem n (fr.sem n - 1) with semq := q.filter (· != (n.toNat, c.kind)) } }
        else .error (.wait (s.setFrame c.core c.frm { fr with semq := q }))) s

/-- SEMS: adds one; at 255 it raises 0x07, whose EINFO R244 leaves open. -/
def execSems (f : Fld) (s : State) : Host.Outcome State Fault Refusal :=
  issue (.sems f) { dyn07 := fun s _ => match s.curFrame with
      | some fr => if fr.sem (Fld.cbn f) = 255 then some ((Config.freeValue s.freeTick).extractLsb' 0 32) else none
      | none => none } (fun _ s =>
    match s.cur with
    | .handler _ => .error (.wait s)
    | .ctx c => .ok { s := s.updFrame c.core c.frm fun fr => fr.setSem (Fld.cbn f) (fr.sem (Fld.cbn f) + 1) }) s

end Sys2Proof.Machine
end

