-- ==== Sys2Proof/Machine/Control.lean ====
section
/-! DEFINITION. Group 0x2: branches, END, RALLY, NOP and YIELD, the trapping pair BRK and SVC, and ERET (spec/10_encoding.md R170;
spec/22_ref_a_b.md R320, R322 to R324; spec/23_ref_c_f.md R327, R345, R346; spec/24_ref_g_m.md R364; spec/25_ref_n_s.md R382, R385,
R386, R401; spec/26_ref_v_y.md R414). -/

namespace Sys2Proof.Machine

/-- A control transfer (R170): to a legal target, else 0x04 with the target in EADDR. -/
def goto (s : State) (e : Eff) (p : Pc) : Except Halt Eff :=
  if s.targetOk s.cur p then .ok { e with jump := some p } else trap 0x04 (p.zeroExtend 64) 0

/-- The PC in the low 15 bits of a value. -/
def pcIn (w : Word) : Pc := w.extractLsb' 0 15

def execBr (f : Fld) (s : State) : Host.Outcome State Fault Refusal :=
  issue (.br f) {} (fun _ s => goto s { s := s } (f.imm.extractLsb' 0 15)) s

def execBrx (f : Fld) (s : State) : Host.Outcome State Fault Refusal :=
  issue (.brx f) {} (fun y s => goto s { s := s } (pcIn (srcW y f s.pairView.isSome f.sa))) s

/-- CALL (R327): the link is the next slot in issue order. -/
def execCall (f : Fld) (s : State) : Host.Outcome State Fault Refusal :=
  issue (.call f) {} (fun y s => goto s (scalarResult s f.dst ((pcForm (pcNext y.pc)).zeroExtend 64)) (f.imm.extractLsb' 0 15)) s

def execRet (f : Fld) (s : State) : Host.Outcome State Fault Refusal :=
  issue (.ret f) {} (fun y s => goto s { s := s } (pcIn (srcW y f s.pairView.isSome f.sa))) s

/-- BSE (R324): taken when the flag of the element last read is 1. -/
def execBse (f : Fld) (s : State) : Host.Outcome State Fault Refusal :=
  issue (.bse f) { dyn07 := fun _ y => unbound f.sa y } (fun y s =>
    match srcS y f.sa with
    | some st => if st.flags.getLsbD (f.imm.extractLsb' 15 2).toNat then goto s { s := s } (f.imm.extractLsb' 0 15) else .ok { s := s }
    | none => .ok { s := s }) s

/-! ## JTAB (R245, R364) -/

/-- A failed entry fetch as JTAB reports it: 0x18 with the fetch's cause in EINFO. -/
def jtabFail {α : Type} (ea : Word) : Except Halt α → Except Halt α
  | .error (.trap c _ _) => .error (.trap 0x18 ea ((c &&& 0x7F).zeroExtend 32))
  | .error (.trapIn s c _ _) => .error (.trapIn s 0x18 ea ((c &&& 0x7F).zeroExtend 32))
  | r => r

/-- JTAB past its table: JR set, and the next instruction. -/
def jtabFall (s : State) : Eff := { s := s.me fun x => { x with status := setBit x.status 3 true } }

/-- JTAB through a fetched entry. -/
def jtabGo (s : State) (bs : List Byte) : Except Halt Eff :=
  let e : BitVec 16 := BitVec.ofNat 16 (leNat bs)
  let p : Pc := e.extractLsb' 0 15
  if e.getLsbD 15 then trap 0x04 (p.zeroExtend 64) 0
  else goto s { s := s.me fun x => { x with status := setBit x.status 3 false } } p

def execJtabScratch (f : Fld) (s : State) : Host.Outcome State Fault Refusal :=
  issue (.jtabScratch f) {} (fun y s =>
    let pair := s.pairView.isSome
    let gx := (srcW y f pair f.sa).toNat
    let a := srcW y f pair f.sb
    if f.imm.toNat ≤ gx then .ok (jtabFall s) else
    match jtabFail (localEaddr a (2 * gx)) (do
        let (core, off) ← s.scrChk a (2 * gx) 2
        s.loadNow y (.scr core off) 2) with
    | .ok (s, bs) => jtabGo s bs
    | .error h => .error h) s

def execJtabDevice (f : Fld) (s : State) : Host.Outcome State Fault Refusal :=
  issue (.jtabDevice f) {} (fun y s =>
    let pair := s.pairView.isSome
    let gx := (srcW y f pair f.sa).toNat
    let off := capOff (srcW y f pair f.sc) (2 * gx)
    if f.imm.toNat ≤ gx then .ok (jtabFall s) else
    match jtabFail (offWord off) (do
        let t ← s.devChk y f.sb off 2 { r := true } false
        s.loadNow y t 2) with
    | .ok (s, bs) => jtabGo s bs
    | .error h => .error h) s

/-! ## END (R38, R345) -/

/-- The value that R244 leaves open in EINFO[9:0] of a 0x20 with no slot. -/
def freeSlot (s : State) : BitVec 32 := ((Config.freeValue s.freeTick).extractLsb' 0 10).zeroExtend 32

/-- END's effect on its frame's buffers: produced ones close, consumed ones are abandoned (R36, R38). -/
def Frame.endCtx (f : Frame) (k : Nat) : Frame :=
  let step (b : CircBuf) : CircBuf :=
    if ! b.en then b
    else if b.prod = k then (if b.shut then b else b.close)
    else if b.cons = k then { b with abandoned := true } else b
  { f with cbs := f.cbs.map step }

/-- The causes of a context's failed loads, which arrive though their writes are discarded (R247, R345). -/
def failedLoads (c : CtxId) (x : Ctx) : Sent :=
  x.out.filterMap fun o => match o.what with | .failed p => some (c, p) | _ => none

def execEndCtx (f : Fld) (s : State) : Host.Outcome State Fault Refusal :=
  issue (.endCtx f) {} (fun y s =>
    if y.xp then trap 0x20 0 (freeSlot s) else
    match s.cur with
    | .handler n => .ok { s := s.updCtx (.handler n) fun x => { x with ended := true } }
    | .ctx c =>
      match s.publish s.cur with
      | none => .error (.wait s)
      | some (s, ps) =>
        let late := match s.ctxs.get s.cur with | some x => failedLoads c x | none => []
        let s := s.updFrame c.core c.frm fun fr => fr.endCtx (ctxNo c.kind)
        let s := s.freeMutexes (clusterOf c.core) (· == c)
        let s := { s with atoms := s.atoms.filter fun p => ! (p.2.who == s.cur && p.2.applied) }
        let s := s.me fun x => { x with ended := true, bara := [], out := [], wait := .none, win := [] }
        .ok { s := s.send (ps ++ late) }) s

/-! ## NOP, RALLY, YIELD -/

/-- NOP waits for its tags and changes nothing else (R382). -/
def execNop (f : Fld) (s : State) : Host.Outcome State Fault Refusal := issue (.nop f) {} (fun _ s => .ok { s := s }) s

/-- A context past the instruction at which it waited. -/
def Ctx.pass (x : Ctx) (e : PdEntry) : Ctx := { (x.pushPd e).countIssue with pc := pcNext x.pc, wait := .none }

def Wait.isRally : Wait → Bool | .rally _ => true | _ => false

/-- The rally set of a context (R385): the computer contexts of its cluster in frames bound to its task type, in its space. -/
def State.rallySet (s : State) (c : CtxId) : List CtxId :=
  match s.frameOf c with
  | none => []
  | some fr =>
    (s.frames.filter fun p => clusterOf p.1.1 == clusterOf c.core && p.2.task.space == fr.task.space &&
      p.2.task.bytes.extractLsb' 0 10 == fr.task.bytes.extractLsb' 0 10).map fun p => ⟨p.1.1, p.1.2, .computer⟩

/-- Does a context wait at a RALLY at this pc, and for nothing else (R385): its frame is neither suspended by another context nor being saved? -/
def State.ralliedAt (s : State) (c : CtxId) (p : Pc) : Bool :=
  match s.ctxs.get (.ctx c), s.frameOf c with
  | some x, some f => x.wait.isRally && x.pc == p && (match f.trappedBy with | some k => k == c.kind | none => true) && ! s.saving (c.core, c.frm)
  | _, _ => false

/-- Does every context of a rallying context's set wait where it does, one having left the set (R385)? -/
def State.rallyMet (s : State) (c : CtxId) (x : Ctx) : Bool := x.wait.isRally && (s.rallySet c).all fun o => s.ralliedAt o x.pc

/-- RALLY (R385): it waits until every context of its set waits at its pc, or until w cycles have passed (RALLY_TIMEOUT). -/
def execRally (f : Fld) (s : State) : Host.Outcome State Fault Refusal :=
  issue (.rally f) {} (fun y s =>
    match s.cur with
    | .handler _ => .ok { s := s }
    | .ctx c =>
      if c.kind ≠ .computer ∨ f.imm = 0 then .ok { s := s } else
      let others := (s.rallySet c).filter (· != c)
      if others.all fun o => s.ralliedAt o y.pc then
        .ok { s := others.foldl (fun s o => s.updCtx (.ctx o) fun x => x.pass .none) s }
      else .error (.wait (s.me fun x => { x with wait := .rally (some (s.clock + f.imm.toNat)) }))) s

/-- YIELD (R414): not ready for max(n, 1) cycles. -/
def execYield (f : Fld) (s : State) : Host.Outcome State Fault Refusal :=
  issue (.yield f) {} (fun _ s =>
    match s.cur with
    | .handler _ => .ok { s := s }
    | .ctx _ => .ok { s := s.me fun x => { x with wait := .yield (s.clock + max f.imm.toNat 1) } }) s

/-! ## BRK, SVC, ERET -/

/-- BRK completes, then raises 0x3A (R322). -/
def execBrk (f : Fld) (s : State) : Host.Outcome State Fault Refusal :=
  issue (.brk f) {} (fun _ s => .ok { s := s, after := some (0x3A, 0, f.imm &&& 0xFFFF) }) s

/-- SVC completes, then raises 0x3B (R401). -/
def execSvc (f : Fld) (s : State) : Host.Outcome State Fault Refusal :=
  issue (.svc f) {} (fun _ s => .ok { s := s, after := some (0x3B, 0, f.imm &&& 0xFFFF) }) s

/-- ERET (R239, R346). -/
def execEret (f : Fld) (s : State) : Host.Outcome State Fault Refusal :=
  issue (.eret f) { gated := false } (fun y s => .ok { s := s.trapReturn, jump := some (pcIn y.epc) }) s

/-- An unassigned opcode raises 0x01 when it is issued (R186). -/
def execUnassignedOpcode (opc : BitVec 10) (s : State) : Host.Outcome State Fault Refusal :=
  match s.ctxs.get s.cur with
  | none => .fault .noIssuer
  | some x => .next ((s.setCtx s.cur (if x.pp then x.consumePrefix else x)).raise 0x01 0 (opc.zeroExtend 32))

end Sys2Proof.Machine
end

