-- ==== Sys2Proof/Machine/Engine.lean ====
section
/-! DEFINITION. Group 0x8: copies, futures, SHIP and MSG, and the events that perform copies (spec/05_memory.md R97, R98,
spec/07_joins.md R130 to R133, spec/03_execution.md R32, R33, R36, spec/11_ordering.md R199, spec/13_near_memory.md R226, R227, R230,
spec/23_ref_c_f.md R337 to R341, R348 to R351, R356, spec/24_ref_g_m.md R379, spec/25_ref_n_s.md R384, R393, R394). -/

namespace Sys2Proof.Machine

/-! ## Forms of a copy -/

/-- What a copy-engine operation does: a plain copy, CPYX, CPYA or EBAG with its bytes, format and MEAN. -/
inductive CopyForm where
  | plain (len : Nat)
  | gather (rowb : Nat)
  | scatter (fmt rowb : Nat)
  | bag (fmt rowb : Nat) (mean : Bool)
  deriving DecidableEq, Repr

def CopyOp.form (c : CopyOp) : CopyForm :=
  match c.instr with
  | .cpyx f => .gather f.rowb
  | .cpya f => .scatter f.mod.toNat f.rowb
  | .ebag f => .bag f.mod.toNat f.rowb f.mean
  | .cpyScratchFromDevice f => .plain f.len
  | .cpyDeviceFromScratch f => .plain f.len
  | .cpyScratchFromScratch f => .plain f.len
  | .cpyDeviceFromDevice f => .plain f.len
  | _ => .plain 0

/-- The taken indices in lane order (R130). -/
def CopyOp.rows (c : CopyOp) : List Nat := ((List.range 32).filter fun i => c.mask.getLsbD i).map fun i => (lane32 c.vi i).toNat

/-- Blocks of 64 bytes, or rows. -/
def CopyOp.total (c : CopyOp) : Nat := match c.form with | .plain n => (n + 63) / 64 | _ => c.rows.length

/-- The completion value of an operation performed whole: bytes, or taken rows (R339, R130). -/
def CopyOp.value (c : CopyOp) : Nat := match c.form with | .plain n => n | _ => c.rows.length

/-- The value of an operation that stopped: bytes written, or rows completed (R340, R341, R349). -/
def CopyOp.stopped (c : CopyOp) : Nat := match c.form with | .plain n => min (64 * c.units) n | _ => c.units

/-- Ranges written so far. -/
def CopyOp.written (c : CopyOp) : List (Target × Nat) :=
  match c.form with
  | .plain n => if c.units = 0 then [] else [(c.dst, min (64 * c.units) n)]
  | .gather rowb => if c.units = 0 then [] else [(c.dst, c.units * rowb)]
  | .scatter _ rowb => (c.rows.take c.units).map fun i => (c.dst.plus (i * rowb), rowb)
  | .bag .. => []

/-- Bytes of an element in MOD's float format (R130). -/
def elemBytes (fmt : Nat) : Nat := if fmt = 0 then 4 else 2

/-- The numbers of a row's elements, lowest first. -/
def elemsOf (fmt : Nat) (bs : List Byte) : List Nat := lanesOf (8 * elemBytes fmt) (bs.length / elemBytes fmt) (leNat bs)
def elemBytesOf (fmt : Nat) (es : List Nat) : List Byte := bytesOf (es.length * elemBytes fmt) (joinLanes (8 * elemBytes fmt) es)

/-- EBAG's output element from its sum (R132). -/
def bagOut (fmt t : Nat) (mean : Bool) (acc : Nat) : Nat :=
  let m := match mean && decide (0 < t), c32 acc with
    | true, .fin neg a e => (FFmt.f32.roundRat .rne false neg a t e).1
    | _, _ => acc
  bankRound fmt (c32 m)

/-! ## Performing -/

/-- The outcome of one block or row: performed, stopped with a word, or the lease violated at an offset. -/
inductive UnitEnd where
  | done
  | stop (w : Word)
  | lease (off : Nat)
  deriving DecidableEq, Repr

/-- A device range of an operation within its job's lease (R52)? Its offset when not. -/
def State.opLease (s : State) (o : Op) (t : Target) (n : Nat) (w a : Bool) : Option Nat :=
  match t with
  | .scr .. => none
  | .dev sid obj off => if s.leased (some o.job) sid obj off n w a then none else some off

/-- The device accesses of an operation's blocks or rows, with the kinds they need (R52). -/
def CopyOp.accesses (c : CopyOp) : List (Target × Nat × Bool × Bool) :=
  (List.range (if c.skip then 0 else c.total)).flatMap fun u =>
    let row := c.rows.getD u 0
    match c.form with
    | .plain len => let n := min 64 (len - 64 * u); [(c.src.plus (64 * u), n, false, false), (c.dst.plus (64 * u), n, true, false)]
    | .scatter _ rowb => [(c.dst.plus (row * rowb), rowb, false, true)]
    | .gather rowb | .bag _ rowb _ => [(c.src.plus (row * rowb), rowb, false, false)]

/-- An engine write under a watchpoint of kind ENG (R249, R250). -/
def State.engineWatch (s : State) (o : Op) (c : CopyOp) (t : Target) (n : Nat) : State :=
  match s.watch o.who.core .eng [(t, n)] with
  | none => s
  | some (k, ea) => s.sendWatch o.who ea (k * 2 ^ 8 + c.q * 2 ^ 11 + (OpKind.copy c).report.2 * 2 ^ 13) o.seq

/-- An engine write of whole units with its watchpoint. -/
def State.engineWrite (s : State) (o : Op) (c : CopyOp) (t : Target) (bs : List Byte) : State :=
  ((State.putUnits (bs.length + 1) (s.toWrite t bs.length) t bs).1).engineWatch o c t bs.length

/-- The tags of the whole granules that a copy reads, where it keeps them: between device ranges when both capabilities carry L (R86). -/
def State.copyTags (s : State) (c : CopyOp) (a : Target) (n : Nat) : List Bool :=
  match a with
  | .dev sid obj off =>
    if CapF.l c.ca && CapF.l c.cb then (List.range (n / 16)).map fun i => s.devTag sid obj (off + 16 * i) else []
  | .scr .. => []

/-- Tags put on the granules of a written range, after the write has cleared them (R86). -/
def State.putTags (s : State) (t : Target) (ts : List Bool) : State :=
  match t with
  | .dev sid obj off => ((List.range ts.length).zip ts).foldl (fun s p => s.setTag sid obj (off + 16 * p.1) p.2) s
  | .scr .. => s

/-- A read of a copy's source; one that a router has merged with another's counts in no heat count (R98). -/
def State.copyTouch (s : State) (port : Nat) (c : CopyOp) (a : Target) (n : Nat) : Option State :=
  (s.touch port a n true).map fun s' => if c.merged then s.uncounted s' else s'

/-- One block or row (R339, R341): read, then written, each part checked against the lease. None: an access must wait. -/
def State.copyUnit (s : State) (o : Op) (c : CopyOp) : Option (State × CopyOp × UnitEnd) :=
  let port := o.who.core
  match c.form with
  | .plain len =>
    let n := min 64 (len - 64 * c.units)
    let a := c.src.plus (64 * c.units)
    let b := c.dst.plus (64 * c.units)
    (match (s.opLease o a n false false).or (s.opLease o b n true false) with
     | some off => some (s, c, .lease off)
     | none =>
       match s.copyTouch port c a n with
       | none => none
       | some s =>
         match s.touch port b n false with
         | none => none
         | some s =>
           if s.badAt a n then
             some ((s.unc a n).1, c, .stop (faultWord 0x41 c.stopped))
           else
             let s' := (s.engineWrite o c b (s.bytesAt a n)).putTags b (s.copyTags c a n)
             some (s', { c with units := c.units + 1 }, .done))
  | .gather rowb =>
    let a := c.src.plus (c.rows.getD c.units 0 * rowb)
    (match s.opLease o a rowb false false with
     | some off => some (s, c, .lease off)
     | none =>
       match s.touch port a rowb true with
       | none => none
       | some s =>
         if s.badAt a rowb then some ((s.unc a rowb).1, c, .stop (faultWord 0x41 c.units))
         else some (s.engineWrite o c (c.dst.plus (c.units * rowb)) (s.bytesAt a rowb), { c with units := c.units + 1 }, .done))
  | .scatter fmt rowb =>
    let a := c.src.plus (c.units * rowb)
    let b := c.dst.plus (c.rows.getD c.units 0 * rowb)
    (match s.opLease o b rowb false true with
     | some off => some (s, c, .lease off)
     | none =>
       match s.touch port b rowb true with
       | none => none
       | some s =>
         if s.badAt a rowb then some ((s.unc a rowb).1, c, .stop (faultWord 0x41 c.units))
         else if s.badAt b rowb then some ((s.unc b rowb).1, c, .stop (faultWord 0x41 c.units))
         else
           let sum := ((elemsOf fmt (s.bytesAt b rowb)).zip (elemsOf fmt (s.bytesAt a rowb))).map fun p => bankLane 0 fmt p.1 p.2 0
           some (s.engineWrite o c b (elemBytesOf fmt sum), { c with units := c.units + 1 }, .done))
  | .bag fmt rowb _ =>
    let a := c.src.plus (c.rows.getD c.units 0 * rowb)
    (match s.opLease o a rowb false false with
     | some off => some (s, c, .lease off)
     | none =>
       match s.touch port a rowb true with
       | none => none
       | some s =>
         if s.badAt a rowb then some ((s.unc a rowb).1, c, .stop (faultWord 0x41 c.units))
         else
           let es := elemsOf fmt (s.bytesAt a rowb)
           let old := if c.acc.isEmpty then List.replicate es.length 0 else c.acc
           let acc := (old.zip es).map fun p => (FFmt.f32.round .rne false (sumNum .rne [c32 p.1, bankDecode fmt p.2])).1
           some (s, { c with units := c.units + 1, acc := acc }, .done))

/-- Up to `fuel` further blocks or rows, until an end; none when the first must wait. -/
def State.copyUnits : Nat → State → Op → CopyOp → Option (State × CopyOp × UnitEnd)
  | 0, s, _, c => some (s, c, .done)
  | fuel + 1, s, o, c =>
    if c.skip || decide (c.total ≤ c.units) then some (s, c, .done) else
    match s.copyUnit o c with
    | none => none
    | some (s, c, .done) => State.copyUnits fuel s o c
    | r => r

/-- Blocks or rows of an operation performed, their addresses translated by its core's port (R92). -/
def State.copyRun (s : State) (core units : Nat) (o : Op) (c : CopyOp) : Option (State × CopyOp × UnitEnd) :=
  (State.copyUnits units { s with via := some core } o c).map fun r => (s.landed r.1, r.2)

/-- The items of a queue in a core's engine order that stand before any other of that queue: its first operation, when no QFENCE over
the queue stands before it (R97, R199). -/
def queueHead (q : Nat) : List QItem → Option Nat
  | [] => none
  | .op n k :: rest => if k = q then some n else queueHead q rest
  | .fence m _ _ :: rest => if m.getLsbD q then none else queueHead q rest

/-- What one queue holds: its operations, and the markers over it (R97, R384). -/
def queueLoad (q : Nat) (l : List QItem) : Nat :=
  (l.filter fun i => match i with | .op _ k => k == q | .fence m _ _ => m.getLsbD q).length

def State.engineOf (s : State) (core : Nat) : List QItem := (s.engine.get core).getD []

/-- The operation at the head of a queue. -/
def State.queueOp (s : State) (core q : Nat) : Option (Nat × Op × CopyOp) :=
  match queueHead q (s.engineOf core) with
  | none => none
  | some n => match s.ops.get n with
    | some o => (match o.kind with | .copy c => some (n, o, c) | _ => none)
    | none => none

def State.putOp (s : State) (n : Nat) (o : Op) (c : CopyOp) : State := { s with ops := s.ops.set n { o with kind := .copy c } }

/-- Every earlier store of a context performed, as an engine operation's begin asks (R193): its held ones, and none on its way to unit space,
no MST pending. -/
def State.storesDone (s : State) (a : Agent) : Option (State × Sent) :=
  match a with
  | .handler _ => some (s, [])
  | .ctx c =>
    if s.matrixStores c || s.unitq.any (fun q => q.1 == c) then none else
    match s.drainHeld a fun _ => true with
    | none => none
    | some (s, ps) => some (s, ps.map fun p => (c, p))

/-- May a router merge a copy that begins with one that has begun and read nothing (R98)? -/
def State.mergeable (s : State) (n : Nat) (o : Op) (c : CopyOp) : Bool :=
  let at_ (t : Target) : Nat := match t with | .scr _ x => x | .dev _ _ x => x
  let onScratch (c : CopyOp) : Bool := match c.src, c.dst, c.form with | .dev .., .scr .., .plain _ => c.slot.isNone && ! c.skip | _, _, _ => false
  onScratch c && s.ops.any fun p => p.1 != n && clusterOf p.2.who.core == clusterOf o.who.core && spaceSid p.2.space == spaceSid o.space &&
    match p.2.kind with
    | .copy e => onScratch e && e.begun && ! e.merged && e.units == 0 && e.src == c.src && e.form == c.form && at_ e.dst == at_ c.dst
    | _ => false

/-- An operation begins: its context's stores are performed (R339), and a router may merge it with another (R98; whether it does is a free
choice, LOG 43). None: it cannot begin yet. -/
def State.copyStart (s : State) (n : Nat) (o : Op) (c : CopyOp) : Option (State × CopyOp) :=
  if c.begun then some (s, c) else
  match s.storesDone (.ctx o.who) with
  | none => none
  | some (s, ps) =>
    let joins := s.mergeable n o c && (Config.freeValue (s.freeTick * 2 ^ 48 + 2 ^ 39 + 7)).getLsbD 0
    let c := { c with begun := true, merged := joins }
    some ((s.putOp n o c).send ps, c)

/-- Does a target lie in a frame's allocation? -/
def Frame.holds (f : Frame) (core : Nat) : Target → Bool
  | .scr c off => c == core && decide (f.block * 4096 ≤ off) && decide (off < (f.block + f.blocks) * 4096)
  | .dev .. => false

/-- Does a range meet a frame's allocation? -/
def Frame.meets (f : Frame) (core : Nat) (t : Target) (n : Nat) : Bool :=
  t.meets n (.scr core (f.block * 4096)) (f.blocks * 4096)

/-- The scratch range that a copy writes, and the one that it reads. -/
def CopyOp.into (c : CopyOp) : Target × Nat :=
  (c.dst, match c.form with | .plain n => n | .gather rowb => c.rows.length * rowb | .bag _ rowb _ => rowb | .scatter .. => 0)
def CopyOp.from_ (c : CopyOp) : Target × Nat :=
  (c.src, match c.form with | .plain n => n | .scatter _ rowb => c.rows.length * rowb | _ => 0)

/-- Has a begun copy into the scratch of one of these frames, or with `reads` one that reads it, still to complete (R40, R68 step 3)? -/
def State.engineBusy (s : State) (frames : List (Nat × Nat)) (reads : Bool := true) : Bool :=
  s.ops.any fun (p : Nat × Op) => match p.2.kind with
    | .copy c => c.begun && frames.any fun k => match s.frames.get k with
      | some f => f.meets k.1 c.into.1 c.into.2 || (reads && f.meets k.1 c.from_.1 c.from_.2)
      | none => false
    | _ => false

/-- The pre-emptions whose engine operations are drained note it (R69). -/
def State.noteDrained (s : State) : State :=
  { s with preempts := s.preempts.map fun (p : Nat × Preempt) =>
      if p.2.save && p.2.step3.isNone && ! s.engineBusy p.2.frames then (p.1, { p.2 with step3 := some s.clock }) else p }

/-- The completion of a copy into [cbn] publishes the slot once the context's earlier bank commands are performed (R110, R194). -/
def State.slotCommands (s : State) (o : Op) (c : CopyOp) : State :=
  if c.slot.isNone then s else
  let r := s.performCmds o.who.core (lastSel (s.coreOf o.who.core).cmds fun q => q.who == o.who)
  r.1.send r.2

/-- An operation leaves its queue and completes (R339, R349, R52): its marking, its slot, its handle. The PC of a kill's error record is the
operation's (R42; DESIGN CHOICE, LOG 107). -/
def State.copyFinish (s : State) (core n : Nat) (o : Op) (c : CopyOp) (e : UnitEnd) : State :=
  let s := match c.form, e with
    | .bag fmt rowb mean, .done =>
      if c.cancelled || c.skip then s
      else
        let acc := if c.acc.isEmpty then List.replicate (rowb / elemBytes fmt) 0 else c.acc
        s.engineWrite o c c.dst (elemBytesOf fmt (acc.map (bagOut fmt c.rows.length mean)))
    | _, _ => s
  let s := ((s.markStep (devRanges c.written)).noteWin n c.written).slotCommands o c
  let s := match c.slot with
    | some (b, _) => s.updFrame o.who.core o.who.frm fun f =>
        f.setCb b ((f.cb b).publish fun e => e.2.2.1 == n && e.2.1.isNone)
    | none => s
  let s := { s with engine := s.engine.set core (fenceSettle ((s.engineOf core).filter fun i => match i with | QItem.op k _ => k != n | _ => true) 0) }
  match e with
  | .stop w => (s.finishOp n w).noteDrained
  | .lease off =>
    (s.finishOp n (faultWord 0x13 0)).noteDrained.kill o.who.core o.who.frm ⟨0x13, ctxNo o.who.kind, BitVec.ofNat 64 off, o.pc⟩
  | .done =>
    (if c.skip then s.finishOp n 0
    else if c.cancelled then s.finishOp n (faultWord 0x7E c.stopped)
    else s.finishOp n (okWord c.value)).noteDrained

/-! ## Events -/

/-- May an operation complete: no marking of its writes delayed (R142), and for a [cbn] slot no bank half of its context to come (R110)? -/
def State.copyHeld (s : State) (o : Op) (c : CopyOp) : Bool :=
  s.markHeld (devRanges c.written) || (c.slot.isSome && s.halfPending o.who)

/-- COPY_BEGIN (R339): the head of a queue begins, and performs `units` of its blocks or rows. No operation of a frame that is being saved begins
(R68). -/
def execCopyBegin (core q units : Nat) (s : State) : Host.Outcome State Fault Refusal :=
  match s.queueOp core q with
  | none => .next s
  | some (n, o, c) =>
    if c.cancelled ∨ (! c.begun ∧ s.saving (o.who.core, o.who.frm)) then .next s else
    match s.copyStart n o c with
    | none => .next s
    | some (s1, c1) =>
      if (s1.ops.get n).isNone then .next s1 else
      match s1.copyRun core units o c1 with
      | none => .next s1
      | some (s2, c2, .done) => .next (s2.putOp n o c2)
      | some (s2, c2, e) => .next (if s2.copyHeld o c2 then s1 else s2.copyFinish core n o c2 e)

/-- COPY_COMPLETE (R339): a begun operation performs the rest, or stops where it was cancelled, and completes once the marking that a tile's
ninth attempt delays can be done (R141, R142). -/
def execCopyComplete (core q : Nat) (s : State) : Host.Outcome State Fault Refusal :=
  match s.queueOp core q with
  | none => .next s
  | some (n, o, c) =>
    if ! c.begun then .next s
    else if c.cancelled then .next (if s.copyHeld o c then s else s.copyFinish core n o c .done)
    else
      match s.copyRun core c.total o c with
      | none => .next s
      | some (s', c', .done) => .next (if s'.copyHeld o c' then s'.putOp n o c' else s'.copyFinish core n o c' .done)
      | some (s', c', e) => .next (if s'.copyHeld o c' then s else s'.copyFinish core n o c' e)

/-! ## Issue -/

/-- The buffer that a [cbn] destination names (R337): a k specifier in SA. -/
def cbDest (o : Operand) : Option (BitVec 3) := match o with | .k n => some n | _ => none

/-- [cbn] by a context that is not the producer, or over a disabled buffer, raises 0x07 (R338, R35). -/
def cbnMisuse (f : Fld) (s : State) (_ : Ctx) : Option (BitVec 32) :=
  match cbDest f.sa with
  | none => none
  | some n => match s.cbOf n with
    | none => none
    | some b => if ! b.en || s.curNo != b.prod then some (n.zeroExtend 32) else none

/-- A scratch operand of an engine (R79, R338): any core of the device, n bytes. -/
def State.engineRange (s : State) (a : Word) (n : Nat) : Except Halt Target := do
  let (core, u, off) ← s.localChk a 0
  if u || decide (0x80000 < off + n) then trap 0x14 (localEaddr a 0) 0 else .ok (.scr core off)

/-- The alignment of a scratch operand of an engine (R338). -/
def alignChk (a : Word) (t : Target) (al : Nat) : Except Halt Unit := if t.off % al ≠ 0 then trap 0x15 (localEaddr a 0) 0 else .ok ()

def State.engineScratch (s : State) (a : Word) (n al : Nat) : Except Halt Target := do
  let t ← s.engineRange a n
  alignChk a t al
  .ok t

/-- A scratch destination: an address, or the next slot of a buffer, which must hold n bytes (R338, R130). The flag says that the buffer
is shut (R36). -/
def State.destRange (s : State) (y : Ctx) (f : Fld) (n : Nat) : Except Halt (Target × Option (BitVec 3 × Nat) × Bool) :=
  match cbDest f.sa with
  | none => do
    let t ← s.engineRange (srcW y f s.pairView.isSome f.sa) n
    .ok (t, none, false)
  | some k =>
    match s.curFrame with
    | none => .error (.wait s)
    | some fr =>
      let b := fr.cb k
      let off := fr.slotOff b b.prodPos
      if b.slotBytes < n then trap 0x14 (BitVec.ofNat 64 (absLocal s.curCore off)) 0
      else .ok (.scr s.curCore off, (if b.shut then none else some (k, b.prodPos)), b.shut)

/-- The alignment of a scratch destination; a slot is aligned as its buffer is. -/
def destAlign (s : State) (y : Ctx) (f : Fld) (t : Target) (al : Nat) : Except Halt Unit :=
  match cbDest f.sa with
  | none => alignChk (srcW y f s.pairView.isSome f.sa) t al
  | some _ => .ok ()

def State.engineDest (s : State) (y : Ctx) (f : Fld) (n al : Nat) : Except Halt (Target × Option (BitVec 3 × Nat) × Bool) := do
  let d ← s.destRange y f n
  destAlign s y f d.1 al
  .ok d

/-- A copy that has passed its checks is queued (R97, R18, R32): its accesses lie within the lease as it issues (R98); it waits while its queue or
its buffer is full, and while an earlier load or atomic with .ACQ has not returned (R193, R195). -/
def State.queueCopy (s : State) (f : Fld) (mk : CopyOp) : Except Halt Eff :=
  match s.cur with
  | .handler _ => .error (.wait s)
  | .ctx c =>
    match s.ctxs.get s.cur, s.frameOf c with
    | some x, some fr =>
      match mk.accesses.find? fun a => ! s.granted s.cur a.1 a.2.1 a.2.2.1 a.2.2.2 with
      | some a => .error (.kill 0x13 a.1.eaddr)
      | none =>
      let full := match mk.slot with | some (k, _) => (fr.cb k).free == 0 | none => false
      if full || x.acqPending || decide (32 ≤ queueLoad mk.q (s.engineOf c.core)) then .error (.wait s) else
      let (n, s) := s.newOp { who := c, space := x.space, job := fr.task.job, kind := .copy mk, pc := x.pc, seq := x.issued }
      let s := match mk.slot with
        | some (k, _) => s.setFrame c.core c.frm (fr.setCb k ((fr.cb k).take none n))
        | none => s
      let s := { s with engine := s.engine.set c.core (s.engineOf c.core ++ [QItem.op n mk.q]) }
      .ok { s := s.me fun x => x.writeHandle f.dst (.pending n) }
    | _, _ => .error (.wait s)

/-- A device operand of CPY (R338): R84 with alignment to 16 bytes. -/
def State.copyDev (s : State) (y : Ctx) (b : Operand) (g : Word) (n : Nat) (dest : Bool) : Except Halt Target := do
  let o ← s.capChk y b (capOff g 0) n { r := ! dest, w := dest } 16
  .ok (.dev (spaceSid y.space) (CapF.obj (srcC y b)) o)

/-- A copy with its operands, before anything is done. -/
def newCopy (i : Instr) (f : Fld) (src dst : Target) : CopyOp :=
  { instr := i, q := f.queue.toNat, ca := 0, cb := 0, ga := 0, gc := 0, vi := 0, mask := 0, src := src, dst := dst, slot := none, skip := false,
    begun := false, units := 0, acc := [], err := none, cancelled := false }

/-- CPY into scratch from device memory (R337, MOD 0). -/
def execCpyScratchFromDevice (f : Fld) (s : State) : Host.Outcome State Fault Refusal :=
  issue (.cpyScratchFromDevice f) { dyn07 := cbnMisuse f } (fun y s => do
    let pair := s.pairView.isSome
    let src ← s.copyDev y f.sb (srcW y f pair f.sc) f.len false
    let (dst, slot, skip) ← s.engineDest y f f.len 16
    s.queueCopy f { newCopy (.cpyScratchFromDevice f) f src dst with
      cb := srcC y f.sb, ga := srcW y f pair f.sa, gc := srcW y f pair f.sc, slot := slot, skip := skip }) s

/-- CPY into device memory from scratch (MOD 1). -/
def execCpyDeviceFromScratch (f : Fld) (s : State) : Host.Outcome State Fault Refusal :=
  issue (.cpyDeviceFromScratch f) {} (fun y s => do
    let pair := s.pairView.isSome
    let dst ← s.copyDev y f.sa (srcW y f pair f.sb) f.len true
    s.derivedChk y (CapF.obj (srcC y f.sa)) dst.off
    let src ← s.engineScratch (srcW y f pair f.sc) f.len 16
    s.queueCopy f { newCopy (.cpyDeviceFromScratch f) f src dst with
      ca := srcC y f.sa, ga := srcW y f pair f.sb, gc := srcW y f pair f.sc }) s

/-- CPY between scratchpads (MOD 2). -/
def execCpyScratchFromScratch (f : Fld) (s : State) : Host.Outcome State Fault Refusal :=
  issue (.cpyScratchFromScratch f) { dyn07 := cbnMisuse f } (fun y s => do
    let pair := s.pairView.isSome
    let (dst, slot, skip) ← s.destRange y f f.len
    let src ← s.engineRange (srcW y f pair f.sc) f.len
    destAlign s y f dst 16
    alignChk (srcW y f pair f.sc) src 16
    s.queueCopy f { newCopy (.cpyScratchFromScratch f) f src dst with
      ga := srcW y f pair f.sa, gc := srcW y f pair f.sc, slot := slot, skip := skip }) s

/-- The source-offset register of a MOD 3 copy: IMM[23:20] (R337). -/
def Fld.cpyReg (f : Fld) : BitVec 6 := (f.imm.extractLsb' 20 4).zeroExtend 6

/-- CPY within device memory (MOD 3). -/
def execCpyDeviceFromDevice (f : Fld) (s : State) : Host.Outcome State Fault Refusal :=
  issue (.cpyDeviceFromDevice f) { regs := [.g (Fld.cpyReg f)] } (fun y s => do
    let pair := s.pairView.isSome
    let dst ← s.copyDev y f.sa (srcW y f pair f.sb) f.len true
    let src ← s.copyDev y f.sc (y.readG (Fld.cpyReg f)) f.len false
    s.derivedChk y (CapF.obj (srcC y f.sa)) dst.off
    s.queueCopy f { newCopy (.cpyDeviceFromDevice f) f src dst with
      ca := srcC y f.sa, cb := srcC y f.sc, ga := srcW y f pair f.sb, gc := y.readG (Fld.cpyReg f) }) s

/-- The index register of CPYX, CPYA and EBAG: IMM[23:19] (R130). -/
def Fld.vi (f : Fld) : BitVec 5 := f.imm.extractLsb' 19 5

/-- Every taken row checked by R84 in lane order (R130). -/
def State.rowsChk (s : State) (y : Ctx) (b : Operand) (g : Word) (rowb : Nat) (need : Needs) : List Nat → Except Halt Unit
  | [] => .ok ()
  | i :: is => do
    let _ ← s.capChk y b (capOff g (i * rowb)) rowb need (min rowb 128)
    State.rowsChk s y b g rowb need is

/-- The derived-object check of each taken row (R143). -/
def State.rowsDerived (s : State) (y : Ctx) (b : Operand) (g : Word) (rowb : Nat) : List Nat → Except Halt Unit
  | [] => .ok ()
  | i :: is => do
    s.derivedChk y (CapF.obj (srcC y b)) (g.toNat + i * rowb)
    State.rowsDerived s y b g rowb is

/-- The taken indices of a mask over an index vector. -/
def takenRows (m : BitVec 32) (v : Vec) : List Nat := ((List.range 32).filter fun i => m.getLsbD i).map fun i => (lane32 v i).toNat

/-- The device rows of a gathering operation. -/
def devBase (y : Ctx) (b : Operand) (g : Word) : Target := .dev (spaceSid y.space) (CapF.obj (srcC y b)) g.toNat

/-- The mask of these three selects lanes and does not suppress them (R130). -/
def rowPre (f : Fld) : Pre := { gated := false, regs := [.v (Fld.vi f)] }

/-- CPYX (R131). -/
def execCpyx (f : Fld) (s : State) : Host.Outcome State Fault Refusal :=
  issue (.cpyx f) { rowPre f with dyn07 := cbnMisuse f } (fun y s => do
    let pair := s.pairView.isSome
    let g := srcW y f pair f.sc
    let rows := takenRows (y.mask32 f) (y.readV (Fld.vi f))
    s.rowsChk y f.sb g f.rowb { r := true } rows
    let (dst, slot, skip) ← s.engineDest y f (rows.length * f.rowb) 64
    s.queueCopy f { newCopy (.cpyx f) f (devBase y f.sb g) dst with
      cb := srcC y f.sb, ga := srcW y f pair f.sa, gc := g, vi := y.readV (Fld.vi f), mask := y.mask32 f, slot := slot, skip := skip }) s

/-- EBAG (R132): one row of output. -/
def execEbag (f : Fld) (s : State) : Host.Outcome State Fault Refusal :=
  issue (.ebag f) { rowPre f with dyn07 := cbnMisuse f } (fun y s => do
    let pair := s.pairView.isSome
    let g := srcW y f pair f.sc
    let rows := takenRows (y.mask32 f) (y.readV (Fld.vi f))
    s.rowsChk y f.sb g f.rowb { r := true } rows
    let (dst, slot, skip) ← s.engineDest y f f.rowb 64
    s.queueCopy f { newCopy (.ebag f) f (devBase y f.sb g) dst with
      cb := srcC y f.sb, ga := srcW y f pair f.sa, gc := g, vi := y.readV (Fld.vi f), mask := y.mask32 f, slot := slot, skip := skip }) s

/-- CPYA (R133): it needs A, and its rows are added in device memory. -/
def execCpya (f : Fld) (s : State) : Host.Outcome State Fault Refusal :=
  issue (.cpya f) (rowPre f) (fun y s => do
    let pair := s.pairView.isSome
    let g := srcW y f pair f.sb
    let rows := takenRows (y.mask32 f) (y.readV (Fld.vi f))
    s.rowsChk y f.sa g f.rowb { a := true } rows
    s.rowsDerived y f.sa g f.rowb rows
    let src ← s.engineScratch (srcW y f pair f.sc) (rows.length * f.rowb) 64
    s.queueCopy f { newCopy (.cpya f) f src (devBase y f.sa g) with
      ca := srcC y f.sa, ga := g, gc := srcW y f pair f.sc, vi := y.readV (Fld.vi f), mask := y.mask32 f }) s

/-- QFENCE (R384): one marker over the set; it waits while a queue of the set is full. -/
def execQfence (f : Fld) (s : State) : Host.Outcome State Fault Refusal :=
  issue (.qfence f) {} (fun _ s => match s.curId with
   | none => .ok { s := s }
   | some who =>
    let m : BitVec 4 := f.imm.extractLsb' 0 4
    let l := s.engineOf s.curCore
    if (List.range 4).any fun q => m.getLsbD q && decide (32 ≤ queueLoad q l) then .error (.wait s)
    else .ok { s := { s with engine := s.engine.set s.curCore (fenceSettle (l ++ [QItem.fence m (some who) (encode (.qfence f))]) 0) } }) s

/-! ## Futures (R348 to R351, R356) -/

/-- FWAIT (R356): an empty handle gives 0 at once and acquires nothing. -/
def execFwait (f : Fld) (s : State) : Host.Outcome State Fault Refusal :=
  issue (.fwait f) {} (fun y s => do
    let h := srcH y f.sa
    let w ← readHandle s h
    .ok (scalarResult (s.observe h) f.dst w)) s

def execFtest (f : Fld) (s : State) : Host.Outcome State Fault Refusal :=
  issue (.ftest f) {} (fun y s => .ok (scalarResult s f.dst (if (srcH y f.sa).word.isSome then 1 else 0))) s

def execFjoin (f : Fld) (s : State) : Host.Outcome State Fault Refusal :=
  issue (.fjoin f) {} (fun y s =>
    let h := Handle.join (srcH y f.sa) (srcH y f.sb)
    .ok { s := s.me fun x => ((x.writeHandle f.sa .empty).writeHandle f.sb .empty).writeHandle f.dst h }) s

/-- A DSYNC that has nothing left to do completes (R144): begun tiles whose recompute has ended are counted; it ends when none is open and
none is left to begin. -/
def State.settleDsync (s : State) (n : Nat) : State :=
  match s.ops.get n with
  | none => s
  | some o =>
    match o.kind with
    | .dsync d next begun written stop =>
      let open_ := begun.filter fun t => (s.tile d t).busy.isSome
      let written := written + (begun.length - open_.length)
      let left := match s.derivs.get d with
        | some e => (List.range e.tiles).any fun t => decide (next ≤ t) && (s.tile d t).stale
        | none => false
      if open_.isEmpty && (stop.isSome || ! left) then
        s.finishOp n (match stop with | some c => faultWord c written | none => okWord written)
      else { s with ops := s.ops.set n { o with kind := .dsync d next open_ written stop } }
    | _ => s

/-- A cancellation reaches an operation (R349). -/
def State.cancelOp (s : State) (n : Nat) : State :=
  match s.ops.get n with
  | none => s
  | some o =>
    match o.kind with
    | .copy c =>
      if c.begun then s.putOp n o { c with cancelled := true }
      else s.copyFinish o.who.core n o { c with cancelled := true, skip := false } .done
    | .chain k =>
      if s.trigq.any fun (p : Nat × List Trigger) => p.2.any fun t => t.chain == k && t.first then
        let q := s.trigq.map fun (p : Nat × List Trigger) => (p.1, p.2.filter fun t => t.chain != k)
        ({ s with trigq := q, chains := s.chains.del k }).finishOp n (faultWord 0x7E 0)
      else s
    | .reduce =>
      if s.redq.any fun (p : Nat × List RedReq) => p.2.any fun r => r.op == n && r.done.isNone then
        ({ s with redq := s.redq.map fun (p : Nat × List RedReq) => (p.1, p.2.filter fun r => r.op != n || r.done.isSome) }).finishOp n (faultWord 0x7E 0)
      else s
    | .dsync d next begun written _ =>
      ({ s with ops := s.ops.set n { o with kind := .dsync d next begun written (some 0x7E) } }).settleDsync n
    | .lease k =>
      match s.leaseExts.get k with
      | none => s
      | some e =>
        let s := match e.key with
          | some o => { s with arrivals := s.arrivals ++ [s.ownArrival o] }
          | none => s
        ({ s with leaseExts := s.leaseExts.del k }).finishOp n (faultWord 0x7E 0)
    | .mvb _ => { s with ops := s.ops.set n { o with kind := .mvb true } }
    | .save _ => s
    | .restore _ => s

/-- FCANCEL (R349): an empty or complete handle is left alone; a joined one cancels both. -/
def execFcancel (f : Fld) (s : State) : Host.Outcome State Fault Refusal :=
  issue (.fcancel f) {} (fun y s => .ok { s := (srcH y f.sa).ops.foldl State.cancelOp s }) s

/-! ## SHIP and MSG -/

/-- A trigger joins the queue of a slice (R224). -/
def State.trigger (s : State) (slice : Nat) (t : Trigger) : State :=
  { s with trigq := s.trigq.set slice (((s.trigq.get slice).getD []) ++ [t]) }

/-- The second operand register of SHIP and MSG: IMM[23:18] (R393, R379). -/
def Fld.second (f : Fld) : BitVec 6 := f.imm.extractLsb' 18 6

/-- SHIP to a handler (R226, R394). -/
def execShipHandler (f : Fld) (s : State) : Host.Outcome State Fault Refusal :=
  issue (.shipHandler f) { regs := [.g (Fld.second f)] } (fun y s => do
    let pair := s.pairView.isSome
    let o ← s.capChk y f.sa (capOff (srcW y f pair f.sb) 0) 8 { x := true } 8
    match s.cur, s.curFrame with
    | .ctx c, some fr =>
      (match (if y.acqPending then none else s.storesDone s.cur) with
       | none => .error (.wait s)
       | some (s, ps) =>
         let ch := s.nextId
         let s := { s with nextId := ch + 1 }
         let (n, s) := s.newOp { who := c, space := y.space, job := fr.task.job, kind := .chain ch, pc := y.pc, seq := y.issued }
         let chain : Chain := { op := some n, page := none, space := y.space, job := some fr.task.job, started := 1, live := 1, word := none, g1 := 0 }
         let s := { s with chains := s.chains.set ch chain }
         let s := s.trigger (s.sliceOf (spaceSid y.space) (CapF.obj (srcC y f.sa)) o)
           { chain := ch, first := true, h := (f.imm.extractLsb' 0 4).toNat, off := BitVec.ofNat 64 o, g2 := srcW y f pair f.sc,
             g3 := y.readG (Fld.second f), g4 := corexy c.core, b1 := srcC y f.sa }
         .ok { s := (s.me fun x => x.writeHandle f.dst (.pending n)).send ps })
    | _, _ => .error (.wait s)) s

/-- SHIP to the reduction engine (R230, R394). -/
def execShipRed (f : Fld) (s : State) : Host.Outcome State Fault Refusal :=
  issue (.shipRed f) { regs := [.g (Fld.second f)] } (fun y s => do
    let o ← s.capChk y f.sa (capOff (srcW y f s.pairView.isSome f.sb) 0) 64 { r := true, x := true } 64
    match s.cur, s.curFrame with
    | .ctx c, some fr =>
      (match (if y.acqPending then none else s.storesDone s.cur) with
       | none => .error (.wait s)
       | some (s, ps) =>
         let (n, s) := s.newOp { who := c, space := y.space, job := fr.task.job, kind := .reduce, pc := y.pc, seq := y.issued }
         let stack := s.sliceOf (spaceSid y.space) (CapF.obj (srcC y f.sa)) o / 20
         let req : RedReq := { op := n, cap := srcC y f.sa, off := o, space := y.space, job := fr.task.job }
         let s := { s with redq := s.redq.set stack (((s.redq.get stack).getD []) ++ [req]) }
         .ok { s := (s.me fun x => x.writeHandle f.dst (.pending n)).send ps })
    | _, _ => .error (.wait s)) s

/-- The frame whose allocation holds a scratch byte. -/
def State.ownerOf (s : State) (core off : Nat) : Option ((Nat × Nat) × Frame) :=
  s.frames.find? fun p => p.1.1 == core && decide (p.2.block * 4096 ≤ off) && decide (off < (p.2.block + p.2.blocks) * 4096)

/-- Is a scratch byte in the block of a frame whose STATUS.DN is set (R379, R44)? Its computer context. -/
def State.doneOwner (s : State) (core off : Nat) : Option CtxId :=
  match s.ownerOf core off with
  | none => none
  | some (k, _) =>
    match s.ctxs.get (.ctx ⟨k.1, k.2, .computer⟩) with
    | some x => if x.dn then some ⟨k.1, k.2, .computer⟩ else none
    | none => none

/-- MSG to scratch (R379): everything earlier of the context is published, then 16 bytes are written as one access. -/
def execMsgScratch (f : Fld) (s : State) : Host.Outcome State Fault Refusal :=
  issue (.msgScratch f) {} (fun y s => do
    let pair := s.pairView.isSome
    let a := srcW y f pair f.sa
    if (match s.cur with | .handler _ => a.getLsbD 31 | .ctx _ => false) then trap 0x14 (localEaddr a 0) 0
    let t ← s.engineScratch a 16 16
    let (core, off) := (match t with | .scr c o => (c, o) | .dev _ _ o => (0, o) : Nat × Nat)
    let bytes := bytesOf 8 (srcW y f pair f.sb).toNat ++ bytesOf 8 (srcW y f pair f.sc).toNat
    match s.publish s.cur with
    | none => .error (.wait s)
    | some (s, ps) =>
      match s.doneOwner core off with
      | none => .ok { s := ((s.mend (.scr core off) 16).scrWrite core off bytes).send ps }
      | some to_ =>
        match s.cur with
        | .ctx c =>
          .ok { s := s.send (ps ++ [(to_, ⟨0x21, 0, (corexy c.core).extractLsb' 0 32⟩), (c, ⟨0x30, 0, 0x21⟩)]) }
        | .handler _ =>
          .error (.trapIn (s.send [(to_, ⟨0x21, 0, (Config.freeValue s.freeTick).extractLsb' 0 32⟩)]) 0x21 0 0)) s

/-- MSG's MOD 1 belongs to handlers alone (R379). -/
def handlerOnly (f : Fld) : Pre :=
  { regs := [.g (Fld.second f)],
    dyn07 := fun s _ => match s.cur with | .ctx _ => some (specInfo f.sa) | .handler _ => none }

/-- MSG to a handler (R226, R379): outside a handler it raises 0x07; a 65th run raises 0x32. -/
def execMsgHandler (f : Fld) (s : State) : Host.Outcome State Fault Refusal :=
  issue (.msgHandler f) (handlerOnly f) (fun y s => do
    let pair := s.pairView.isSome
    let o ← s.capChk y f.sa (capOff (srcW y f pair f.sb) 0) 8 { x := true } 8
    match s.cur with
    | .ctx _ => .ok { s := s }
    | .handler k =>
      match (s.runs.get k).bind fun r => (s.chains.get r.trig.chain).map fun ch => (r.trig.chain, ch) with
      | none => .ok { s := s }
      | some (n, ch) =>
        if 64 ≤ ch.started then trap 0x32 0 0x2000000
        else
          let s := { s with chains := s.chains.set n { ch with started := ch.started + 1, live := ch.live + 1 } }
          let t : Trigger :=
            { chain := n, first := false, h := (f.imm.extractLsb' 0 4).toNat, off := BitVec.ofNat 64 o, g2 := srcW y f pair f.sc,
              g3 := y.readG (Fld.second f), g4 := BitVec.ofNat 64 (2 ^ 63 + k), b1 := srcC y f.sa }
          .ok { s := s.trigger (s.sliceOf (spaceSid y.space) (CapF.obj (srcC y f.sa)) o) t }) s

end Sys2Proof.Machine
end

