-- ==== Sys2Proof/Machine/DerivedInstr.lean ====
section
/-! DEFINITION. DREG, DDROP, DSYNC and DSTAT, and the recompute unit's events (spec/08_derived.md R135 to R144). -/

namespace Sys2Proof.Machine

/-- The object whose bytes a window shows: an alias stands for the object it aliases (R91). -/
def State.realObj (s : State) (sid obj : Nat) : Nat :=
  match s.objEntry sid obj with
  | some e => if e.cls = 2 then e.ali else obj
  | none => obj

/-- The objects reached from some objects through the bases of their derivations (R136). No chain is longer than the number of derivations,
which bounds the levels that `n` allows. -/
def State.baseClosure (s : State) (sid : Nat) : Nat → List Nat → List Nat
  | 0, os => os
  | n + 1, os =>
    let new := (os.flatMap fun o =>
      match s.derivOf sid o with
      | some (_, d) => d.bases.map fun b => s.realObj sid (CapF.obj b.2)
      | none => []).eraseDups.filter fun o => ! os.contains o
    if new.isEmpty then os else State.baseClosure s sid n (os ++ new)

def State.objLevel (s : State) (sid obj : Nat) : Nat := match s.derivOf sid obj with | some (_, d) => d.level | none => 0

def capLen (c : Cap) : Nat := CapF.limit c - CapF.base c

/-- R136's extent check: the operand whose extent is too small, or not whole rows. `nk` is NKEYS of a KSUM's directory. -/
def Deriv.extentBad (d : Deriv) (f : Fld) (nk : Nat) : Option Operand :=
  if d.rule != 4 && capLen d.ba % (if d.rule = 3 then d.roww * 4 else d.cols * d.ws) != 0 then some f.sa
  else if d.rule = 3 ∧ capLen d.bc < d.nf * 4 then some f.sc
  else if d.rule = 3 ∧ capLen d.bb < 20 + 8 * nk then some f.sb
  else if capLen d.bt < d.outLen then some f.dst
  else none

/-- DERIVED in an object's table entry, and in every core's cached copy of it (R137, R144, R344). -/
def State.setDerived (s : State) (sid obj : Nat) (b : Bool) : State :=
  match s.spaces.get sid with
  | none => s
  | some sp =>
    let a := sp.objTab + 32 * obj + 5
    let c := leNat (memRead s.mem a 1)
    let put (e : ObjLine) : ObjLine :=
      if e.hits sid sp.gen obj then { e with bytes := if b then e.bytes ||| BitVec.twoPow 256 42 else e.bytes &&& ~~~ BitVec.twoPow 256 42 } else e
    { s with mem := memWrite s.mem a [BitVec.ofNat 8 (c - c / 4 % 2 * 4 + (if b then 4 else 0))],
             objCache := s.objCache.map fun p => (p.1, p.2.map put) }

/-- The first capability of a list of operands that is untagged or names no object (R136). -/
def State.capMissing (s : State) (y : Ctx) (os : List Operand) : Option Operand :=
  os.find? fun o => ! CapF.tag (srcC y o) || ! s.spaceLive y.space || (s.objEntry (spaceSid y.space) (CapF.obj (srcC y o))).isNone

/-- A cause for a capability operand: EADDR is its BASE. -/
def capTrap {α : Type} (y : Ctx) (c : Cause) (o : Operand) : Except Halt α := trap c (BitVec.ofNat 64 (CapF.base (srcC y o))) (bIndex o)

/-- DREG (R135 to R137): the checks in order, then the registration. -/
def execDreg (f : Fld) (s : State) : Host.Outcome State Fault Refusal :=
  issue (.dreg f) {} (fun y s => do
    let ksum := f.rule == 3
    let bases := if ksum then [f.sa, f.sb, f.sc] else [f.sa]
    let sid := spaceSid y.space
    let bt := srcC y f.dst
    match s.capMissing y (f.dst :: bases) with
    | some o => capTrap y 0x10 o
    | none => pure ()
    match bases.find? fun o => ! CapF.d (srcC y o) with
    | some o => capTrap y 0x12 o
    | none => pure ()
    if ! CapF.w bt then capTrap y 0x12 f.dst
    let objs := bases.map fun o => s.realObj sid (CapF.obj (srcC y o))
    let level := 1 + objs.foldl (fun m o => max m (s.objLevel sid o)) 0
    let d : Deriv := { sid := sid, imm := f.imm, ba := srcC y f.sa, bb := srcC y f.sb, bc := srcC y f.sc, bt := bt, level := level }
    let ea := BitVec.ofNat 64 (CapF.base bt)
    -- the directory's NKEYS is a read like any other: it expands a cold slab, has a stale tile recomputed, and may be uncorrectable (R247)
    let s ← if ksum && decide (20 ≤ capLen d.bb) then
        let nk : Target := .dev sid (CapF.obj d.bb) (CapF.base d.bb)
        match s.devTouch s.curCore sid (CapF.obj d.bb) (CapF.base d.bb) 4 true with
        | some s =>
          if s.badAt nk 4 then (let r := s.unc nk 4; .error (.trapIn r.1 0x41 r.2.eaddr r.2.einfo)) else pure s
        | none => .error (.wait s)
      else pure s
    match d.extentBad f (s.nkeys sid d.bb) with
    | some o => capTrap y 0x11 o
    | none => pure ()
    if CapF.base bt % 4096 ≠ 0 then trap 0x15 ea 0
    if d.scaled ∧ (d.tcols % 32 ≠ 0 ∨ d.trows % 32 ≠ 0) then trap 0x28 ea 0
    match s.objEntry sid (CapF.obj bt) with
    | some e => if e.derived || e.cls == 2 || (s.derivOf sid (CapF.obj bt)).isSome then trap 0x29 ea 0
    | none => pure ()
    if (s.baseClosure sid s.derivs.length objs).contains (CapF.obj bt) then trap 0x2A ea 0
    if 4 < level then trap 0x2B ea (BitVec.ofNat 32 level)
    if 4096 ≤ (s.derivs.filter fun p => p.2.sid == sid).length then trap 0x2B ea 0xFF
    let n := s.nextId
    let s := { s with nextId := n + 1, derivs := s.derivs.set n d,
                      tiles := (List.range d.tiles).foldl (fun m t => m.set (n, t) { stale := true, gen := 0, err := false, busy := none }) s.tiles }
    .ok { s := s.setDerived sid (CapF.obj bt) true }) s

/-- Every DSYNC of a derivation looked at. -/
def State.settleDsyncs (s : State) (d : Nat) : State :=
  (s.ops.filterMap fun p => match p.2.kind with | .dsync k _ _ _ _ => if k = d then some p.1 else none | _ => none).foldl State.settleDsync s

/-- DDROP (R144): it waits for running recomputes of the target. -/
def execDdrop (f : Fld) (s : State) : Host.Outcome State Fault Refusal :=
  issue (.ddrop f) {} (fun y s => do
    let sid := spaceSid y.space
    match s.capMissing y [f.sa] with
    | some o => capTrap y 0x10 o
    | none => pure ()
    if ! CapF.w (srcC y f.sa) then capTrap y 0x12 f.sa
    match s.derivOf sid (CapF.obj (srcC y f.sa)) with
    | none => .ok { s := s }
    | some (n, d) =>
      if (List.range d.tiles).any fun t => (s.tile n t).busy.isSome then .error (.wait s)
      else
        let s := { s with derivs := s.derivs.del n, tiles := s.tiles.filter fun p => p.1.1 != n }
        .ok { s := (s.setDerived sid (CapF.obj (srcC y f.sa)) false).settleDsyncs n }) s

/-- DSYNC (R144). -/
def execDsync (f : Fld) (s : State) : Host.Outcome State Fault Refusal :=
  issue (.dsync f) {} (fun y s => do
    let sid := spaceSid y.space
    let c := srcC y f.sa
    match s.capMissing y [f.sa] with
    | some o => capTrap y 0x10 o
    | none => pure ()
    if ! CapF.r c then capTrap y 0x12 f.sa
    s.leaseChk sid (CapF.obj c) (CapF.base c) (capLen c) false false
    match s.cur, s.curFrame with
    | .ctx who, some fr =>
      let d := match s.derivOf sid (CapF.obj c) with | some (n, _) => n | none => 0
      let (n, s) := s.newOp { who := who, space := y.space, job := fr.task.job, kind := .dsync d 0 [] 0 none, pc := y.pc, seq := y.issued }
      .ok { s := (s.me fun x => x.writeHandle f.dst (.pending n)).settleDsync n }
    | _, _ => .error (.wait s)) s

/-- The tiles of an object as DSTAT counts them, with the offset of tile t (R138, R139, R144). -/
def State.tileCount (s : State) (sid obj : Nat) : Nat × Nat :=
  match s.derivOf sid obj with
  | some (_, d) => (d.tiles, CapF.base d.bt)
  | none => (s.objSize sid obj / 4096, 0)

/-- DSTAT (R139, R144): a tagged producer. -/
def execDstat (f : Fld) (s : State) : Host.Outcome State Fault Refusal :=
  issue (.dstat f) {} (fun y s => do
    let sid := spaceSid y.space
    let obj := CapF.obj (srcC y f.sa)
    match s.capMissing y [f.sa] with
    | some o => capTrap y 0x10 o
    | none => pure ()
    if ! CapF.r (srcC y f.sa) then capTrap y 0x12 f.sa
    let t := (srcW y f s.pairView.isSome f.sb).toNat % 2 ^ 32
    let (n, base) := s.tileCount sid obj
    let ea := BitVec.ofNat 64 (base + 4096 * t)
    if n ≤ t then trap 0x11 ea (bIndex f.sa)
    .ok { s := s.track f y false (.dstat sid obj t) ea }) s

/-! ## The recompute unit (R142) -/

/-- Ranges that reads on their way will take: outstanding loads, and unapplied atomics. -/
def State.waitingReads (s : State) : List (Target × Nat) :=
  s.ctxs.flatMap (fun (p : Agent × Ctx) => p.2.out.flatMap fun o => o.what.ranges) ++
  (s.atoms.filter fun p => ! p.2.applied).map fun p => (p.2.t, p.2.bytes)

/-- A tile's recompute begins: BUSY, with the GEN it saw (R142). -/
def State.beginTile (s : State) (d t : Nat) : State :=
  let x := s.tile d t
  { s with tiles := s.tiles.set (d, t) { x with busy := some (x.gen, 0) } }

/-- STALE_READ_HOLD (R142): a read on its way meets a stale tile, is held there, and the tile's recompute begins. -/
def execStaleReadHold (d tile : Nat) (s : State) : Host.Outcome State Fault Refusal :=
  let x := s.tile d tile
  let met := s.waitingReads.any fun r => match r.1 with
    | .dev sid obj off => (s.staleTiles sid obj off r.2).contains (d, tile)
    | .scr .. => false
  .next (if x.stale && x.busy.isNone && met then s.beginTile d tile else s)

/-- The DSYNC that begins a tile next, if one does (R144): the lowest stale tile it has not passed. -/
def State.dsyncFor (s : State) (d t : Nat) : Option (Nat × Op × List Nat × Nat) :=
  (s.ops.filterMap fun p => match p.2.kind with
    | .dsync k next begun written none =>
      if k = d ∧ next ≤ t ∧ (s.tile d t).stale ∧ (List.range t).all (fun u => decide (u < next) || ! (s.tile d u).stale) then
        some (p.1, p.2, begun, written) else none
    | _ => none).head?

/-- A recompute that met an uncorrectable base: BUSY clears, the tile stays stale, and the DSYNCs that began it begin no further (R144). -/
def State.failTile (s : State) (d t : Nat) : State :=
  let x := s.tile d t
  let upd (o : Op) : Op := match o.kind with
    | .dsync k next begun written stop =>
      if k = d ∧ begun.contains t then { o with kind := .dsync k next (begun.filter (· != t)) written (stop.or (some 0x41)) } else o
    | _ => o
  { s with tiles := s.tiles.set (d, t) { x with busy := none }, ops := s.ops.map fun p => (p.1, upd p.2) }

/-- The loads that a tile's ninth attempt holds are answered from its output (R142). -/
def State.answerHeld (s : State) (d : Deriv) (t : Nat) : State :=
  s.ctxs.foldl (fun s p =>
    match s.settle p.1 (fun o => o.what.ranges.any fun r => match r.1 with
      | .dev sid obj off => sid == d.sid && (List.range r.2).any fun i => match s.place sid obj (off + i) with
        | some pl => pl.obj == CapF.obj d.bt && CapF.base d.bt + 4096 * t ≤ pl.off && pl.off < CapF.base d.bt + 4096 * (t + 1)
        | none => false
      | .scr .. => false) with
    | some s => s
    | none => s) s

/-- One attempt ends (R142): stale bases first, then the tile is written, or tried again because its GEN moved; the ninth writes. None: a base
waits, or the marking that the write causes. -/
def State.attemptTile (s : State) (id t : Nat) (g : BitVec 16) (k : Nat) : Option State :=
  match s.derivs.get id with
  | none => some s
  | some d =>
    match State.rebuild (fun s i u => State.recompute (s.derivs.length + 8) s i u) d t 4 s with
    | none => none
    | some s =>
      match s.expandBases d t with
      | none => none
      | some s =>
        let x := s.tile id t
        if s.baseBad d t || (s.baseTiles d t).any (fun u => (s.tile u.1 u.2).stale) then some ((s.countBase d t).failTile id t)
        else if x.gen = g || k = 8 then
          if s.markHeld [(d.sid, CapF.obj d.bt, CapF.base d.bt + 4096 * t, 4096)] then none else
          let s := s.writeTile id d t
          let s := if k = 8 then s.answerHeld d t else s
          some (if x.gen = g then s else { s with tiles := s.tiles.set (id, t) { s.tile id t with stale := true } })
        else some { s with tiles := s.tiles.set (id, t) { x with busy := some (x.gen, k + 1) } }

/-- TILE_RECOMPUTE (R142): a running attempt ends; or a DSYNC begins its next tile. -/
def execTileRecompute (d tile : Nat) (s : State) : Host.Outcome State Fault Refusal :=
  match (s.tile d tile).busy with
  | some (g, k) => .next (match s.attemptTile d tile g k with | some s => s.settleDsyncs d | none => s)
  | none =>
    match s.dsyncFor d tile with
    | some (n, o, begun, written) =>
      let s := { s with ops := s.ops.set n { o with kind := .dsync d (tile + 1) (begun ++ [tile]) written none } }
      .next (s.beginTile d tile)
    | none => .next (s.settleDsyncs d)

end Sys2Proof.Machine
end

