-- ==== Sys2Proof/Machine/Matrix.lean ====
section
/-! DEFINITION. Group 0x9: the matrix unit (spec/09_numbers.md R153 to R162, spec/06_bank_units.md R114 to R116,
spec/04_scheduling.md R65, R66, spec/14_faults.md R246, spec/24_ref_g_m.md R372 to R376, R378, R380, R381). -/

namespace Sys2Proof.Machine

/-! ## Plans -/

/-- What a matrix instruction takes from its prefix and STATUS.RM (R150, R154): formats, scale modes, rounding. -/
structure MatPlan where
  af : Nat
  bf : Nat
  asc : Nat
  bsc : Nat
  rm : Rm
  deriving DecidableEq, Repr

def matPlan (payload : Option (BitVec 15)) (rm : BitVec 2) : MatPlan :=
  match payload with
  | none => ⟨0, 0, 0, 0, Rm.ofCode rm⟩
  | some p => ⟨payA p, payB p, payAsc p, payBsc p, payRm rm p⟩

def MatOp.plan (m : MatOp) : MatPlan := matPlan m.payload m.rm
/-- The plan at issue. -/
def Ctx.matPlan (y : Ctx) : MatPlan := Machine.matPlan (if y.pp then some y.payload else none) y.rm

/-- A format's step depth (R157). -/
def fmtDepth (f : Nat) : Nat :=
  match f with | 0 => 8 | 1 => 32 | 2 => 32 | 5 => 32 | 3 => 64 | 4 => 64 | 6 => 64 | 7 => 64 | _ => 128

def MatPlan.depth (p : MatPlan) : Nat := min (fmtDepth p.af) (fmtDepth p.bf)
/-- Bytes of a row of B (R374). -/
def rowOfB (f : Nat) : Nat := 8 * fmtWidth f
def MatPlan.scaled (p : MatPlan) : Bool := p.asc != 0 || p.bsc != 0
/-- The formats that take scales (R162). -/
def takesScale (f : Nat) : Bool := f == 3 || f == 4 || f == 6 || f == 7 || f == 8 || f == 9
def isIntFmt (f : Nat) : Bool := decide (5 ≤ f) && decide (f ≤ 9)
/-- I32 accumulation (R156). -/
def MatPlan.int (p : MatPlan) : Bool := isIntFmt p.af && isIntFmt p.bf && ! p.scaled

/-- The permitted pairs and scale modes (R154, R156). -/
def MatPlan.ok (p : MatPlan) : Bool :=
  let pair := (decide (p.af < 5) && (decide (p.bf < 5) || p.bf == 10 || p.bf == 11)) ||
    (isIntFmt p.af && isIntFmt p.bf && (! p.scaled || p.af != 5))
  pair && (p.asc == 0 || takesScale p.af) && (p.bsc == 0 || takesScale p.bf) && p.asc != 3 && p.bsc != 3

/-- Does Kc break a bound of R375? -/
def MatPlan.badKc (p : MatPlan) (kc : Nat) : Bool :=
  kc == 0 || kc % p.depth != 0 || decide (2048 < kc * fmtWidth p.af) || decide (16384 < kc * rowOfB p.bf)

/-! ## Latches -/

/-- The computer context of a frame. -/
def compOf (core frm : Nat) : CtxId := ⟨core, frm, .computer⟩

/-- The first bytes of the 8-byte units of a scratch range that read uncorrectably. -/
def State.badUnits (s : State) (key len : Nat) : List Nat :=
  ((List.range (len / 8)).map fun i => 8 * i).filter fun o => s.scrBad ((key + o) / 2 ^ 19) ((key + o) % 2 ^ 19) 8

/-- Each such unit counted and logged (R246, R252). -/
def State.countUnits (s : State) (key : Nat) (units : List Nat) : State := units.foldl (fun s o => (s.unc (rowTarget (key + o)) 8).1) s

/-- The byte positions of units, moved by a base. -/
def unitBytes (base : Nat) (units : List Nat) : List Nat := units.flatMap fun o => (List.range 8).map fun j => base + o + j

/-- A damaged element logged in OPERRXY (R246). -/
def operrLog (w : Word) (e : Nat × Nat × Nat) : Word :=
  if w.getLsbD 63 then w ||| 0x4000000000000000
  else BitVec.ofNat 64 (2 ^ 63 + e.1 % 4 * 2 ^ 60 + e.2.1 % 2 ^ 16 * 2 ^ 32 + e.2.2 % 2 ^ 16)

/-- STATUS.OE of a frame's computer context becomes sticky (R246). -/
def State.setOe (s : State) (core frm : Nat) : State :=
  s.updCtx (.ctx (compOf core frm)) fun x => { x with status := setBit x.status 8 true }

/-- Damaged elements that a read meets, as (SRC, KIDX, MN), make OE sticky and are logged in order (R246). -/
def State.operr (s : State) (core frm : Nat) (es : List (Nat × Nat × Nat)) : State :=
  if es.isEmpty then s else (s.updFrame core frm fun f => { f with operrxy := es.foldl operrLog f.operrxy }).setOe core frm

/-- A value for a coordinate that no step has given yet (DESIGN CHOICE, LOG 67). -/
def State.freeCoord (s : State) (k : Nat) : Nat := (Config.freeValue (s.freeTick * 2 ^ 48 + 2 ^ 43 + k)).toNat % 2 ^ 16

/-- A latch replaced: the element logged of its earlier read gets no coordinates from a step any more. -/
def Frame.operrClose (f : Frame) (src : Nat) : Frame :=
  if (f.operrxy.extractLsb' 60 2).toNat = src then { f with operrOpen := none } else f

/-- An operand read that meets uncorrectable units, each of two elements or more: OE becomes sticky and the first element is logged (R246). Of a
latch, KIDX (and MN in the B latch) follow from the format of the operation that uses the element: the first step that does gives them, and until
then they are free values (DESIGN CHOICE, LOG 67). -/
def State.operrRead (s : State) (core frm src : Nat) (bad : List Nat) : State :=
  match bad with
  | [] => s
  | o :: _ =>
    let (k, i) := (s.freeCoord 5, if src = 0 then o / 256 else s.freeCoord 6)
    (s.updFrame core frm fun f =>
      { f with operrxy := operrLog (operrLog f.operrxy (src, k, i)) (src, k, i),
               operrOpen := if f.operrxy.getLsbD 63 then f.operrOpen else some o }).setOe core frm

/-- A scale tile's read that meets uncorrectable units (R246): `n` bytes an entry, of entry e block e / 2h of the tile and row or column
(e mod 2h) xor (h x block) (R160), with h 16 for A and 32 for B. -/
def State.operrScales (s : State) (core frm : Nat) (sideB : Bool) (tile n : Nat) (bad : List Nat) : State :=
  let h := if sideB then 32 else 16
  s.operr core frm (bad.map fun o =>
    let (b, i) := (o / n / (2 * h), o / n % (2 * h))
    (2 + sideB.toNat, 64 * tile + 32 * b, Nat.xor i (h * b)))

/-- Step n uses the element that OPERRXY names without coordinates: it gives them (R246). -/
def Frame.operrUse (f : Frame) (p : MatPlan) (n : Nat) (sideB : Bool) : Frame :=
  match f.operrOpen with
  | none => f
  | some o =>
    let (k, i) := if sideB then (o / rowOfB p.bf, o % rowOfB p.bf * 8 / fmtWidth p.bf) else (o % 256 * 8 / fmtWidth p.af, o / 256)
    if (f.operrxy.extractLsb' 60 2).toNat = sideB.toNat ∧ n * p.depth ≤ k ∧ k < (n + 1) * p.depth then
      { f with operrxy := operrLog 0 (sideB.toNat, k, i) ||| 0x4000000000000000, operrOpen := none }
    else f

/-- NV and OF alone become sticky (R151). -/
def State.matFlags (s : State) (core frm : Nat) (fl : Flags) : State :=
  s.updCtx (.ctx (compOf core frm)) fun x => x.raiseFlags { nv := fl.nv, ov := fl.ov }

/-- An operand element: its value, and whether it was damaged and reads +0 (R246). -/
abbrev Elem := Num × Bool

def elemAt (bits : Nat) (bad : List Nat) (fmt pos : Nat) : Elem :=
  let w := fmtWidth fmt
  if bad.any fun b => decide (pos / 8 ≤ b) && decide (b ≤ (pos + w - 1) / 8) then (Num.zero, true)
  else (fmtDecode fmt (bits / 2 ^ pos % 2 ^ w), false)

/-- Element k of row i of the A latch (R375). -/
def Frame.elemA (f : Frame) (fmt i k : Nat) : Elem := elemAt f.latA.toNat f.badA fmt (2048 * i + k * fmtWidth fmt)
/-- Element j of row k of the B latch (R374, R147). -/
def Frame.elemB (f : Frame) (fmt k j : Nat) : Elem := elemAt f.latB.toNat f.badB fmt (8 * rowOfB fmt * k + j * fmtWidth fmt)

/-- The entry of row or column i for block b within its tile (R160); `half` is 16 for A, 32 for B. -/
def scaleEntry (half b i : Nat) : Nat := 2 * half * (b % 2) + Nat.xor i (half * (b % 2))

/-- A scale of block b (R160, R161): 1 without a scale mode or where no MSCL has loaded the tile. -/
def scaleAt (tiles : Vector (Option ScaleTile) 8) (mode half b i : Nat) : Elem :=
  if mode = 0 then (Num.one, false) else
  match tiles.toList.getD (b / 2) none with
  | none => (Num.one, false)
  | some t =>
    let n := if mode = 2 then 2 else 1
    let e := scaleEntry half b i
    if t.bad.any fun p => decide (n * e ≤ p) && decide (p < n * e + n) then (Num.one, true)
    else (scaleDecode (mode == 2) (t.bits.toNat / 2 ^ (8 * n * e) % 2 ^ (8 * n)), false)

/-! ## One step of a macro-operation (R158, R159) -/

/-- An accumulator element, its lane 64i + j (R156). -/
def accLane (acc : BitVec 65536) (i j : Nat) : Nat := laneOf 32 acc.toNat (64 * i + j)

/-- One float element after a step's terms (R158). -/
def stepFloat (rm : Rm) (acc : Nat) (factors : List (List Num)) : Nat × Flags :=
  let old := c32 acc
  let r := sumNum rm (old :: factors.map fun fs => fs.foldl Num.mul Num.one)
  let nanIn := old.isNan || factors.any fun fs => fs.any Num.isNan
  let (c, fl) := FFmt.f32.round rm false r
  (c, { nv := r.isNan && ! nanIn, ov := fl.ov })

/-- One integer element after a step's products (R159). -/
def stepInt (acc : Nat) (factors : List (List Num)) : Nat × Flags :=
  let t : Int := factors.foldl (fun (a : Int) fs => a + (fs.foldl Num.mul Num.one).units 0) 0
  let r := signedOf 32 acc + t
  (intCode 32 r, { ov := decide (r < -2147483648) || decide (2147483647 < r) })

/-- The factors of element (i, j) for one k: none of them where a scale is damaged (R246). -/
def termOf (p : MatPlan) (fa fb : Frame) (i j k : Nat) : List Num :=
  let sa := scaleAt fa.sclA p.asc 16 (k / 32) i
  let sb := scaleAt fb.sclB p.bsc 32 (k / 32) j
  if sa.2 || sb.2 then [Num.zero] else [sa.1, sb.1, (fa.elemA p.af i k).1, (fb.elemB p.bf k j).1]

/-- An accumulator after step n, with its flags; `fa` and `fb` hold the operands. -/
def stepAcc (p : MatPlan) (fa fb : Frame) (n : Nat) (acc : BitVec 65536) : BitVec 65536 × Flags :=
  let ks := (List.range p.depth).map fun k => n * p.depth + k
  let rs := (List.range 2048).map fun e =>
    let fs := ks.map fun k => termOf p fa fb (e / 64) (e % 64) k
    if p.int then stepInt (accLane acc (e / 64) (e % 64)) fs else stepFloat p.rm (accLane acc (e / 64) (e % 64)) fs
  (BitVec.ofNat 65536 (joinLanes 32 (rs.map (·.1))), rs.foldl (fun a r => a.or r.2) {})

def Frame.accOf (f : Frame) (n : Nat) : BitVec 65536 := f.acc.toList.getD n 0
def Frame.setAcc (f : Frame) (n : Nat) (a : BitVec 65536) : Frame := { f with acc := f.acc.setIfInBounds n a }
def Frame.setKind (f : Frame) (n : Nat) (isInt : Bool) : Frame := { f with kindI := f.kindI.setIfInBounds n isInt }

/-- One step of a frame's operation into accumulator n, with the operands of two frames. -/
def State.stepInto (s : State) (core frm n k : Nat) (p : MatPlan) (fa fb : Frame) (last : Bool) : State :=
  match s.frames.get (core, frm) with
  | none => s
  | some f =>
    let (a, fl) := stepAcc p fa fb k (f.accOf n)
    let s := s.setFrame core frm ((f.setAcc n a).setKind n (if last then p.int else f.kindI.toList.getD n false))
    s.matFlags core frm fl

/-! ## The queue (R372) -/

/-- A matrix instruction joins its frame's queue: it waits while 8 stand, and follows the context's own earlier accesses (R109). -/
def State.enqueue (s : State) (y : Ctx) (i : Instr) (cmd : MatCmd) (ts : List (Target × Nat)) (writes : Bool) (rels : List Nat := []) :
    Except Halt State :=
  match s.cur, s.curFrame with
  | .ctx c, some fr =>
    if y.acqPending || decide (8 ≤ fr.mq.length) then .error (.wait s) else
    match s.orderCore c ts writes true with
    | none => .error (.wait s)
    | some (s, ps) =>
      let op : MatOp := { who := c.kind, cmd := cmd, payload := if y.pp then some y.payload else none, rm := y.rm, steps := 0,
                          word := encode i, rels := rels }
      .ok ((s.updFrame c.core c.frm fun f => { f with mq := f.mq ++ [op] }).send ps)
  | _, _ => .error (.wait s)

/-- A scratch key's target range. -/
def keyRange (k n : Nat) : Target × Nat := (rowTarget k, n)

/-- FMTP (R153, R154). -/
def execFmtp (f : Fld) (s : State) : Host.Outcome State Fault Refusal :=
  issue (.fmtp f) { own05 := decide (11 < (f.imm.extractLsb' 0 4).toNat) || decide (11 < (f.imm.extractLsb' 4 4).toNat) } (fun _ s =>
    .ok { s := s.me fun x =>
      { x with status := (x.status &&& 0xFFFFFFFF0000FFFF) ||| ((f.imm.extractLsb' 0 16).zeroExtend 64 <<< 16) ||| 4 } }) s

/-- The keys that an address with REL = 1 names (R72, R76). -/
def relKeys (a : Word) (ks : List Nat) : List Nat := if a.getLsbD 31 then ks else []

/-- The address of MLDA's row for index lane i (R373). -/
def mldaAddr (ga gp : Word) (vi : Vec) (i : Nat) : Word := BitVec.ofNat 64 ((ga.toNat + (lane32 vi i).toNat * (gp.toNat % 2 ^ 32)) % 2 ^ 32)

/-- The rows of MLDA checked in order (R373). -/
def mldaRows (s : State) (ga gp : Word) (vi : Vec) (rowb : Nat) : List Nat → Except Halt (List Nat)
  | [] => .ok []
  | i :: is => do
    let a := mldaAddr ga gp vi i
    let (core, off) ← s.scrChk a 0 64
    if 0x80000 < off + rowb then trap 0x14 (localEaddr a 0) 0
    let ks ← mldaRows s ga gp vi rowb is
    .ok (scrKey core off :: ks)

/-- MLDA (R373). -/
def execMlda (f : Fld) (s : State) : Host.Outcome State Fault Refusal :=
  issue (.mlda f) {} (fun y s => do
    let pair := s.pairView.isSome
    let rowb := f.imm.toNat
    let (ga, gp, vi) := (srcW y f pair f.sa, srcW y f pair f.sc, srcV y f pair 32 f.sb)
    let ks ← mldaRows s ga gp vi rowb (List.range 32)
    let rels := (ks.zipIdx).flatMap fun k => relKeys (mldaAddr ga gp vi k.2) [k.1]
    let s ← s.enqueue y (.mlda f) (.lda ks rowb) (ks.map fun k => keyRange k rowb) false rels
    .ok { s := s }) s

/-- MLDB (R374). -/
def execMldb (f : Fld) (s : State) : Host.Outcome State Fault Refusal :=
  issue (.mldb f) {} (fun y s => do
    let a := srcW y f s.pairView.isSome f.sa
    let len := f.imm.toNat
    let (core, off) ← s.scrChk a 0 64
    if 0x80000 < off + len then trap 0x14 (localEaddr a 0) 0
    let s ← s.enqueue y (.mldb f) (.ldb (scrKey core off) len) [keyRange (scrKey core off) len] false (relKeys a [scrKey core off])
    .ok { s := s }) s

/-- MSCL (R378, R161). -/
def execMscl (f : Fld) (s : State) : Host.Outcome State Fault Refusal :=
  issue (.mscl f) {} (fun y s => do
    let a := srcW y f s.pairView.isSome f.sa
    let sideB := f.imm.getLsbD 15
    let len := (f.imm.extractLsb' 0 12).toNat
    let (core, off) ← s.scrChk a 0 1
    if ! (if sideB then len == 128 || len == 256 else len == 64 || len == 128) then trap 0x28 (localEaddr a 0) 0
    if off % len ≠ 0 then trap 0x28 (localEaddr a 0) 0
    let s ← s.enqueue y (.mscl f) (.scl sideB (f.imm.extractLsb' 12 3).toNat (scrKey core off) len) [keyRange (scrKey core off) len] false
      (relKeys a [scrKey core off])
    .ok { s := s }) s

/-- The format in which a tile will stand when a macro-operation issued now is performed: BF16 or E8, none if never loaded (R161). -/
def Frame.tileFormat (f : Frame) (sideB : Bool) (tile : Nat) : Option Bool :=
  let now := ((if sideB then f.sclB else f.sclA).toList.getD tile none).map (·.bf)
  f.mq.foldl (fun o m => match m.cmd with
    | .scl b t _ len => if b = sideB ∧ t = tile then some (len == (if sideB then 256 else 128)) else o
    | _ => o) now

/-- The scale checks of R375: Kc, and a tile in the other scale format. -/
def scaleChk (f : Frame) (p : MatPlan) (kc : Nat) : Except Halt Unit :=
  let other (sideB : Bool) (mode : Nat) : Bool :=
    mode != 0 && (List.range (kc / 64)).any fun t => match f.tileFormat sideB t with | some bf => bf != (mode == 2) | none => false
  if p.scaled && (kc % 64 != 0 || decide (512 < kc)) then trap 0x28 0 0
  else if other false p.asc || other true p.bsc then trap 0x28 0 0
  else .ok ()

/-- The common checks of MMAC and MMACG (R375). -/
def macPre (f : Fld) (accs : List Nat) (more : Frame → Bool) : Pre :=
  { accs := accs, pfx := some fun y => y.matPlan.ok,
    dyn02 := fun s y => y.matPlan.badKc f.kc || (match s.curFrame with | some fr => more fr | none => false) }

/-- A macro-operation that has passed the common checks. -/
def macBody (i : Instr) (f : Fld) (cmd : MatCmd) : Body := fun y s => do
  match s.curFrame with
  | none => .error (.wait s)
  | some fr =>
    scaleChk fr y.matPlan f.kc
    let s ← s.enqueue y i cmd [] false
    .ok { s := s }

/-- MMAC (R375). -/
def execMmac (f : Fld) (s : State) : Host.Outcome State Fault Refusal :=
  issue (.mmac f) (macPre f [f.accN] fun _ => false) (macBody (.mmac f) f (.mac f.accN f.kc)) s

/-- GW and GCOLS of a task type (R23). -/
def Frame.gw (f : Frame) : Nat := (f.tdesc.extractLsb' 104 8).toNat
def Frame.gcols (f : Frame) : Nat := (f.tdesc.extractLsb' 112 8).toNat

/-- MMACG (R376). -/
def execMmacg (f : Fld) (s : State) : Host.Outcome State Fault Refusal :=
  issue (.mmacg f)
    (macPre f [f.accN, f.accN + 1] fun fr => fr.gw == 1 || decide (fr.gcols < 2) || decide (4 < fr.gw / fr.gcols))
    (macBody (.mmacg f) f (.macg f.accN f.kc)) s

/-- The keys of rows of `len` bytes at a pitch (R114, R380), in order: within the core and the cluster. -/
def pitchRows (s : State) (a : Word) (pitch len : Nat) : List Nat → Except Halt (List Nat)
  | [] => .ok []
  | i :: is => do
    let (core, off) ← s.scrChk a ((i * pitch : Nat) : Int) 1
    if 0x80000 < off + len then trap 0x14 (localEaddr a ((i * pitch : Nat) : Int)) 0
    let ks ← pitchRows s a pitch len is
    .ok (scrKey core off :: ks)

/-- BAR's check of an id at issue (R314): a group-domain index other than the frame's own raises 0x02. -/
def State.badDomain (s : State) (id : BitVec 16) : Bool :=
  id.toNat / 4096 == 1 && decide (0xF00 ≤ id.toNat % 4096) &&
    (match s.curFrame with | some fr => fr.gbar != id | none => true)

/-- MMVB (R114). -/
def execMmvb (f : Fld) (s : State) : Host.Outcome State Fault Refusal :=
  issue (.mmvb f) { accs := [f.accN], dyn02 := fun s _ => s.badDomain f.id } (fun y s => do
    let pair := s.pairView.isSome
    let a := srcW y f pair f.sa
    let rows := (f.imm.extractLsb' 25 5).toNat + 1
    let (_, off) ← s.scrChk a 0 1
    let _ ← s.scrChk a (64 * (rows - 1) : Nat) 1
    if off % 64 ≠ 0 then trap 0x15 (localEaddr a 0) 0
    let ks ← pitchRows s a 64 64 (List.range rows)
    match s.cur, s.curFrame with
    | .ctx c, some fr =>
      if 256 ≤ (s.coreOf c.core).cmds.length + s.pendingHalves c.core then .error (.wait s) else
      let (n, s1) := s.newOp { who := c, space := y.space, job := fr.task.job, kind := .mvb false, pc := y.pc, seq := y.issued }
      let cmd : MatCmd := .mvb n f.accN ks (srcV y f pair 32 f.sb) (srcV y f pair 32 f.sc) f.id
      let ts := ks.map fun k => keyRange k 64
      (match s1.enqueue y (.mmvb f) cmd ts true (relKeys a ks) with
       | .ok s2 => .ok { s := s2.me fun x => x.writeHandle f.dst (.pending n), after := s2.watch38 .st ts }
       | .error _ => .error (.wait s))
    | _, _ => .error (.wait s)) s

/-- The scale tile of MST (R161, R380): its key and size. -/
def mstScale (s : State) (gs : Word) (asc : Nat) : Except Halt (Option (Nat × Nat)) :=
  if asc = 0 then .ok none else do
    let (core, off) ← s.scrChk gs 0 1
    .ok (some (scrKey core off, 64 * asc))

/-- MST (R380). -/
def execMst (f : Fld) (s : State) : Host.Outcome State Fault Refusal :=
  issue (.mst f)
    { accs := [f.accN],
      dyn02 := fun _ y => (f.sc != .g 0) != (y.matPlan.asc != 0),
      pfx := some fun y => y.matPlan.af < 10 && (y.matPlan.asc == 0 || takesScale y.matPlan.af && y.matPlan.asc != 3) &&
        y.matPlan.bf == 0 && y.matPlan.bsc == 0 } (fun y s => do
    let pair := s.pairView.isSome
    let p := y.matPlan
    let gd := srcW y f pair f.sa
    let gp := srcW y f pair f.sb
    let rowb := 8 * fmtWidth p.af
    let ks ← pitchRows s gd gp.toNat rowb (List.range 32)
    let sc ← mstScale s (srcW y f pair f.sc) p.asc
    if ks.headD 0 % 32 ≠ 0 ∨ gp.toNat % 32 ≠ 0 then trap 0x15 (localEaddr gd 0) 0
    match sc with
    | some (k, n) => if k % n ≠ 0 then trap 0x28 (localEaddr (srcW y f pair f.sc) 0) 0
    | none => pure ()
    let ts := ks.map (fun k => keyRange k rowb) ++ (match sc with | some (k, n) => [keyRange k n] | none => [])
    let rels := relKeys gd ks ++ relKeys (srcW y f pair f.sc) (sc.toList.map (·.1))
    let s ← s.enqueue y (.mst f) (.store f.accN ks rowb sc) ts true rels
    .ok { s := s }) s

/-- MZERO (R381). -/
def execMzero (f : Fld) (s : State) : Host.Outcome State Fault Refusal :=
  issue (.mzero f) { accs := [f.accN] } (fun y s => do
    let s ← s.enqueue y (.mzero f) (.zero f.accN) [] false
    .ok { s := s }) s

/-! ## Performing the queue -/

/-- An element of an accumulator as MST reads it (R156). -/
def Frame.accNum (f : Frame) (n i j : Nat) : Num :=
  let c := accLane (f.accOf n) i j
  if f.kindI.toList.getD n false then .ofInt (signedOf 32 c) else c32 c

/-- MST's row i: its elements, its two scales where ASC is set, its flags (R380). -/
def Frame.storeRow (f : Frame) (n i : Nat) (p : MatPlan) : List Nat × List Nat × Flags :=
  let xs := (List.range 64).map fun j => f.accNum n i j
  if p.asc = 0 then
    let qs := xs.map fun x => convert p.af p.rm x
    (qs.map (·.1), [], qs.foldl (fun a r => a.or r.2) {})
  else
    let (s0, q0, f0) := quantise p.af (p.asc == 2) p.rm (xs.take 32)
    let (s1, q1, f1) := quantise p.af (p.asc == 2) p.rm (xs.drop 32)
    (q0 ++ q1, [s0, s1], f0.or f1)

/-- MST's scale tile: entry 32b + (i xor 16b) is the scale of row i, block b (R162). -/
def scaleBytes (mode : Nat) (scs : List (List Nat)) : List Byte :=
  ((List.range 64).map fun e =>
    let b := e / 32
    bytesOf mode ((scs.getD (Nat.xor (e % 32) (16 * b)) []).getD b 0)).flatten

/-- MST performed (R380): rows in order, then the scales. -/
def State.performMst (s : State) (core frm : Nat) (f : Frame) (m : MatOp) (n : Nat) (keys : List Nat) (rowb : Nat)
    (sc : Option (Nat × Nat)) : State :=
  let p := m.plan
  let rows := (List.range 32).map fun i => f.storeRow n i p
  let put (s : State) (k : Nat) (bs : List Byte) : State := (State.putUnits (bs.length + 1) s (rowTarget k) bs).1
  let s := (keys.zip rows).foldl (fun s (r : Nat × List Nat × List Nat × Flags) => put s r.1 (bytesOf rowb (joinLanes (fmtWidth p.af) r.2.1))) s
  let s := match sc with
    | some (k, _) => put s k (scaleBytes p.asc (rows.map fun (r : List Nat × List Nat × Flags) => r.2.1))
    | none => s
  s.matFlags core frm (rows.foldl (fun a (r : List Nat × List Nat × Flags) => a.or r.2.2) {})

def Frame.popMq (f : Frame) : Frame := { f with mq := f.mq.drop 1 }

/-- MMVB's bank half, its next row (R114, R116): written, or the half ends. Its arrival is a publication point (R194), which the half waits for. -/
def State.bankHalf (s : State) (core frm : Nat) (steps op : Nat) (keys : List Nat) (c u : Vec) (bar : BitVec 16) : State :=
  let i := steps - 1
  let rows := keys.length
  let pop (s : State) : State := s.updFrame core frm Frame.popMq
  let cancelled := match s.ops.get op with | some o => (match o.kind with | .mvb b => b | _ => false) | none => false
  if cancelled then (pop s).finishOp op (faultWord 0x7E i)
  else if rows ≤ i then
    -- a killed context arrives nowhere (DESIGN CHOICE, LOG 116)
    let dead := match s.frames.get (core, frm) with | some f => f.killed.isSome | none => true
    if bar = 0 || dead then (pop s).finishOp op (okWord rows) else
    match s.ops.get op, (pop s).publishWrites (.ctx (compOf core frm)) [] with
    | some o, some (s, ps) =>
      let a : Arrival := { s.arrivalOf (objKey (spaceSid o.space) core bar) (compOf core frm) with quiet := true }
      (({ s with arrivals := s.arrivals ++ [a] }).send ps).finishOp op (okWord rows)
    | none, _ => pop s
    | _, none => s
  else
    let row := keys.getD i 0
    if s.rowBad row then ((pop s).unc (rowTarget row) 64).1.finishOp op (faultWord 0x31 i)
    else
      let x := s.rowGet row
      let y := joinLanes 32 ((List.range 16).map fun j => bankLane 4 0 (lane32 c i).toNat (laneOf 32 x j) (lane32 u j).toNat)
      (s.rowPut row y).updFrame core frm fun f =>
        match f.mq with
        | m :: ms => { f with mq := { m with steps := m.steps + 1 } :: ms }
        | [] => f

/-- MATRIX_QUEUE_PERFORM (R372): the head of a frame's queue, where it is not a macro-operation's step, is performed; of an MMVB whose
matrix half is done, the next row of its bank half. A frame that is being saved performs only such a bank half (R68). -/
def execMatrixQueuePerform (core frm : Nat) (s : State) : Host.Outcome State Fault Refusal :=
  match s.frames.get (core, frm) with
  | none => .next s
  | some f =>
    match f.mq with
    | [] => .next s
    | m :: _ =>
      if s.saving (core, frm) && m.steps == 0 then .next s else
      match m.cmd with
      | .lda rows rowb =>
        let bad := rows.map fun k => s.badUnits k rowb
        let bytes := rows.flatMap fun k => s.scrRead (k / 2 ^ 19) (k % 2 ^ 19) rowb ++ List.replicate (256 - rowb) 0
        let pos := (bad.zipIdx).flatMap fun r => unitBytes (256 * r.2) r.1
        let s1 := s.setFrame core frm { f.popMq.operrClose 0 with latA := BitVec.ofNat 65536 (leNat bytes), badA := pos }
        .next (((rows.zip bad).foldl (fun s r => s.countUnits r.1 r.2) s1).operrRead core frm 0 pos)
      | .ldb k len =>
        let bad := s.badUnits k len
        let bits := BitVec.ofNat 131072 (leNat (s.scrRead (k / 2 ^ 19) (k % 2 ^ 19) len))
        .next ((s.setFrame core frm { f.popMq.operrClose 1 with latB := bits, badB := unitBytes 0 bad }).countUnits k bad |>.operrRead core frm 1 bad)
      | .scl sideB tile k len =>
        let bad := s.badUnits k len
        let t : ScaleTile := { bf := len == (if sideB then 256 else 128),
                               bits := BitVec.ofNat 2048 (leNat (s.scrRead (k / 2 ^ 19) (k % 2 ^ 19) len)), bad := unitBytes 0 bad }
        let f1 := if sideB then { f.popMq with sclB := f.sclB.setIfInBounds tile (some t) }
          else { f.popMq with sclA := f.sclA.setIfInBounds tile (some t) }
        .next (((s.setFrame core frm f1).countUnits k bad).operrScales core frm sideB tile (if t.bf then 2 else 1) (unitBytes 0 bad))
      | .zero n => .next (s.setFrame core frm ((f.popMq.setAcc n 0).setKind n false))
      | .store n keys rowb sc => .next ((s.performMst core frm f m n keys rowb sc).updFrame core frm Frame.popMq)
      | .mvb op _ keys c u bar => if m.steps = 0 then .next s else .next (s.bankHalf core frm m.steps op keys c u bar)
      | .mac _ _ => .next s
      | .macg _ _ => .next s

/-! ## Steps under the slot table (R65, R66) -/

/-- The members of a frame's group, in GIDX order. -/
def State.groupOf (s : State) (f : Frame) : List (Nat × Nat) :=
  match f.group with
  | none => []
  | some g => match s.groups.get g with | some g => g.members | none => []

/-- The head of a frame's queue. -/
def State.mqHead (s : State) (m : Nat × Nat) : Option MatOp := (s.frames.get m).bind fun f => f.mq.head?

/-- Has a member of a frame's group been killed (R376)? -/
def State.groupDead (s : State) (f : Frame) : Bool :=
  match f.group.bind s.groups.get with
  | none => false
  | some g => g.killed || g.members.any fun m => match s.frames.get m with | some p => p.group == f.group && p.killed.isSome | none => false

/-- Has a frame a macro-operation ready? An MMACG is once every member has issued its own, or a member has been killed (R376). A frame that is
being saved takes no step (R68). -/
def State.matReady (s : State) (m : Nat × Nat) : Bool :=
  if s.saving m then false else
  match s.frames.get m with
  | none => false
  | some f =>
    match f.mq.head? with
    | none => false
    | some h =>
      match h.cmd with
      | .mac _ _ => true
      | .mvb .. => h.steps == 0
      | .macg _ _ => s.groupDead f || (s.groupOf f).all fun p =>
          (match s.frames.get p with | some g => g.group == f.group | none => false) && match s.mqHead p with
          | some q => (match q.cmd with | .macg _ _ => true | _ => false)
          | none => false
      | _ => false

/-- The owner of a core's present slot where it takes its step: bound, with a macro-operation ready (R65, R66). -/
def State.slotOwner (s : State) (core : Nat) : Option Nat :=
  let n := (s.slotTable core >>> (4 * (s.cycle core / 256 % 16)) &&& 15).toNat
  if n < 4 && s.matReady (core, n) then some n else none

/-- May a frame's operation take a core's present step? -/
def State.stepAllowed (s : State) (m : Nat × Nat) : Bool :=
  match s.slotOwner m.1 with
  | some n => n == m.2
  | none => s.matReady m

/-- Is a core's matrix unit at a step boundary that has seen no step (R66)? -/
def State.atBoundary (s : State) (core : Nat) : Bool := s.cycle core % 32 == 0 && (s.coreOf core).stepAt != some (s.cycle core)

/-- Could a frame take a step now: an MMACG needs every member's unit (R376)? -/
def State.stepOk (s : State) (m : Nat × Nat) : Bool :=
  s.atBoundary m.1 && s.stepAllowed m &&
  match s.frames.get m, s.mqHead m with
  | some f, some h => (match h.cmd with | .macg _ _ => s.groupDead f || (s.groupOf f).all fun p => s.atBoundary p.1 && s.stepAllowed p | _ => true)
  | _, _ => false

/-- The frame that takes a core's step (R66): the slot's owner, or the next after the last granted an open step. -/
def State.stepFrame (s : State) (core : Nat) : Option Nat :=
  let l := (s.coreOf core).lastOpen.toNat
  ([l + 1, l + 2, l + 3, l + 4].map fun n => n % 4).find? fun n => s.stepOk (core, n)

/-- A step granted, and whether it was an open one (R66). -/
def State.noteOpen (s : State) (m : Nat × Nat) : State :=
  let k := { s.coreOf m.1 with stepAt := some (s.cycle m.1) }
  match s.slotOwner m.1 with
  | some _ => s.setCore m.1 k
  | none => s.setCore m.1 { k with lastOpen := BitVec.ofNat 2 m.2 }

/-- The queue's head has performed step k of `total`. -/
def Frame.stepped (f : Frame) (k total : Nat) : Frame :=
  if k + 1 = total then f.popMq else
  match f.mq with
  | m :: ms => { f with mq := { m with steps := k + 1 } :: ms }
  | [] => f

/-- MMVB's matrix half (R114): the rows are gathered, then 16 lanes of row 0 accumulate, each rounded once. -/
def State.matrixHalf (s : State) (core frm n : Nat) (keys : List Nat) (c : Vec) : State :=
  match s.frames.get (core, frm) with
  | none => s
  | some f =>
    let bad := keys.map fun k => s.badUnits k 64
    let m (i j : Nat) : Num := if (bad.getD i []).contains (4 * j / 8 * 8) then Num.zero else c32 (laneOf 32 (s.rowGet (keys.getD i 0)) j)
    let rs := (List.range 16).map fun j =>
      stepFloat .rne (accLane (f.accOf n) 0 j) ((List.range keys.length).map fun i => [c32 (lane32 c i).toNat, m i j])
    let old := f.accOf n
    let row0 := joinLanes 32 (rs.map (·.1))
    let acc := BitVec.ofNat 65536 (old.toNat / 2 ^ 512 * 2 ^ 512 + row0)
    let es := (bad.zipIdx).filterMap fun b => b.1.head?.map fun o => (1, b.2, o / 4)
    let s := s.setFrame core frm (((f.setAcc n acc).setKind n false).stepped 0 2)
    let s := s.matFlags core frm (rs.foldl (fun a r => a.or r.2) {})
    (keys.zip bad).foldl (fun s b => s.countUnits b.1 b.2) (s.operr core frm es)

/-- A group's operation differs from GIDX 0's (R376): every member receives 0x30, and the operation leaves every queue. -/
def State.groupMismatch (s : State) (ms : List (Nat × Nat)) : State :=
  (ms.foldl (fun s m => s.updFrame m.1 m.2 Frame.popMq) s).send (ms.map fun m => (compOf m.1 m.2, ⟨0x30, 0, 0x02⟩))

/-- A survivor of a group with a killed member stops its MMACG at a step boundary: it keeps the steps performed, and receives 0x30 (R376). -/
def State.groupStopped (s : State) (core frm : Nat) : State := (s.updFrame core frm Frame.popMq).send [(compOf core frm, ⟨0x30, 0, 0x22⟩)]

/-- One step of an MMACG on every member (R376). -/
def State.groupStep (s : State) (ms : List (Nat × Nat)) (n kc k : Nat) (p : MatPlan) (gcols : Nat) : State :=
  let total := kc / p.depth
  let at_ (i : Nat) : Option Frame := (ms[i]?).bind fun m => s.frames.get m
  let one (s : State) (e : (Nat × Nat) × Nat) : State :=
    let c := e.2 % gcols
    let r := e.2 / gcols
    match at_ c, at_ (r * gcols), at_ (r * gcols + 1) with
    | some fa, some f0, some f1 =>
      let last := k + 1 == total
      let s := s.stepInto e.1.1 e.1.2 n k p fa f0 last
      (s.stepInto e.1.1 e.1.2 (n + 1) k p fa f1 last).updFrame e.1.1 e.1.2 fun f =>
        let f := if e.2 < gcols then f.operrUse p k false else f
        (if c < 2 then f.operrUse p k true else f).stepped k total
    | _, _, _ => s
  ms.zipIdx.foldl one s

/-- MATRIX_STEP (R66): the unit grants one 32-cycle step under the slot table. -/
def execMatrixStep (core : Nat) (s : State) : Host.Outcome State Fault Refusal :=
  match s.stepFrame core with
  | none => .next s
  | some frm =>
    match s.frames.get (core, frm), s.mqHead (core, frm) with
    | some f, some h =>
      match h.cmd with
      | .mac n kc =>
        let p := h.plan
        let total := kc / p.depth
        let s := s.noteOpen (core, frm)
        .next ((s.stepInto core frm n h.steps p f f (h.steps + 1 == total)).updFrame core frm fun f =>
          ((f.operrUse p h.steps false).operrUse p h.steps true).stepped h.steps total)
      | .mvb _ n keys c _ _ => .next ((s.noteOpen (core, frm)).matrixHalf core frm n keys c)
      | .macg _ _ =>
        if s.groupDead f then .next (s.groupStopped core frm) else
        let ms := s.groupOf f
        (match (ms.head?).bind s.mqHead with
         | none => .next s
         | some h0 =>
           if ms.any fun m => match s.mqHead m with
             | some q => q.cmd != h0.cmd || q.payload != h0.payload
             | none => true
           then .next (s.groupMismatch ms)
           else
             match h0.cmd with
             | .macg n kc => .next ((ms.foldl State.noteOpen s).groupStep ms n kc h.steps h0.plan f.gcols)
             | _ => .next s)
      | _ => .next s
    | _, _ => .next s

end Sys2Proof.Machine
end

