-- ==== Sys2Proof/Machine/Sync.lean ====
section
/-! DEFINITION. Group 0xB: barriers, PHASE, FENCE, EVSIG and the timed exchange, and the events of tollgate lines and barrier objects
(spec/12_sync.md R205 to R220, spec/22_ref_a_b.md R314 to R316, spec/23_ref_c_f.md R343, R347, R350, spec/25_ref_n_s.md R383,
spec/26_ref_v_y.md R411, spec/11_ordering.md R194, R195, R203). -/

namespace Sys2Proof.Machine

/-! ## Ids and arrivals -/

/-- The id that an arrival names (R215). -/
def barId (f : Fld) (y : Ctx) : BitVec 16 := if f.sa = .g 0 then f.id else (srcW y f false f.sa).extractLsb' 0 16

/-- The checks of an id read from a register, made after all others (R184, R314). -/
def State.idChk (s : State) (f : Fld) (id : BitVec 16) (opc : BitVec 32) : Except Halt Unit :=
  if f.sa = .g 0 then .ok ()
  else if id.toNat / 4096 = 0 ∨ 4 < id.toNat / 4096 then trap 0x02 0 opc
  else if id.toNat / 4096 = 4 ∧ ! s.feature 8 then trap 0x01 0 opc
  else if s.badDomain id then trap 0x02 0 opc
  else .ok ()

/-- An immediate group-domain id that is not the frame's own raises 0x02 (R314). -/
def domainPre (f : Fld) : Pre := { dyn02 := fun s _ => decide (f.sa = .g 0) && s.badDomain f.id }

/-- An arrival on its way to the root of its object, with the record that its context keeps of it (R212); XBEGIN and XEND wait on the one of
their own last arrival (R220). -/
def State.sendArrival (s : State) (c : CtxId) (k : ObjKey) (own xch : Bool) : State :=
  let s := s.updCtx (.ctx c) fun x => { x with bara := (if own then x.bara else x.bara.filter (·.own)) ++ [⟨k, none, false, false, own, s.freeTick⟩] }
  { s with arrivals := s.arrivals ++ [{ s.arrivalOf k c with xch := xch }] }

/-- Has the phase of a record ended (R316): its release has reached the context, or the object's number has passed it and no release is on its way,
as for a record that a restore has brought to another instance of the object (R73). -/
def State.recOver (s : State) (c : CtxId) (k : ObjKey) (r : BaraRec) : Bool :=
  r.released || match r.phase with
    | some p => decide (0 < ((s.barrier k).phase - p).toInt) && ! s.releases.any fun e => e.who == c && e.key == r.key && e.phase == p
    | none => false

/-- A BARA (R315): a released record for the object is used again; a fifth record waits. None: it waits at issue. -/
def State.baraGo (s : State) (c : CtxId) (k : ObjKey) : Option State :=
  match s.ctxs.get (.ctx c) with
  | none => none
  | some x =>
    let old := x.bara.find? fun r => r.own && r.key.id == k.id && s.recOver c k r
    let keep := match old with | some r => x.bara.erase r | none => x.bara
    if 4 ≤ (keep.filter (·.own)).length then none else
    match s.publishAt (.ctx c) (k.id.toNat / 4096) with
    | none => none
    | some (s, ps) => some (((s.updCtx (.ctx c) fun x => { x with bara := keep }).send ps).sendArrival c k true false)

/-- The wait of BARW (R316), and of the exchange instructions on their own record (R220): it waits for the release, clears the oldest record of
the id, acquires, and raises 0x22 when the phase was broken. With no record the wait is over. -/
def State.awaitRecord (s : State) (c : CtxId) (k : ObjKey) (own : Bool) (done : State → State) : Except Halt Eff :=
  match s.ctxs.get (.ctx c) with
  | none => .ok { s := s }
  | some x =>
    match x.bara.find? fun r => r.own == own && r.key.id == k.id with
    | none => .ok { s := done (s.updCtx (.ctx c) fun x => { x with wait := .none }) }
    | some r =>
      if ! s.recOver c k r then .error (.wait s)
      else
        let s := s.updCtx (.ctx c) fun x => { x.acquire with bara := x.bara.erase r, wait := .none }
        if r.broken then .error (.trapIn s 0x22 0 (k.id.zeroExtend 32)) else .ok { s := done s }

def Wait.isBarrier : Wait → Bool | .barrier => true | _ => false

/-- The state with the context waiting for a release. -/
def State.atBarrier (s : State) (c : CtxId) : State := s.updCtx (.ctx c) fun x => { x with wait := .barrier }

/-- The body of an instruction that only contexts issue. -/
def onCtx (s : State) (k : CtxId → Except Halt Eff) : Except Halt Eff :=
  match s.cur with
  | .ctx c => k c
  | .handler _ => .ok { s := s }

/-! ## Barrier instructions (R212, R314 to R316, R343) -/

/-- BARA (R315). -/
def execBara (f : Fld) (s : State) : Host.Outcome State Fault Refusal :=
  issue (.bara f) (domainPre f) (fun y s => do
    let id := barId f y
    s.idChk f id 0x2C1
    onCtx s fun c => match s.baraGo c (objKey (spaceSid y.space) c.core id) with
      | none => .error (.wait s)
      | some s => .ok { s := s }) s

/-- BARW (R316). -/
def execBarw (f : Fld) (s : State) : Host.Outcome State Fault Refusal :=
  issue (.barw f) (domainPre f) (fun y s => do
    let id := barId f y
    s.idChk f id 0x2C2
    onCtx s fun c => s.awaitRecord c (objKey (spaceSid y.space) c.core id) true fun s => s) s

/-- BAR: a BARA followed by a BARW (R212). -/
def execBar (f : Fld) (s : State) : Host.Outcome State Fault Refusal :=
  issue (.bar f) (domainPre f) (fun y s => do
    let id := barId f y
    s.idChk f id 0x2C0
    onCtx s fun c =>
      let k := objKey (spaceSid y.space) c.core id
      if y.wait.isBarrier then s.awaitRecord c k true fun s => s
      else match s.baraGo c k with
        | none => .error (.wait s)
        | some s => .error (.wait (s.atBarrier c))) s

/-- STATUS.DN set in the three contexts of a frame (R44, R343). -/
def State.setDn (s : State) (core frm : Nat) : State :=
  (ctxsOf core frm).foldl (fun s c => s.updCtx (.ctx c) fun x => { x with status := setBit x.status 5 true }) s

/-- DONE (R343). -/
def execDone (f : Fld) (s : State) : Host.Outcome State Fault Refusal :=
  issue (.done f) (domainPre f) (fun y s => do
    let id := barId f y
    s.idChk f id 0x2C3
    onCtx s fun c => match s.publishAt s.cur (id.toNat / 4096) with
      | none => .error (.wait s)
      | some (s, ps) =>
        let s := (s.send ps).setDn c.core c.frm
        .ok { s := { s with arrivals := s.arrivals ++ [{ s.arrivalOf (objKey (spaceSid y.space) c.core id) c with fin := true }] } }) s

/-! ## PHASE, FENCE (R216, R350, R383) -/

/-- PHASE (R383): a publication point, then an acquire point. -/
def execPhase (f : Fld) (s : State) : Host.Outcome State Fault Refusal :=
  issue (.phase f) {} (fun _ s => match s.publishAt s.cur f.scope.toNat with
    | none => .error (.wait s)
    | some (s, ps) => .ok { s := (s.me Ctx.acquire).send ps }) s

/-- Does the context have a unit-space access on its way: a store, or a load not yet answered (R82, R193)? -/
def State.unitBusy (s : State) (c : CtxId) : Bool :=
  s.unitq.any (fun q => q.1 == c) ||
  (match s.ctxs.get (.ctx c) with
   | some x => x.out.any fun o => match o.what with | .unit _ => true | _ => false
   | none => false)

/-- Every earlier load, store and atomic of the context performed, and no later read (R193). None: FENCE waits. -/
def State.fenceAll (s : State) (c : CtxId) : Option (State × Sent) :=
  if s.unitBusy c then none else
  match s.performAll (.ctx c) with
  | none => none
  | some (s, ps) =>
    match s.applyAtoms (.ctx c) fun _ => true with
    | none => none
    | some (s, qs) => some (s.updCtx (.ctx c) Ctx.acquire, ps ++ qs)

/-- FENCE (R350). -/
def execFence (f : Fld) (s : State) : Host.Outcome State Fault Refusal :=
  issue (.fence f) {} (fun _ s => onCtx s fun c => match s.fenceAll c with
    | none => .error (.wait s)
    | some (s, ps) => .ok { s := s.send ps }) s

/-- The 64-byte granules of written device ranges, each with the window it was written through (R203). -/
def State.winGranules (s : State) (ts : List (Target × Nat)) : List (Nat × Nat) :=
  ts.flatMap fun p => match p.1 with
    | .dev sid obj off => (List.range p.2).filterMap fun i => (s.place sid obj (off + i)).map fun q => (q.key / 64, obj)
    | .scr .. => []

/-- Lines that other windows hold of a context's writes are invalidated; what the window of a write itself holds is not (R203). -/
def State.invalidateWin (s : State) (a : Agent) : State :=
  match s.ctxs.get a with
  | none => s
  | some x =>
    let fence (es : List OldLine) (g : Nat × Nat) : List OldLine := es.filterMap fun e =>
      if e.gran != g.1 then some e else if e.heldBy g.2 then some { e with only := some g.2 } else none
    { s.setCtx a { x with win := [] } with stale := (s.winGranules x.win).eraseDups.foldl fence s.stale }

/-- FENCE.WIN (R203). -/
def execFenceWin (f : Fld) (s : State) : Host.Outcome State Fault Refusal :=
  issue (.fenceWin f) {} (fun _ s => onCtx s fun c => match s.fenceAll c with
    | none => .error (.wait s)
    | some (s, ps) => .ok { s := (s.invalidateWin (.ctx c)).send ps }) s

/-- EVSIG (R347). -/
def execEvsig (f : Fld) (s : State) : Host.Outcome State Fault Refusal :=
  issue (.evsig f) {} (fun y s => do
    let a := srcW y f s.pairView.isSome f.sa
    let imm := f.off24.toInt
    let (core, u, off) ← s.localChk a imm
    if ! u || decide (off < 0x200) || decide (0x3F8 < off) || off % 8 != 0 then trap 0x14 (localEaddr a imm) 0
    onCtx s fun c =>
      let line : UnitWord := .event (clusterOf core) ((off - 0x200) / 8)
      if y.acqPending then .error (.wait s)
      else if f.ord = 2 then s.sendUnitRel c y 0 line 1
      else .ok { s := { s with unitq := s.unitq ++ [(c, line, 1)] } }) s

/-! ## The timed exchange (R218 to R220, R411) -/

/-- STATUS.XP set or cleared. -/
def Ctx.setXp (x : Ctx) (b : Bool) : Ctx := { x with status := setBit x.status 4 b }

/-- XBEGIN (R218). -/
def execXbegin (f : Fld) (s : State) : Host.Outcome State Fault Refusal :=
  issue (.xbegin f) { dyn02 := fun s _ => s.badDomain f.id } (fun y s => do
    let a := srcW y f s.pairView.isSome f.sa
    if y.xp then trap 0x20 0 (freeSlot s)
    let (core, off) ← s.scrChk a 0 128
    onCtx s fun c =>
      let k := objKey (spaceSid y.space) c.core f.id
      if y.wait.isBarrier then
        match s.awaitRecord c k false fun s => s.updCtx (.ctx c) fun x => x.setXp true with
        | .error (.trapIn s e a i) => .error (.trapIn (s.updCtx (.ctx c) fun x => { x with xch := none }) e a i)
        | r => r
      else do
        let (s, bs) ← s.loadNow y (.scr core off) 128
        let x : Exchange := { sched := BitVec.ofNat 1024 (leNat bs), key := k, start := none, restored := false }
        let s := s.updCtx (.ctx c) fun z => { z with xch := some x }
        .error (.wait ((s.sendArrival c k false true).atBarrier c))) s

/-- A send in a slot noted with its exchange phase; those of an earlier phase of the object are forgotten (R219). -/
def Core.noteSend (k : Core) (key : ObjKey) (t0 n : Nat) : Core :=
  { k with xsent := (key, t0, n) :: k.xsent.filter fun e => e.1 != key || e.2.1 == t0 }

/-- The bytes of an XSEND written at the receiver as aligned 8-byte units (R411). None: an earlier access of its own must wait. -/
def State.xsendPut (s : State) (c : CtxId) (e : Exchange) (n : Nat) (dst : Target) (v : Vec) : Option State :=
  match s.orderBefore (.ctx c) [(dst, 128)] true true with
  | none => none
  | some (s, ps) =>
    let r := State.putUnits 17 s dst (bytesOf 128 v.toNat)
    let s := r.1.updCtx (.ctx c) fun x => { x with wait := .none }
    let s := s.setCore c.core ((s.coreOf c.core).noteSend e.key (e.start.getD 0) n)
    some (s.send (ps ++ r.2.map fun p => (c, p)))

def Wait.isSent : Wait → Bool | .sent => true | _ => false

/-- XSEND (R219). -/
def execXsend (f : Fld) (s : State) : Host.Outcome State Fault Refusal :=
  issue (.xsend f) {} (fun y s => do
    let n := (f.imm.extractLsb' 0 10).toNat
    let slot : BitVec 32 := BitVec.ofNat 32 n
    let a := srcW y f s.pairView.isSome f.sa
    onCtx s fun c =>
      match y.xch with
      | none => trap 0x20 0 slot
      | some e =>
        if y.wait.isSent then do
          let t ← s.engineScratch a 128 128
          .ok { s := s.updCtx (.ctx c) fun x => { x with wait := .none }, after := s.watch38 .st [(t, 128)] }
        else
          match e.start with
          | none => trap 0x20 0 slot
          | some t0 =>
            if ! y.xp || ! e.sched.getLsbD n || e.restored || (s.coreOf c.core).xsent.contains (e.key, t0, n) || decide (t0 + 8 * n + 7 < s.clock) then
              trap 0x20 0 slot
            else do
              let t ← s.engineScratch a 128 128
              if y.acqPending then .error (.wait s)
              else if s.clock < t0 + 8 * n then
                .error (.wait (s.updCtx (.ctx c) fun x => { x with wait := .xsend (t0 + 8 * n) t (srcV y f false 32 f.sb) }))
              else
                match s.xsendPut c e n t (srcV y f false 32 f.sb) with
                | none => .error (.wait s)
                | some s => .ok { s := s, after := s.watch38 .st [(t, 128)] }) s

/-- XEND (R220): an arrival and a wait on the object of the XBEGIN; every earlier write and send is performed first. -/
def execXend (f : Fld) (s : State) : Host.Outcome State Fault Refusal :=
  issue (.xend f) {} (fun y s => onCtx s fun c =>
    match y.xch with
    | none => trap 0x20 0 (freeSlot s)
    | some e =>
      if ! y.xp then trap 0x20 0 (freeSlot s)
      else if y.wait.isBarrier then
        s.awaitRecord c e.key false fun s => s.updCtx (.ctx c) fun x => { x.setXp false with xch := none }
      else match s.publishAt s.cur (e.key.id.toNat / 4096) with
        | none => .error (.wait s)
        | some (s, ps) => .error (.wait (((s.send ps).sendArrival c e.key false false).atBarrier c))) s

/-! ## Events of barrier objects (R211, R212, R218, R219) -/

/-- ROUTER_ARRIVAL_FORWARD (R211): a router that may forwards what it holds for an object; which of several does is a free choice (R204; DESIGN
CHOICE, LOG 100). -/
def execRouterArrivalForward (o : ObjKey) (s : State) : Host.Outcome State Fault Refusal :=
  match (s.pick 1 (firstsOf (fun (a : Arrival) => a.key == o && a.router.any fun r => s.mayForward r o) Arrival.router s.arrivals)).bind
      fun i => (s.arrivals[i]?).bind Arrival.router with
  | none => .next s
  | some r => .next (s.forwardHeld r o)

/-- The first element that a test selects, and the list without it. -/
def takeFirst {α : Type} (sel : α → Bool) : List α → Option (α × List α)
  | [] => none
  | a :: as => if sel a then some (a, as) else (takeFirst sel as).map fun r => (r.1, a :: r.2)

/-- The source of what has reached a root: a router, or a context of the root's own cluster (R204). -/
def Arrival.source (a : Arrival) : Nat × Option CtxId := (a.port, if a.port < 1152 then a.who else none)

/-- Arrivals of one packet: forwarded by one router in one cycle. -/
def Arrival.with (a b : Arrival) : Bool := b.key == a.key && b.atRoot && b.source == a.source && b.time == a.time

/-- BARRIER_ROOT_ARRIVAL (R211): the root accepts a packet that has reached it, those of one source in order (R204; DESIGN CHOICE, LOG 100). -/
def execBarrierRootArrival (o : ObjKey) (s : State) : Host.Outcome State Fault Refusal :=
  match (s.pick 2 (firstsOf (fun (a : Arrival) => a.key == o && a.atRoot) Arrival.source s.arrivals)).bind fun i => s.arrivals[i]? with
  | none => .next s
  | some a =>
    let r := ({ s with arrivals := s.arrivals.filter fun b => ! a.with b }).rootAccept o (s.arrivals.filter a.with)
    .next (r.1.send r.2)

/-- BARRIER_RELEASE_ARRIVAL (R212): a context's next release reaches it. -/
def execBarrierReleaseArrival (c : CtxId) (s : State) : Host.Outcome State Fault Refusal :=
  match takeFirst (fun (r : Release) => r.who == c && ! r.xch) s.releases with
  | none => .next s
  | some (r, rest) => .next (({ s with releases := rest }).releaseAt r)

/-- XBEGIN_RELEASE (R218): T is 96 cycles after the firing, the same on every member; it is the T of an XBEGIN whose own phase that was. -/
def execXbeginRelease (o : ObjKey) (s : State) : Host.Outcome State Fault Refusal :=
  let sel (r : Release) : Bool := r.xch && r.key == o && decide (r.time + 96 ≤ s.clock)
  .next ((s.releases.filter sel).foldl (fun s r =>
    (s.releaseAt r).updHeld r.who fun x =>
      if r.broken || ! x.inXbegin r.key r.phase then x else { x with xch := x.xch.map fun e => { e with start := some (r.time + 96) } })
    { s with releases := s.releases.filter fun r => ! sel r })

/-- XSEND_SLOT_SEND (R219): a waiting XSEND sends once its slot's first cycle is reached; where the core has sent in the slot meanwhile it sends
nothing, and its issue then raises 0x20. -/
def execXsendSlotSend (c : CtxId) (s : State) : Host.Outcome State Fault Refusal :=
  match s.ctxs.get (.ctx c) with
  | none => .next s
  | some x =>
    match x.wait, x.xch with
    | .xsend t dst v, some e =>
      if s.clock < t then .next s else
      if (s.coreOf c.core).xsent.contains (e.key, e.start.getD 0, (t - e.start.getD 0) / 8) then
        .next (s.updCtx (.ctx c) fun x => { x with wait := .none }) else
      match s.xsendPut c e ((t - e.start.getD 0) / 8) dst v with
      | none => .next s
      | some s => .next (s.updCtx (.ctx c) fun x => { x with wait := .sent })
    | _, _ => .next s

/-! ## Events of tollgate lines (R205 to R208) -/

/-- The first store on its way that a test selects, no earlier one of its context to the same tollgate before it (R204, R205). -/
def takeUnit (sel : CtxId → UnitWord → Word → Bool) (seen : List (CtxId × Nat)) :
    List (CtxId × UnitWord × Word) → Option (CtxId × List (CtxId × UnitWord × Word))
  | [] => none
  | (c, u, v) :: rest =>
    if sel c u v && ! seen.contains (c, u.cluster) then some (c, rest)
    else (takeUnit sel ((c, u.cluster) :: seen) rest).map fun r => (r.1, (c, u, v) :: r.2)

/-- A store taken from those on their way, and its effect. -/
def State.unitEvent (s : State) (sel : CtxId → UnitWord → Word → Bool) (k : CtxId → State → State) :
    Host.Outcome State Fault Refusal :=
  match takeUnit sel [] s.unitq with
  | none => .next s
  | some (c, rest) => .next (k c { s with unitq := rest })

def execTollgateBarrierArrive (cluster line : Nat) (who : CtxId) (s : State) : Host.Outcome State Fault Refusal :=
  s.unitEvent (fun c u _ => c == who && u == .barrier cluster line) fun c s => s.barArrive cluster line c

def execTollgateBarrierConfig (cluster line : Nat) (v : BitVec 64) (s : State) : Host.Outcome State Fault Refusal :=
  s.unitEvent (fun _ u w => u == .config cluster line && w == v) fun _ s => s.barConfig cluster line v

def execTollgateMutexFree (cluster line : Nat) (who : CtxId) (s : State) : Host.Outcome State Fault Refusal :=
  s.unitEvent (fun c u _ => c == who && u == .mutex cluster line) fun c s => s.mutexFree cluster line c

def execTollgateEventSignal (cluster line : Nat) (s : State) : Host.Outcome State Fault Refusal :=
  s.unitEvent (fun _ u w => u == .event cluster line && w == 1) fun _ s => s.eventSignal cluster line

def execTollgateEventClear (cluster line : Nat) (s : State) : Host.Outcome State Fault Refusal :=
  s.unitEvent (fun _ u w => u == .event cluster line && w == 0) fun _ s => s.eventClear cluster line

/-- A context's n-th uncompleted producer, when it is a unit-space load that no earlier store of the context to that tollgate
precedes (R82, R205). -/
def State.unitLoad (s : State) (c : CtxId) (n : Nat) : Option UnitWord :=
  match s.ctxs.get (.ctx c) with
  | none => none
  | some x => match x.out[n]? with
    | some o => (match o.what with
      | .unit u => if s.unitBefore c u then none else some u
      | _ => none)
    | none => none

def execTollgateBarrierLoad (c : CtxId) (n : Nat) (s : State) : Host.Outcome State Fault Refusal :=
  match s.unitLoad c n with
  | some (.barrier cl l) => .next (s.barLoad cl l c)
  | _ => .next s

def execTollgateMutexAcquire (c : CtxId) (n : Nat) (s : State) : Host.Outcome State Fault Refusal :=
  match s.unitLoad c n with
  | some (.mutex cl l) => .next (s.mutexLoad cl l c)
  | _ => .next s

def execTollgateEventWait (c : CtxId) (n : Nat) (s : State) : Host.Outcome State Fault Refusal :=
  match s.unitLoad c n with
  | some (.event cl l) => .next (s.eventLoad cl l c)
  | _ => .next s

end Sys2Proof.Machine
end

