-- ==== Sys2Proof/Machine/Jobs.lean ====
section
/-! DEFINITION. What the device does with task types, job cards, records, continuations and outbound pages (spec/03_execution.md R20 to
R25, R41 to R45, R416; spec/04_scheduling.md R50, R56 to R58, R67; spec/15_host_pod.md R259). -/

namespace Sys2Proof.Machine

/-! ## Task types (R23 to R25) -/

def tdGet (d : BitVec 512) (byte n : Nat) : Nat := d.toNat / 256 ^ byte % 256 ^ n
def tdLent (d : BitVec 512) : Nat := tdGet d 0 2
def tdSent (d : BitVec 512) : Nat := tdGet d 2 2
def tdCent (d : BitVec 512) : Nat := tdGet d 4 2
def tdLgdem (d : BitVec 512) : Nat := tdGet d 6 1
def tdSgdem (d : BitVec 512) : Nat := tdGet d 7 1
def tdCgdem (d : BitVec 512) : Nat := tdGet d 8 1
def tdVdem (d : BitVec 512) : Nat := tdGet d 9 1
def tdSdem (d : BitVec 512) : Nat := tdGet d 10 2
def tdAdem (d : BitVec 512) : Nat := tdGet d 12 1
def tdGw (d : BitVec 512) : Nat := tdGet d 13 1
def tdGcols (d : BitVec 512) : Nat := tdGet d 14 1
def tdMovable (d : BitVec 512) : Bool := d.getLsbD 120
def tdPrio (d : BitVec 512) : Nat := tdGet d 16 1
def tdCbd (d : BitVec 512) (n : Nat) : BitVec 32 := BitVec.ofNat 32 (tdGet d (24 + 4 * n) 4)
def tdSem (d : BitVec 512) (n : Nat) : BitVec 8 := BitVec.ofNat 8 (tdGet d (56 + n) 1)

/-- A buffer descriptor's fields (R24). -/
def cbdProd (d : BitVec 32) : Nat := (d.extractLsb' 29 2).toNat
def cbdCons (d : BitVec 32) : Nat := (d.extractLsb' 27 2).toNat
def cbdRows (d : BitVec 32) : Nat := ((d.extractLsb' 21 6).toNat + 1) * (d.extractLsb' 13 8).toNat

/-- An enabled buffer that R25 makes invalid. -/
def cbdBad (d : BitVec 32) (sdem : Nat) : Bool :=
  d.getLsbD 31 && (cbdProd d == cbdCons d || cbdProd d == 3 || cbdCons d == 3 || d.extractLsb' 13 8 == 0 ||
    decide (sdem * 16 < (d.extractLsb' 0 13).toNat + cbdRows d))

/-- Is a task-type entry valid (R25)? A reserved bit beside a field is ignored (R6). A field's own bits that R23 gives no use (above LENT[7:0],
SENT[7:0] and CENT[11:0], above DEFPRIO's range) make it invalid where set (DESIGN CHOICE, LOG 117). -/
def tdescOk (d : BitVec 512) : Bool :=
  let g (n : Nat) : Bool := decide (6 ≤ n) && decide (n ≤ 64)
  decide (tdLent d ≤ 255) && decide (tdSent d ≤ 255) && decide (tdCent d ≤ 4095) && g (tdLgdem d) && g (tdSgdem d) && g (tdCgdem d) &&
  decide (tdVdem d ≤ 32) && decide (tdSdem d ≤ 512) && tdSdem d % 4 == 0 && decide (tdAdem d ≤ 4) &&
  decide (1 ≤ tdGw d) && decide (tdGw d ≤ 48) && decide (1 ≤ tdGcols d) && decide (tdGcols d ≤ 8) && tdGw d % tdGcols d == 0 &&
  decide (tdGw d / tdGcols d ≤ 6) && decide (tdPrio d ≤ 7) && tdGet d 17 7 == 0 &&
  (List.range 8).all fun n => ! cbdBad (tdCbd d n) (tdSdem d)

/-- A space's task-type entry, as memory holds it (R23). -/
def State.taskEntry (s : State) (space : Word) (n : Nat) : BitVec 512 :=
  match s.spaces.get (spaceSid space) with
  | some sp => leLine (memRead s.mem (sp.taskTab + 64 * n) 64)
  | none => 0

/-! ## Records and cards (R20, R21) -/

def recType (r : BitVec 128) : Nat := (r.extractLsb' 0 10).toNat
def recPinned (r : BitVec 128) : Bool := r.getLsbD 10
def recKeyed (r : BitVec 128) : Bool := r.getLsbD 11
def recArg (r : BitVec 128) : Word := r.extractLsb' 64 64

namespace Card
variable (c : BitVec 1024)
def get (byte n : Nat) : Nat := c.toNat / 256 ^ byte % 256 ^ n
def capAt (byte : Nat) : Cap := BitVec.ofNat 128 (get c byte 16)
def typeWord : Nat := get c 0 2
def prio : Nat := get c 2 1 % 8
def guided : Bool := c.getLsbD 24
def pinned : Bool := c.getLsbD 25
def notify : Bool := c.getLsbD 26
def count : Nat := get c 4 4
/-- RECSZ as it stands, in its range or not (R21; DESIGN CHOICE, LOG 104). -/
def recsz : Nat := get c 8 2
def minChunk : Nat := max 1 (get c 10 2)
def divisor : Nat := max 1 (get c 12 2)
def array : Cap := capAt c 16
def doneword : Cap := capAt c 32
def span : Nat := get c 48 3
def leaseCnt : Nat := get c 52 2
def parent : Word := BitVec.ofNat 64 (get c 56 8)
def leaseList : Cap := capAt c 64
/-- JOB of an error record (R42). -/
def jobWord : Word := BitVec.ofNat 64 (CapF.obj (doneword c) * 2 ^ 40 + CapF.base (doneword c))
end Card

def State.updJob (s : State) (j : Nat) (g : Job → Job) : State :=
  match s.jobs.get j with
  | some x => { s with jobs := s.jobs.set j (g x) }
  | none => s

/-- The JOB word of a job (R42). -/
def State.jobWord (s : State) (j : Nat) : Word := match s.jobs.get j with | some x => Card.jobWord x.card | none => 0

/-- One more item of a job counted as sent, or as received (R45). -/
def State.jobSent (s : State) (j : Nat) : State := s.updJob j fun x => { x with sent := x.sent + 1 }
def State.jobReceived (s : State) (j : Nat) : State := s.updJob j fun x => { x with received := x.received + 1 }

/-- A cluster joins a job's sweep set (R45). -/
def State.jobTouch (s : State) (j cl : Nat) : State :=
  s.updJob j fun x => if x.touched.contains cl then x else { x with touched := cl :: x.touched }

/-! ## Outbound pages (R259) -/

/-- Bytes of host memory written. -/
def State.hostWrite (s : State) (a : Nat) (bs : List Byte) : State := { s with hostMem := memWrite s.hostMem a bs }

/-- An outbound entry's 64 bytes. -/
def outEntry (body : BitVec 256) (kind : Nat) (lost : Bool) (seq : BitVec 32) : BitVec 512 :=
  BitVec.ofNat 512 (body.toNat + kind % 256 * 2 ^ 256 + lost.toNat * 2 ^ 264 + seq.toNat * 2 ^ 288)

/-- SEQ of an outbound entry. -/
def outSeq (e : BitVec 512) : Nat := (e.extractLsb' 288 32).toNat

/-- An entry written to the ring in host memory; the first unacknowledged one sends an interrupt. -/
def State.outWrite (s : State) (sid : Nat) (sp : Space) (e : BitVec 512) : State :=
  let s := s.hostWrite (sp.outPage + 64 * (outSeq e % 64)) (bytesOf 64 e.toNat)
  { s with spaces := s.spaces.set sid { sp with unacked := sp.unacked + 1 },
           interrupts := if sp.unacked = 0 then s.interrupts ++ [sid % 64] else s.interrupts }

/-- One outbound entry of a space: written, held while the ring is full, or dropped with LOST for the next. -/
def State.outbound (s : State) (sid kind : Nat) (body : BitVec 256) : State :=
  match s.spaces.get sid with
  | none => s
  | some sp =>
    if sp.unacked < 64 ∧ sp.heldOut.isEmpty then
      s.outWrite sid { sp with seq := sp.seq + 1, lost := false } (outEntry body kind sp.lost (sp.seq + 1))
    else if sp.heldOut.length < 4096 then
      let e := outEntry body kind sp.lost (sp.seq + 1)
      { s with spaces := s.spaces.set sid { sp with seq := sp.seq + 1, lost := false, heldOut := sp.heldOut ++ [e] } }
    else { s with spaces := s.spaces.set sid { sp with lost := true } }

/-- What an error record says (R42, R416). -/
structure ErrRec where
  type : Nat := 0xFFFF
  cause : Cause
  ctx : Nat := 3
  index : Nat := 0xFFFFFFFF
  addr : Word := 0
  pc : Pc := 0
  job : Word

/-- An error record's 32 bytes. -/
def ErrRec.body (r : ErrRec) : BitVec 256 :=
  BitVec.ofNat 256 (r.type % 65536 + r.cause.toNat * 2 ^ 16 + r.ctx % 256 * 2 ^ 24 + r.index % 2 ^ 32 * 2 ^ 32 + r.addr.toNat * 2 ^ 64 +
    r.pc.toNat * 2 ^ 128 + r.job.toNat * 2 ^ 192)

def State.errorRecord (s : State) (sid : Nat) (r : ErrRec) : State := s.outbound sid 1 r.body

/-! ## Dispatcher sources (R56 to R60) -/

def Level.size (l : Level) : Nat := l.dealer.length + l.spawn.length + l.cont.length

def Cluster.setLevel (c : Cluster) (n : Nat) (l : Level) : Cluster := { c with levels := c.levels.set! n l }

/-- SPILL's fields (R57). -/
def Cluster.spillEn (c : Cluster) : Bool := c.spillReg.getLsbD 63
def Cluster.ringAddr (c : Cluster) (level slot : Nat) : Nat :=
  (c.spillReg.extractLsb' 12 28).toNat * 4096 + level * 2 ^ c.rsz * 32 + slot * 32

/-- May a level take no further entry: 256 on chip, and its ring full or absent (R57, R58)? -/
def Cluster.levelFull (c : Cluster) (n : Nat) : Bool :=
  let l := c.level n
  decide (256 ≤ l.onChip) && (! c.spillEn || decide (2 ^ c.rsz ≤ l.spilled.length))

/-- The sources of a level (R56). -/
inductive Source where
  | dealer | spawn | cont
  deriving DecidableEq, Repr

def Source.num : Source → Nat | .dealer => 0 | .spawn => 1 | .cont => 2
def Level.source (l : Level) : Source → List QEntry | .dealer => l.dealer | .spawn => l.spawn | .cont => l.cont
def Level.setSource (l : Level) (k : Source) (q : List QEntry) : Level :=
  match k with
  | .dealer => { l with dealer := q }
  | .spawn => { l with spawn := q }
  | .cont => { l with cont := q }

/-- The key of an entry of a keyed level (R60). -/
def QEntry.key (e : QEntry) : Nat := if recKeyed e.task.bytes then ((recArg e.task.bytes).extractLsb' 32 32).toNat else 0xFFFFFFFF

/-- The first entry of the smallest key (R60). -/
def minKey : List QEntry → Option QEntry
  | [] => none
  | e :: es => match minKey es with
    | none => some e
    | some f => if e.key ≤ f.key then some e else some f

/-- What a source offers: its head, or in a keyed level its first entry of the smallest key (R59, R60). -/
def Level.offer (l : Level) (k : Source) : Option QEntry := if l.keyed then minKey (l.source k) else (l.source k).head?

/-- The cyclic order of the sources from the one after the last winner (R59). -/
def sourceOrder (ptr : Nat) : List Source :=
  match ptr with
  | 0 => [.spawn, .cont, .dealer]
  | 1 => [.cont, .dealer, .spawn]
  | _ => [.dealer, .spawn, .cont]

/-- A level's candidate (R59, R60). -/
def Level.candidate (l : Level) : Option (Source × QEntry) :=
  let os := (sourceOrder l.ptr).filterMap fun k => (l.offer k).map fun e => (k, e)
  if l.keyed then
    match minKey (os.map (·.2)) with
    | none => none
    | some m => os.find? fun o => o.2.key == m.key
  else os.head?

/-- An entry that is not its level's candidate has been passed over no time (R62). -/
def Level.settle (l : Level) : Level :=
  let keep := match l.candidate with | some c => some c.2.seq | none => none
  let f (q : List QEntry) := q.map fun e => if keep = some e.seq then e else { e with passed := 0 }
  { l with dealer := f l.dealer, spawn := f l.spawn, cont := f l.cont }

/-- A spill entry's bytes (R58). -/
def spillBytes (rec_ : BitVec 128) (src seq : Nat) : List Byte :=
  bytesOf 16 rec_.toNat ++ bytesOf 8 src ++ bytesOf 8 seq

/-- A cluster's spilled records as the rings in device memory hold them (R57, R58): a write to a ring reaches them. -/
def State.readRings (s : State) (cl : Nat) : State :=
  let c := s.clusterAt cl
  if c.levels.toList.all fun l => l.spilled.isEmpty then s else
  let ring (n i : Nat) : BitVec 128 := BitVec.ofNat 128 (leNat (memRead s.mem (c.ringAddr n i) 16))
  let read (n : Nat) (q : List QEntry) : List QEntry := q.map fun e => match e.spill with
    | some i => { e with task := { e.task with bytes := ring n i } }
    | none => e
  s.setCluster cl { c with levels := Vector.ofFn fun n =>
    let l := c.level n.val
    { l with dealer := read n.val l.dealer, spawn := read n.val l.spawn, cont := read n.val l.cont } }

/-- A record enters a source of its level: on chip, or with its level's chip full in the lowest free place of the ring (R58; DESIGN CHOICE,
LOG 109). -/
def State.enterQueue (s : State) (cl : Nat) (k : Source) (t : Task) : State :=
  let s := s.readRings cl
  let c := s.clusterAt cl
  let l := c.level t.level
  let slot := if l.onChip < 256 || ! c.spillEn then none else (List.range (2 ^ c.rsz)).find? fun i => ! l.spilled.contains i
  let e : QEntry := { task := t, seq := c.seqNo, passed := 0, spill := slot }
  let l := (l.setSource k (l.source k ++ [e])).settle
  let s := s.setCluster cl { c.setLevel t.level l with seqNo := c.seqNo + 1 }
  let s := match slot with
    | some i => { s with mem := memWrite s.mem (c.ringAddr t.level i) (spillBytes t.bytes k.num c.seqNo) }
    | none => s
  s.jobTouch t.job cl

/-! ## Proxy queues (R67) -/

/-- A shadow entry's 32 bytes. -/
def proxyImage (rec_ : BitVec 128) (cid : Word) (kind prio : Nat) (def_ : Bool) (cl job pkg : Nat) : BitVec 256 :=
  BitVec.ofNat 256 (rec_.toNat + cid.toNat * 2 ^ 128 + kind % 256 * 2 ^ 192 + (prio % 8 + 8 * def_.toNat) * 2 ^ 200 +
    cl % 256 * 2 ^ 208 + job % 256 * 2 ^ 216 + pkg % 256 * 2 ^ 224)

/-- The die of a cluster. -/
def dieOfCluster (cl : Nat) : Nat := cl / 12

/-- The Gleit link that leads to a package: the first whose peer it is; 16 when none is. -/
def State.linkTo (s : State) (pkg : Nat) : Nat :=
  ((List.range 16).find? fun n => match s.links.toList[n]? with
    | some l => l.state != 0 && l.peer.toNat == pkg
    | none => false).getD 16

/-- Where an item for a cluster of a package goes from a die: none when no proxy queue lies on the way. -/
def State.proxyDest (s : State) (die pkg cl : Nat) : Option ProxyDest :=
  if pkg ≠ s.boot.ownPkg.toNat then some (.link (s.linkTo pkg))
  else if dieOfCluster cl ≠ die ∧ cl < 24 then some (.die (dieOfCluster cl))
  else none

def State.shadow (s : State) (die : Nat) (d : ProxyDest) : List ProxyEntry := (s.proxies.get (die, d)).getD []
def State.pushShadow (s : State) (die : Nat) (d : ProxyDest) (e : ProxyEntry) : State :=
  { s with proxies := s.proxies.set (die, d) (s.shadow die d ++ [e]) }

/-- An item owed back by a link's peer (R266): a record, or a decrement. -/
def State.oweLink (s : State) (j : Nat) (d : ProxyDest) (isRecord : Bool) : State :=
  match d with
  | .die _ => s
  | .link n => s.updJob j fun x =>
    let k := if isRecord then 2 * n else 2 * n + 1
    { x with owed := x.owed.set k ((x.owed.get k).getD 0 + 1) }

/-! ## Continuations (R22, R43, R336) -/

/-- The fields of a continuation id. -/
def cidGen (w : Word) : BitVec 8 := w.extractLsb' 56 8
def cidPkg (w : Word) : Nat := (w.extractLsb' 48 8).toNat
def cidCluster (w : Word) : Nat := (w.extractLsb' 32 5).toNat
def cidSlot (w : Word) : Nat := (w.extractLsb' 0 32).toNat
def mkCid (gen : BitVec 8) (pkg cl slot : Nat) : Word :=
  BitVec.ofNat 64 (gen.toNat * 2 ^ 56 + pkg % 256 * 2 ^ 48 + cl % 32 * 2 ^ 32 + slot % 2 ^ 32)

/-- A slot's next generation: 1 to 255, skipping 0 (R396). -/
def nextGen (g : BitVec 8) : BitVec 8 := if g = 0xFF then 1 else g + 1

/-- A continuation slot; one never used has generation 1. -/
def Cluster.cont (c : Cluster) (n : Nat) : Cont := (c.conts.get n).getD { gen := 1, live := none, ready := false }

/-- A decrement written to a proxy shadow (R67). -/
def State.shadowDecrement (s : State) (q : Nat × ProxyDest) (d : Decrement) : State :=
  s.pushShadow q.1 q.2 { bytes := proxyImage 0 d.cid 1 0 false (cidCluster d.cid) (d.job.getD 0) s.boot.ownPkg.toNat, task := none,
                         dec := some d, who := d.who }

/-- Has a shadow room for one more entry (R67)? -/
def State.shadowRoom (s : State) (q : Nat × ProxyDest) : Bool := decide ((s.shadow q.1 q.2).length < 1024)

/-- A decrement sent from a die towards the continuation's cluster (R43, R67). It waits while its shadow is full (DESIGN CHOICE, LOG 112). -/
def State.postDecrement (s : State) (die : Nat) (d : Decrement) : State :=
  let s := match d.job with | some j => s.jobSent j | none => s
  match s.proxyDest die (cidPkg d.cid) (cidCluster d.cid) with
  | none => { s with decs := s.decs ++ [d] }
  | some q =>
    let s := match d.job with | some j => s.oweLink j q false | none => s
    if s.shadowRoom (die, q) && ! s.decs.any (fun e => e.stuck == some (die, q)) then s.shadowDecrement (die, q) d
    else { s with decs := s.decs ++ [{ d with stuck := some (die, q) }] }

/-- The decrement of a parent, sent as `postDecrement` says; no id, none. -/
def State.sendDecrement (s : State) (die : Nat) (d : Decrement) : State := if d.cid = 0 then s else s.postDecrement die d

/-- A continuation whose counter is 0 becomes a record of its level, as soon as the level has room (R43, R58). -/
def State.contBecomes (s : State) (cl slot : Nat) : State :=
  let c := s.clusterAt cl
  match c.cont slot with
  | { gen := g, live := some (r, space, level, job), ready := true } =>
    if c.levelFull level then s else
    let t : Task :=
      { bytes := BitVec.ofNat 128 ((r.extractLsb' 0 16).toNat + (r.extractLsb' 192 64).toNat * 2 ^ 64), level := level, index := 0xFFFFFFFF,
        job := job, parent := 0, kind := .continuation, b1 := r.extractLsb' 64 128, space := space }
    (s.setCluster cl { c with conts := c.conts.set slot { gen := nextGen g, live := none, ready := false } }).enterQueue cl .cont t
  | _ => s

/-- Every continuation of a cluster that waits for room tries again. -/
def State.contsRetry (s : State) (cl : Nat) : State :=
  ((s.clusterAt cl).conts.filter fun p => p.2.ready).foldl (fun s p => s.contBecomes cl p.1) s

/-- A decrement applied at its cluster (R43): an old generation writes an error record, and so does an id of no live continuation (DESIGN
CHOICE, LOG 106). -/
def State.applyDecrement (s : State) (d : Decrement) : State :=
  let cl := cidCluster d.cid
  let slot := cidSlot d.cid
  let got (s : State) : State := match d.job with | some j => s.jobReceived j | none => s
  let s := match d.job with | some j => if cl < 24 then s.jobTouch j cl else s | none => s
  let c := s.clusterAt cl
  let stale (s : State) : State :=
    (got s).errorRecord d.sid { cause := 0x30, addr := d.cid, job := d.jobWord }
  if 24 ≤ cl ∨ cidPkg d.cid ≠ s.boot.ownPkg.toNat then stale s else
  match c.cont slot with
  | { gen := g, live := some (r, space, level, job), ready := false } =>
    if g ≠ cidGen d.cid then stale s else
    let n := (r.extractLsb' 32 32).toNat - 1
    let r' : BitVec 256 := BitVec.ofNat 256 (r.toNat - 2 ^ 32)
    let s := s.setCluster cl { c with conts := c.conts.set slot { gen := g, live := some (r', space, level, job), ready := n == 0 } }
    if n = 0 then got ((s.jobSent job).contBecomes cl slot) else got s
  | _ => stale s

/-! ## Jobs that start and end (R21, R25, R45) -/

/-- Continuations of a job that wait for decrements: (cluster, slot, id, record). -/
def State.jobConts (s : State) (j : Nat) : List (Nat × Nat × Word × BitVec 256) :=
  s.clusters.flatMap fun (p : Nat × Cluster) => p.2.conts.filterMap fun (q : Nat × Cont) =>
    match q.2.live with
    | some (r, _, _, k) => if k = j && ! q.2.ready then some (p.1, q.1, mkCid q.2.gen s.boot.ownPkg.toNat p.1 q.1, r) else none
    | none => none

/-- A continuation's slot freed, its generation advanced. -/
def State.dropCont (s : State) (cl slot : Nat) : State :=
  let c := s.clusterAt cl
  s.setCluster cl { c with conts := c.conts.set slot { gen := nextGen (c.cont slot).gen, live := none, ready := false } }

/-- The done word of a job written with release ordering (R45). None while its slab migrates. -/
def State.writeDone (s : State) (card : BitVec 1024) (sid done failed : Nat) : Option State :=
  let dw := Card.doneword card
  let (obj, off) := (CapF.obj dw, CapF.base dw)
  let bytes := bytesOf 8 (failed % 2 ^ 32 * 2 ^ 32 + done % 2 ^ 32)
  if (s.objEntry sid obj).isNone then some s else
  match s.devTouch 0 sid obj off 8 false with
  | none => none
  | some s =>
    if s.markHeld [(sid, obj, off, 8)] then none
    else some (((s.beforeWrite sid obj off 8).markStep [(sid, obj, off, 8)]).devWrite sid obj off bytes)

/-- The steps that end a job (R45): done word, PARENT, host. -/
def State.completeCard (s : State) (card : BitVec 1024) (sid done failed : Nat) : Option State :=
  match s.writeDone card sid done failed with
  | none => none
  | some s =>
    let s := s.sendDecrement 0 { cid := Card.parent card, job := none, sid := sid, jobWord := Card.jobWord card }
    some (if Card.notify card then
      s.outbound sid 2 (BitVec.ofNat 256 (failed % 2 ^ 32 * 2 ^ 32 + done % 2 ^ 32 + (Card.jobWord card).toNat * 2 ^ 64 +
        Card.typeWord card * 2 ^ 128))
    else s)

/-- A free active-job slot (R45). -/
def State.freeJob (s : State) : Option Nat := (List.range 256).find? fun n => (s.jobs.get n).isNone

/-- A card taken into the active set (R21, R25, R45): one with COUNT 0 or an invalid TYPE ends at once. None: it must wait. The TYPE of its
error record is the card's whole TYPE word (R416; DESIGN CHOICE, LOG 105). -/
def State.acceptCard (s : State) (space : Word) (card : BitVec 1024) : Option State :=
  let sid := spaceSid space
  match s.freeJob with
  | none => none
  | some n =>
    if Card.count card = 0 then s.completeCard card sid 0 0
    else if ! tdescOk (s.taskEntry space (Card.typeWord card % 1024)) then
      (s.errorRecord sid { type := Card.typeWord card, cause := 0x02, job := Card.jobWord card }).completeCard card sid 0 (Card.count card)
    else
      let j : Job := { card := card, space := space, stage := .leasing 0, lease := [], dealt := 0, sent := 0, received := 0, done := 0,
                       failed := 0, sweep := none, killed := false, mirror := none, owed := [], touched := [], extNo := 0 }
      some { s with jobs := s.jobs.set n j }

/-- A card's DONEWORD check (R21). -/
def State.donewordCause (s : State) (space : Word) (card : BitVec 1024) : Option Cause :=
  s.capCause space (Card.doneword card) (CapF.base (Card.doneword card)) 8 { w := true } 8

end Sys2Proof.Machine
end

