-- ==== Sys2Proof/Machine/Task.lean ====
section
/-! DEFINITION. Group 0xC: SPAWN, JOB, CONT and JOIN (spec/23_ref_c_f.md R336, spec/24_ref_g_m.md R362, R363, spec/25_ref_n_s.md R396,
R397; spec/03_execution.md R20 to R22, R43). -/

namespace Sys2Proof.Machine

/-- A package that an instruction may not name (R363, R396): another's, without feature bit 8 or outside the pod. -/
def State.badPackage (s : State) (pkg : Nat) : Bool :=
  pkg != s.boot.ownPkg.toNat && (! s.feature 8 || decide (s.boot.podSize.toNat ≤ pkg))

namespace Fld
variable (f : Fld)
def spawnLocal : Bool := f.imm.getLsbD 4
def spawnOwn : Bool := f.imm.getLsbD 16
def spawnDef : Bool := f.imm.getLsbD 3
def spawnPrio : Nat := (f.imm.extractLsb' 0 3).toNat
def spawnCluster : Nat := (f.imm.extractLsb' 5 5).toNat
def spawnPkg : Nat := (f.imm.extractLsb' 10 6).toNat
def contType : Nat := (f.imm.extractLsb' 0 10).toNat
def contPrio : Nat := (f.imm.extractLsb' 10 3).toNat
def contDef : Bool := f.imm.getLsbD 13
def contPinned : Bool := f.imm.getLsbD 14
end Fld

/-- SPAWN (R397). -/
def execSpawn (f : Fld) (s : State) : Host.Outcome State Fault Refusal :=
  issue (.spawn f) {} (fun y s => do
    let pair := s.pairView.isSome
    let w := srcW y f pair f.sa
    let arg := srcW y f pair f.sb
    let gp := srcW y f pair f.sc
    let td := s.taskEntry y.space (w.extractLsb' 0 10).toNat
    if w.extractLsb' 12 4 ≠ 0 ∨ ! tdescOk td then trap 0x02 0 0x300
    let own := s.boot.ownPkg.toNat
    let pkg := if (Fld.spawnLocal f) || (Fld.spawnOwn f) then own else (Fld.spawnPkg f)
    if s.badPackage pkg then trap 0x14 0 0
    match s.cur, s.curFrame with
    | .ctx c, some fr =>
      let cl := if (Fld.spawnLocal f) then clusterOf c.core else (Fld.spawnCluster f)
      let level := if (Fld.spawnDef f) then tdPrio td else (Fld.spawnPrio f)
      let t : Task := { bytes := BitVec.ofNat 128 (w.toNat + arg.toNat * 2 ^ 64), level := level, index := 0xFFFFFFFF, job := fr.task.job,
                        parent := gp, kind := .spawned, b1 := 0, space := y.space }
      match s.proxyDest (dieOf c.core) pkg cl with
      | some q =>
        if 1024 ≤ (s.shadow (dieOf c.core) q).length then .error (.wait s) else
        match s.publish s.cur with
        | none => .error (.wait s)
        | some (s, ps) =>
          let img := proxyImage t.bytes gp 0 level (Fld.spawnDef f) cl fr.task.job own
          .ok { s := (((s.jobSent fr.task.job).oweLink fr.task.job q true).pushShadow (dieOf c.core) q
                  { bytes := img, task := some t, dec := none, who := some c }).send ps }
      | none =>
        if (s.clusterAt cl).levelFull level then .error (.wait s) else
        match s.publish s.cur with
        | none => .error (.wait s)
        | some (s, ps) =>
          let k := s.clusterAt cl
          .ok { s := (((s.jobSent fr.task.job).setCluster cl { k with arriving := k.arriving ++ [(some c, t)] })).send ps }
    | _, _ => .ok { s := s }) s

/-- The card that JOB reads, its capabilities with their granules' tags (R86, R362). -/
def State.cardOf (s : State) (t : Target) (bs : List Byte) : BitVec 1024 :=
  let tag (i : Nat) : Bool := match t with | .dev sid obj off => s.devTag sid obj (off + i) | .scr .. => false
  let n := leNat bs
  let fix (n i : Nat) : Nat := if n / 2 ^ (8 * i + 127) % 2 = 1 ∧ ! tag i then n - 2 ^ (8 * i + 127)
    else if n / 2 ^ (8 * i + 127) % 2 = 0 ∧ tag i then n + 2 ^ (8 * i + 127) else n
  BitVec.ofNat 1024 (fix (fix (fix n 16) 32) 64)

/-- JOB (R362). -/
def execJob (f : Fld) (s : State) : Host.Outcome State Fault Refusal :=
  issue (.job f) {} (fun y s => do
    let off := capOff (srcW y f s.pairView.isSome f.sb) f.off24.toInt
    let t ← s.devChk y f.sa off 128 { r := true } false
    let (s, bs) ← s.loadNow y t 128
    let card := s.cardOf t bs
    match s.donewordCause y.space card with
    | some c => trap c (offWord (off + 32)) (if c = 0x15 then 0 else bIndex f.sa)
    | none =>
      match s.publish s.cur with
      | none => .error (.wait s)
      | some (s1, ps) =>
        match s1.acceptCard y.space card with
        | none => .error (.wait (s1.send ps))
        | some s2 => .ok { s := s2.send ps }) s

/-- CONT (R336). -/
def execCont (f : Fld) (s : State) : Host.Outcome State Fault Refusal :=
  issue (.cont f) {} (fun y s => do
    let pair := s.pairView.isSome
    let n := ((srcW y f pair f.sb).extractLsb' 0 32).toNat
    let td := s.taskEntry y.space (Fld.contType f)
    if n = 0 ∨ ! tdescOk td then trap 0x02 0 0x302
    match s.cur, s.curFrame with
    | .ctx c, some fr =>
      let cl := clusterOf c.core
      let k := s.clusterAt cl
      match (List.range 4096).find? fun i => (k.cont i).live.isNone with
      | none => .error (.wait s)
      | some slot =>
        let level := if (Fld.contDef f) then tdPrio td else (Fld.contPrio f)
        let rec_ : BitVec 256 := BitVec.ofNat 256 ((Fld.contType f) + (Fld.contPinned f).toNat * 2 ^ 10 + level * 2 ^ 16 + (Fld.contPinned f).toNat * 2 ^ 24 +
          n * 2 ^ 32 + (srcC y f.sa).toNat * 2 ^ 64 + (srcW y f pair f.sc).toNat * 2 ^ 192)
        let gen := (k.cont slot).gen
        let s := s.setCluster cl { k with conts := k.conts.set slot { gen := gen, live := some (rec_, y.space, level, fr.task.job), ready := false } }
        .ok (scalarResult s f.dst (mkCid gen s.boot.ownPkg.toNat cl slot))
    | _, _ => .ok { s := s }) s

/-- JOIN (R363): an id of 0 is sent like any other, and matches no continuation. -/
def execJoin (f : Fld) (s : State) : Host.Outcome State Fault Refusal :=
  issue (.join f) {} (fun y s => do
    let cid := srcW y f s.pairView.isSome f.sa
    if s.badPackage (cidPkg cid) then trap 0x14 0 0
    match s.cur, s.curFrame with
    | .ctx c, some fr =>
      match s.publish s.cur with
      | none => .error (.wait s)
      | some (s, ps) =>
        let j := fr.task.job
        .ok { s := (s.postDecrement (dieOf c.core)
                { cid := cid, job := some j, sid := spaceSid y.space, jobWord := s.jobWord j, who := some c }).send ps }
    | _, _ => .ok { s := s }) s

end Sys2Proof.Machine
end

