-- ==== Sys2Proof/Machine/System.lean ====
section
/-! DEFINITION. Group 0xD: system registers, IDLE, FEAT, XFLUSH, SLOTSET, leases, and the issue of FSAVE and FREST
(spec/14_faults.md R240, R241, R246, R248, R251 to R254; spec/04_scheduling.md R51 to R53, R65, R68 to R72; spec/15_host_pod.md R263;
spec/23_ref_c_f.md R352 to R355, spec/24_ref_g_m.md R357 to R360, R370, R371, spec/25_ref_n_s.md R391, R395,
spec/26_ref_v_y.md R412). -/

namespace Sys2Proof.Machine

/-! ## Reading system registers (R240, R357) -/

/-- FRAME (R29). -/
def frameWord (f : Frame) (c : CtxId) : Word :=
  BitVec.ofNat 64 (f.gbar.toNat * 2 ^ 32 + tdGw f.tdesc * 2 ^ 16 + f.gidx * 2 ^ 10 + ctxNo c.kind * 2 ^ 4 + c.frm)

/-- TASKID (R359). -/
def taskidWord (t : Task) : Word := BitVec.ofNat 64 (t.index.toNat * 2 ^ 32 + t.job % 256 * 2 ^ 24 + recType t.bytes)

/-- ERRCNT (R251). -/
def State.errcntWord (s : State) (sel : BitVec 16) : Word :=
  let (c, u) := (s.errs.get sel.toNat).getD (0, 0)
  BitVec.ofNat 64 (c.toNat * 2 ^ 40 + u.toNat * 2 ^ 16 + sel.toNat)

/-- The value of a system register (R240). -/
def State.sysRead (s : State) (y : Ctx) (c : CtxId) (f : Frame) (n : Nat) : Word :=
  let k := s.coreOf c.core
  match n with
  | 0x000 => y.status
  | 0x001 => y.epc
  | 0x002 => y.ecause
  | 0x003 => y.eaddr
  | 0x004 => y.einfo
  | 0x005 => y.tvec
  | 0x006 => y.estatus
  | 0x010 => y.space
  | 0x011 => corexy c.core
  | 0x012 => frameWord f c
  | 0x013 => BitVec.ofNat 64 (s.cycle c.core)
  | 0x014 => taskidWord f.task
  | 0x020 => k.wbase[0]
  | 0x021 => k.wctl[0]
  | 0x022 => k.wbase[1]
  | 0x023 => k.wctl[1]
  | 0x024 => k.wbase[2]
  | 0x025 => k.wctl[2]
  | 0x026 => k.wbase[3]
  | 0x027 => k.wctl[3]
  | 0x030 => f.operrxy
  | 0x031 => s.boot.errlog
  | 0x032 => s.errcntWord k.errSel
  | _ => 0

/-- GETS (R357): STATUS waits for the context's matrix instructions; CYCLE is a tagged producer. -/
def execGets (f : Fld) (s : State) : Host.Outcome State Fault Refusal :=
  issue (.gets f) {} (fun y s =>
    match s.cur, s.curFrame with
    | .ctx c, some fr =>
      let n := f.imm.toNat
      if n = 0 && fr.mq.any (fun m => m.who == c.kind) then .error (.wait s)
      else if n = 0x013 then .ok { s := s.track f y false (.ready (s.sysRead y c fr n)) 0 }
      else .ok (scalarResult s f.dst (s.sysRead y c fr n))
    | _, _ => .ok { s := s }) s

/-! ## Writing system registers (R391) -/

/-- STATUS's fields of SV access (R358). -/
def statusMask : Word := 0xFFFF3FCF

/-- STATUS after a write: DN and XP keep theirs. -/
def statusWrite (old v : Word) : Word := (old &&& ~~~statusMask) ||| (v &&& statusMask)

/-- Does a watchpoint pair pass R248's checks? -/
def watchPairOk (base ctl : Word) : Bool :=
  let a := base.extractLsb' 0 40
  ! ctl.getLsbD 63 ||
  (a.toNat % (16 * 2 ^ (ctl.extractLsb' 4 2).toNat) == 0 &&
    (ctl.getLsbD 62 || (a.extractLsb' 32 8 == 0 && ! a.getLsbD 31 && ! a.getLsbD 19)))

/-- A SETS of WBASE or WCTL: none when a check fails. -/
def Core.setWatch (k : Core) (n : Nat) (isCtl : Bool) (v : Word) : Option Core :=
  let b := k.wbase.toList.getD n 0
  let w := k.wctl.toList.getD n 0
  if isCtl then
    let w' := v &&& 0xFFFFFFC0FFFF003F
    if v.extractLsb' 4 2 = 3 ∨ ! watchPairOk b w' then none else some { k with wctl := k.wctl.set! n w' }
  else
    let b' := v &&& 0xFFFFFFFFFFFFF
    if ! watchPairOk b' w then none else some { k with wbase := k.wbase.set! n b' }

/-- SETS (R391): a value that a register refuses raises 0x02. -/
def execSets (f : Fld) (s : State) : Host.Outcome State Fault Refusal :=
  issue (.sets f) {} (fun y s =>
    let v := srcW y f s.pairView.isSome f.sa
    let me (g : Ctx → Ctx) : Except Halt Eff := .ok { s := s.me g }
    match s.cur with
    | .handler _ => .ok { s := s }
    | .ctx c =>
      let k := s.coreOf c.core
      let watch (n : Nat) (isCtl : Bool) : Except Halt Eff :=
        match k.setWatch n isCtl v with
        | none => trap 0x02 0 0x341
        | some k => .ok { s := s.setCore c.core k }
      match f.imm.toNat with
      | 0x000 => me fun x => { x with status := statusWrite x.status v }
      | 0x001 => if 5 ≤ (v.extractLsb' 12 3).toNat then trap 0x02 0 0x341 else me fun x => { x with epc := v &&& 0x7FFF }
      | 0x002 => me fun x => { x with ecause := v &&& 0x7F }
      | 0x003 => me fun x => { x with eaddr := v }
      | 0x004 => me fun x => { x with einfo := v &&& 0xFFFFFFFF }
      | 0x005 => me fun x => { x with tvec := v &&& 0x3FFC0 }
      | 0x006 => me fun x => { x with estatus := v &&& 0xFFFF3FFF }
      | 0x010 => me fun x => { x with space := v &&& 0xFFFFF }
      | 0x012 => if v.getLsbD 63 then .error (.kill 0x00 s.hostKill.eaddr) else .ok { s := s }
      | 0x020 => watch 0 false
      | 0x021 => watch 0 true
      | 0x022 => watch 1 false
      | 0x023 => watch 1 true
      | 0x024 => watch 2 false
      | 0x025 => watch 2 true
      | 0x026 => watch 3 false
      | 0x027 => watch 3 true
      | 0x030 => .ok { s := s.updFrame c.core c.frm fun fr => { fr with operrxy := 0, operrOpen := none } }
      | 0x031 => .ok { s := { s with boot := { s.boot with errlog := 0 } } }
      | 0x032 =>
        let sel : BitVec 16 := v.extractLsb' 0 16
        let s := s.setCore c.core { k with errSel := sel }
        .ok { s := if v.getLsbD 63 then { s with errs := s.errs.del sel.toNat } else s }
      | _ => .ok { s := s }) s

/-! ## IDLE, FEAT, SLOTSET, XFLUSH -/

def Wait.isIdle : Wait → Bool | .idle _ => true | _ => false

/-- IDLE (R360): it waits for a pending cause, or for n x 1,024 cycles (IDLE_TIMEOUT). -/
def execIdle (f : Fld) (s : State) : Host.Outcome State Fault Refusal :=
  issue (.idle f) {} (fun y s =>
    if ! y.pend.isEmpty then .ok (scalarResult (s.me fun x => { x with wait := .none }) f.dst 1)
    else if y.wait.isIdle then .error (.wait s)
    else
      let n := f.imm.toNat
      .error (.wait (s.me fun x => { x with wait := .idle (if n = 0 then none else some (s.clock + n * 1024)) }))) s

/-- The offered feature words (R262). -/
def offered (n : Nat) : Word := if n = 0 then 0x7FF else 0

/-- FEAT (R263). -/
def execFeat (f : Fld) (s : State) : Host.Outcome State Fault Refusal :=
  issue (.feat f) {} (fun _ s =>
    let n := f.imm.toNat % 16
    let w := if f.imm.getLsbD 4 then (if s.boot.locked then s.boot.accept.toList.getD n 0 else 0) else offered n
    .ok (scalarResult s f.dst w)) s

/-- A slot table with a reserved nibble (R65). -/
def slotsReserved (w : Word) : Bool :=
  (List.range 16).any fun i => let n := (w >>> (4 * i) &&& 15).toNat; decide (4 ≤ n) && decide (n ≤ 14)

/-- SLOTSET (R395): in force from the next slot boundary. -/
def execSlotset (f : Fld) (s : State) : Host.Outcome State Fault Refusal :=
  issue (.slotset f) {} (fun y s =>
    let w := srcW y f s.pairView.isSome f.sa
    if slotsReserved w then trap 0x02 0 0x345 else
    let core := s.curCore
    .ok { s := s.setCore core { s.coreOf core with
            slots := s.slotTable core, nextSlots := some ((s.cycle core / 256 + 1) * 256, w) } }) s

/-- XFLUSH (R412): translations of a space, or of one of its objects, are dropped from every cache and walk record. -/
def execXflush (f : Fld) (s : State) : Host.Outcome State Fault Refusal :=
  issue (.xflush f) {} (fun y s =>
    let a := srcW y f s.pairView.isSome f.sa
    if a.extractLsb' 37 27 ≠ 0 then trap 0x02 0 0x342 else
    let sid := (a.extractLsb' 0 12).toNat
    let obj := (a.extractLsb' 12 24).toNat
    let all := a.getLsbD 36
    match s.storesDone s.cur with
    | none => .error (.wait s)
    | some (s, ps) =>
      let s := s.evict fun e => e.sid == sid && (all || e.obj == obj)
      let s := { s with walks := s.walks.filter fun w => ! (w.sid == sid && (all || w.obj == obj)),
                        objCache := s.objCache.map fun (p : Nat × List ObjLine) => (p.1, p.2.filter fun e => ! (e.sid == sid && (all || e.obj == obj))) }
      .ok { s := s.send ps }) s

/-! ## Leases (R51 to R53, R370, R371) -/

/-- Is the object an alias (R91)? -/
def State.isAlias (s : State) (sid obj : Nat) : Bool := match s.objEntry sid obj with | some e => e.cls == 2 | none => false

/-- Offsets that meet every slab of a range: an alias window's granules scatter over its object's slabs (R91). -/
def State.slabOffs (s : State) (sid obj off len : Nat) : List Nat :=
  if s.isAlias sid obj then granuleStarts off len
  else if len = 0 then [] else off :: (List.range ((off + len - 1) / 65536 - off / 65536)).map fun i => (off / 65536 + 1 + i) * 65536

/-- Offsets that meet every slice serving a range: an interleaved object's bytes change slice every 256 bytes (R89). -/
def State.sliceOffs (s : State) (sid obj off len : Nat) : List Nat :=
  match s.objEntry sid obj with
  | some e => if e.cls = 0 then granuleStarts off len else s.slabOffs sid obj off len
  | none => []

/-- Set or clear PIN of the slab of an offset (R92). -/
def State.setPin (s : State) (sid obj off : Nat) (pin : Bool) : State :=
  match s.place sid obj off with
  | some p => s.putExtent p p.pslab false (p.ext.extractLsb' 23 2) pin
  | none => s

/-- Does an entry of some job cover a byte of the slab that an offset lies in (R371)? -/
def State.slabLeased (s : State) (sid obj off : Nat) : Bool :=
  match s.place sid obj off with
  | none => false
  | some p => s.jobs.any fun (j : Nat × Job) => j.2.lease.any fun e => e.sid == sid && (s.slabOffs sid e.obj e.off e.len).any fun o =>
        match s.place sid e.obj o with | some q => q.extAddr == p.extAddr | none => false

/-- A slab's extent entry loaded into its slice's cache (R51). -/
def State.loadExtent (s : State) (sid obj off : Nat) : State :=
  match s.place sid obj off, s.spaces.get sid with
  | some p, some sp =>
    if s.extents.any fun e => e.hits p.slice sid sp.gen p.obj p.slab then s
    else { s with extents := s.extents ++ [⟨p.slice, sid, sp.gen, p.obj, p.slab, 0, s.clock, p.ext⟩] }
  | _, _ => s

/-- Steps 2 and 3 of R51 for one range: its cold slabs expanded and pinned, its extents loaded at every slice that serves it. None: it waits
(R51, R54). -/
def State.pinRange (s : State) (sid obj off len : Nat) : Option State :=
  let os := s.slabOffs sid obj off len
  (s.expand sid obj os).map fun s =>
    (s.sliceOffs sid obj off len).foldl (fun s o => s.loadExtent sid obj o) (os.foldl (fun s o => s.setPin sid obj o true) s)

/-- The slabs of a range that no entry covers any more are unpinned (R371). -/
def State.unpinRange (s : State) (sid obj off len : Nat) : State :=
  (s.slabOffs sid obj off len).foldl (fun s o => if s.slabLeased sid obj o then s else s.setPin sid obj o false) s

/-- The check of one lease entry (R51 step 1). -/
def State.leaseCause (s : State) (space : Word) (c : Cap) (off len : Nat) (w a : Bool) : Option Cause :=
  if ! CapF.tag c || ! s.spaceLive space || (s.objEntry (spaceSid space) (CapF.obj c)).isNone then some 0x10
  else if off < CapF.base c ∨ CapF.limit c < off + len then some 0x11
  else if ! Needs.ok { r := true, w := w, a := a } c then some 0x12
  else none

/-- The check of a card's lease entry: one of LEN 0 leases nothing and fails as a range does (DESIGN CHOICE, LOG 108). -/
def State.cardCause (s : State) (space : Word) (c : Cap) (off len : Nat) (w a : Bool) : Option Cause :=
  match s.leaseCause space c off len w a with
  | some 0x10 => some 0x10
  | r => if len = 0 then some 0x11 else r

/-- A lease entry that a program can name: its number is below that of the two implicit ranges (R50). -/
def implicitId : Nat := 2 ^ 32

/-- The entries of a job's lease that count, those still being pinned among them (R370). -/
def State.leaseCount (s : State) (j : Nat) : Nat :=
  (match s.jobs.get j with | some x => (x.lease.filter fun e => decide (e.id < implicitId)).length | none => 0) +
  (s.leaseExts.filter fun (p : Nat × LeaseExt) => p.2.job == j).length

/-- LEASE (R370): a LEN of 2^40 or more exceeds every LIMIT. -/
def execLease (f : Fld) (s : State) : Host.Outcome State Fault Refusal :=
  issue (.lease f) { dyn02 := fun s _ => s.badDomain f.id } (fun y s => do
    let pair := s.pairView.isSome
    let cap := srcC y f.sa
    let off := (srcW y f pair f.sb).toNat
    let len := (srcW y f pair f.sc).toNat
    let w := f.imm.getLsbD 16
    let a := f.imm.getLsbD 17
    match s.leaseCause y.space cap off len w a with
    | some c => trap c (BitVec.ofNat 64 off) (bIndex f.sa)
    | none => pure ()
    if len = 0 then trap 0x02 0 0x343
    match s.cur, s.curFrame with
    | .ctx c, some fr =>
      let j := fr.task.job
      if 1024 ≤ s.leaseCount j then
        .ok { s := s.me fun x => x.writeHandle f.dst (.complete (faultWord 0x02 0) []) }
      else
        let key := if f.id = 0 then none else some (objKey (spaceSid y.space) c.core f.id)
        let s := match key with
          | some k => s.setBarrier k { s.barrier k with extra := (s.barrier k).extra + 1 }
          | none => s
        let (n, s) := s.newOp { who := c, space := y.space, job := j, kind := .lease s.nextId, pc := y.pc, seq := y.issued }
        let e : LeaseExt := { op := n, job := j, entry := { id := 0, sid := spaceSid y.space, obj := CapF.obj cap, off := off, len := len, w := w, a := a }, key := key }
        .ok { s := ({ s with leaseExts := s.leaseExts.set n e }).me fun x => x.writeHandle f.dst (.pending n) }
    | _, _ => .ok { s := s }) s

/-- LFREE (R371). -/
def execLfree (f : Fld) (s : State) : Host.Outcome State Fault Refusal :=
  issue (.lfree f) {} (fun y s =>
    let n := (srcW y f s.pairView.isSome f.sa).toNat
    match s.curFrame with
    | none => .ok { s := s }
    | some fr =>
      match s.jobs.get fr.task.job with
      | none => trap 0x02 0 0x344
      | some j =>
        let base := Card.leaseCnt j.card
        let pending := (s.leaseExts.filter fun (p : Nat × LeaseExt) => p.2.job == fr.task.job).length
        if n < base ∨ implicitId ≤ n then trap 0x02 0 0x344
        else match j.lease.find? (·.id == n) with
        | some e =>
          let s := { s with jobs := s.jobs.set fr.task.job { j with lease := j.lease.filter fun e => e.id != n } }
          .ok { s := s.unpinRange e.sid e.obj e.off e.len }
        | none =>
          if base + j.extNo ≤ n ∧ n < base + j.extNo + pending then .error (.wait s) else trap 0x02 0 0x344) s

/-! ## FSAVE and FREST at issue (R352 to R354) -/

/-- Bytes of one member's save area (R253). -/
def areaBytes (sdem : Nat) : Nat := 106496 + sdem * 1024

/-- The checks of a save-area capability, in the order of R352. -/
def State.areaChk (s : State) (space : Word) (c : Cap) (b : Operand) (off : Word) (n : Nat) (need : Needs) : Except Halt Target :=
  let sid := spaceSid space
  let o := off.toNat
  if ! CapF.tag c || ! s.spaceLive space || (s.objEntry sid (CapF.obj c)).isNone then trap 0x10 off (bIndex b)
  else if ! need.ok c then trap 0x12 off (bIndex b)
  else if o % 64 ≠ 0 then trap 0x15 off 0
  else if o < CapF.base c ∨ CapF.limit c < o + n ∨ s.objSize sid (CapF.obj c) < o + n ∨
      (granuleStarts o n).any (fun a => (s.place sid (CapF.obj c) a).isNone) then trap 0x11 off (bIndex b)
  else .ok (.dev sid (CapF.obj c) o)

/-- The core that a target register names (R352). -/
def State.areaTarget (s : State) (w : Word) (frm : Word) (opc : BitVec 32) : Except Halt Nat :=
  if w &&& ~~~(0xFFF00000 ||| frm) ≠ 0 then trap 0x02 0 opc
  else match localTarget s.curCore (w.extractLsb' 0 32 &&& 0xFFF00000) with
    | some (core, _, _) => .ok core
    | none => trap 0x14 (w &&& 0xFFFFFFFF) 0

/-- A frame's whole domain: its group's frames that have not ended, in GIDX order, or itself (R68). -/
def State.domainFrames (s : State) (f : Frame) (core frm : Nat) : List (Nat × Nat) :=
  match f.group with
  | some g => (match s.groups.get g with
    | some x => x.members.filter fun m => (match s.frames.get m with | some p => p.group == some g | none => false)
    | none => [(core, frm)])
  | none => [(core, frm)]

/-- FSAVE (R354). -/
def execFsave (f : Fld) (s : State) : Host.Outcome State Fault Refusal :=
  issue (.fsave f) {} (fun y s => do
    let pair := s.pairView.isSome
    let w := srcW y f pair f.sa
    let core ← s.areaTarget w 3 0x346
    let frm := (w.extractLsb' 0 2).toNat
    onCtx s fun c => do
      if core = c.core ∧ frm = c.frm then trap 0x02 0 0x346
      let size := match s.frames.get (core, frm) with
        | some fr => tdGw fr.tdesc * areaBytes (tdSdem fr.tdesc)
        | none => 64
      let area ← s.areaChk y.space (srcC y f.sb) f.sb (srcW y f pair f.sc) size { w := true, l := true }
      match s.frames.get (core, frm) with
      | none => .ok { s := s.me fun x => x.writeHandle f.dst (.complete (faultWord 0x14 0) []) }
      | some fr =>
        let fs := s.domainFrames fr core frm
        if fs.any s.saving then .ok { s := s.me fun x => x.writeHandle f.dst (.complete (faultWord 0x14 0) []) }
        else
          let job := match s.curFrame with | some g => g.task.job | none => 0
          let (n, s) := s.newOp { who := c, space := y.space, job := job, kind := .save s.nextId, pc := y.pc, seq := y.issued }
          let p : Preempt := { op := some n, page := none, save := true, frames := fs, target := core, area := area, t0 := s.clock }
          .ok { s := ({ s with preempts := s.preempts.set n p }).noteDrained.me fun x => x.writeHandle f.dst (.pending n) }) s

/-- What FREST reads of a header (R253): the record, SPACE, COREXY, FORMAT and NQ. -/
structure AreaHead where
  record : BitVec 128
  space : Word
  core : Nat
  format : Nat
  nq : Nat

def areaHead (bs : List Byte) : AreaHead :=
  let xy := leAt bs 32 8
  { record := BitVec.ofNat 128 (leAt bs 0 16), space := BitVec.ofNat 64 (leAt bs 24 8),
    core := xy / 2 ^ 20 % 32 * 48 + xy / 2 ^ 25 % 64, format := leAt bs 47 1, nq := leAt bs 45 1 }

/-- The saved frame whose area stands at a target. -/
def State.savedAt (s : State) (t : Target) : Option Saved := s.saved.find? fun v => v.area == t

/-- Do saved demands fit a task-type entry (R254)? -/
def demandsFit (old new : BitVec 512) : Bool :=
  tdescOk new && decide (tdLgdem old ≤ tdLgdem new) && decide (tdSgdem old ≤ tdSgdem new) && decide (tdCgdem old ≤ tdCgdem new) &&
  decide (tdVdem old ≤ tdVdem new) && decide (tdSdem old ≤ tdSdem new) && decide (tdAdem old ≤ tdAdem new) && tdGw old == tdGw new &&
  tdGcols old == tdGcols new

/-- The type entry by which an area is restored: the one it was saved under, else the table's. -/
def State.areaType (s : State) (t : Target) (h : AreaHead) : BitVec 512 :=
  match s.savedAt t with
  | some v => v.frame.tdesc
  | none => s.taskEntry h.space (recType h.record)

/-- The checks of R254 and R72 on a header: 0x02, then 0x14 for another core. -/
def State.headCause (s : State) (t : Target) (h : AreaHead) (target : Nat) : Option Cause :=
  let entry := s.taskEntry h.space (recType h.record)
  if h.format ≠ 1 ∨ 128 < h.nq ∨ ! demandsFit (s.areaType t h) entry then some 0x02
  else if target ≠ h.core ∧ (! tdMovable entry ∨ recPinned h.record) then some 0x14
  else none

/-- FREST (R353). -/
def execFrest (f : Fld) (s : State) : Host.Outcome State Fault Refusal :=
  issue (.frest f) {} (fun y s => do
    let pair := s.pairView.isSome
    let w := srcW y f pair f.sa
    let off := srcW y f pair f.sc
    let core ← s.areaTarget w 0 0x347
    onCtx s fun c => do
      let t ← s.areaChk y.space (srcC y f.sb) f.sb off 256 { r := true, l := true }
      let (s, bs) ← s.loadNow y t 256
      let h := areaHead bs
      match s.headCause t h core with
      | some k => trap k (if k = 0x14 then w &&& 0xFFFFFFFF else 0) (if k = 0x02 then 0x347 else 0)
      | none =>
        let td := s.areaType t h
        let _ ← s.areaChk y.space (srcC y f.sb) f.sb off (tdGw td * areaBytes (tdSdem td)) { r := true, l := true }
        let job := match s.curFrame with | some g => g.task.job | none => 0
        let (n, s) := s.newOp { who := c, space := y.space, job := job, kind := .restore s.nextId, pc := y.pc, seq := y.issued }
        let p : Preempt := { op := some n, page := none, save := false, frames := [], target := core, area := t, t0 := s.clock }
        .ok { s := ({ s with preempts := s.preempts.set n p }).me fun x => x.writeHandle f.dst (.pending n) }) s

end Sys2Proof.Machine
end

