-- ==== Sys2Proof/Machine/Dispatcher.lean ====
section
/-! DEFINITION. From job card to bound frame and back: cards, leases, dealing, the cluster dispatchers, proxy queues, the start and
end of a task, and the job sweep (spec/03_execution.md R20 to R31, R38 to R45; spec/04_scheduling.md R50 to R63, R67;
spec/15_host_pod.md R256, R257, R266). An event that is not enabled changes nothing (DESIGN CHOICE, LOG 20). -/

namespace Sys2Proof.Machine

/-! ## Cards (R21, R256, R257) -/

/-- One more discarded mailbox write (R260: saturating). -/
def Boot.countBad (b : Boot) : Boot := { b with badw := if b.badw = 0xFFFF then b.badw else b.badw + 1 }

/-- Is a message a control message (R256)? -/
def isControl (m : List Byte) : Bool := leAt m 0 2 / 4096 == 15

/-- The SPACE value of a space id: its installed generation (R87). -/
def State.spaceValue (s : State) (sid : Nat) : Word :=
  spaceOf sid (match s.spaces.get sid with | some sp => sp.gen | none => 0)

/-- JOB_CARD_ACCEPT (R21, R45, R256): a card that finds 256 active jobs waits. -/
def execJobCardAccept (page : Nat) (s : State) : Host.Outcome State Fault Refusal :=
  match s.boot.locked, s.mail.get page with
  | true, some m =>
    (match m.queue with
     | [] => .next s
     | msg :: rest =>
       if isControl msg then .next s else
       let pop (s : State) : State := { s with mail := s.mail.set page { m with queue := rest } }
       match m.sid with
       | none => .next (pop { s with boot := s.boot.countBad })
       | some sid =>
         let space := s.spaceValue sid
         let card : BitVec 1024 := BitVec.ofNat 1024 (leNat msg)
         let jw := Card.jobWord card
         match s.donewordCause space card with
         | some c =>
           let s := s.errorRecord sid { type := Card.typeWord card, cause := c, addr := 32, job := jw }
           .next (pop (s.sendDecrement 0 { cid := Card.parent card, job := none, sid := sid, jobWord := jw }))
         | none =>
           match s.acceptCard space card with
           | none => .next s
           | some s => .next (pop s))
  | _, _ => .next s

/-! ## Leases (R50, R51) -/

/-- The check of a range that the device leases implicitly (R51). -/
def State.implicitCause (s : State) (space : Word) (c : Cap) (n : Nat) : Option Cause :=
  if n = 0 then none
  else if ! CapF.tag c || ! s.spaceLive space || (s.objEntry (spaceSid space) (CapF.obj c)).isNone then some 0x10
  else if CapF.limit c < CapF.base c + n ∨ s.objSize (spaceSid space) (CapF.obj c) < CapF.base c + n then some 0x11
  else if ! CapF.r c then some 0x12
  else none

/-- A job's lease released (R52): the job leaves the active set, and its slabs are unpinned. -/
def State.dropJob (s : State) (n : Nat) (j : Job) : State :=
  j.lease.foldl (fun s e => s.unpinRange e.sid e.obj e.off e.len) { s with jobs := s.jobs.del n }

/-- A card that fails its lease ends at once (R51): every record failed, one error record. The state stays where it must wait. -/
def State.failCard (s : State) (n : Nat) (j : Job) (r : ErrRec) : State :=
  match ((s.dropJob n j).errorRecord (spaceSid j.space) r).completeCard j.card (spaceSid j.space) 0 (Card.count j.card) with
  | some s => s
  | none => s

/-- LEASE_GRANT (R51): the implicit ranges first, then one entry at each occurrence, in list order. An entry whose bytes read uncorrectably is counted
and logged (R247, R251), and the card fails with cause 0x41 (DESIGN CHOICE, LOG 123). -/
def execLeaseGrant (job : Nat) (s : State) : Host.Outcome State Fault Refusal :=
  match s.jobs.get job with
  | none => .next s
  | some j =>
    let c := j.card
    let sid := spaceSid j.space
    let (a, l) := (Card.array c, Card.leaseList c)
    let bad (k : Cause) (index : Nat) (addr : Word) : ErrRec :=
      { type := Card.typeWord c, cause := k, index := index, addr := addr, job := Card.jobWord c }
    let stageAt (i : Nat) : JobStage := if i ≤ Card.leaseCnt c then .leasing i else .running
    if j.killed then .next s else
    match j.stage with
    | .running => .next s
    | .leasing 0 =>
      let na := Card.count c * Card.recsz c
      let nl := Card.leaseCnt c * 32
      match s.implicitCause j.space a na, s.implicitCause j.space l nl with
      | some k, _ => .next (s.failCard job j (bad k 0xFFFFFFFF 16))
      | none, some k => .next (s.failCard job j (bad k 0xFFFFFFFF 64))
      | none, none =>
        match s.pinRange sid (CapF.obj a) (CapF.base a) na with
        | none => .next s
        | some s =>
          match s.pinRange sid (CapF.obj l) (CapF.base l) nl with
          | none => .next s
          | some s =>
            let es : List LeaseEntry :=
              [⟨implicitId, sid, CapF.obj a, CapF.base a, na, false, false⟩, ⟨implicitId + 1, sid, CapF.obj l, CapF.base l, nl, false, false⟩]
            .next { s with jobs := s.jobs.set job { j with stage := stageAt 1, lease := es } }
    | .leasing (k + 1) =>
      let off := CapF.base l + 32 * k
      match s.devTouch 0 sid (CapF.obj l) off 32 true with
      | none => .next s
      | some s =>
        if s.readBad sid (CapF.obj l) off 32 then
          .next ((s.unc (.dev sid (CapF.obj l) off) 32).1.failCard job j (bad 0x41 k (BitVec.ofNat 64 off))) else
        let bs := s.devRead sid (CapF.obj l) off 32
        let cap := capOf bs (off % 16 == 0 && s.devTag sid (CapF.obj l) off)
        let (o, len, fl) := (leAt bs 16 5, leAt bs 24 5, leAt bs 29 1)
        let (w, at') := (fl % 2 == 1, fl / 2 % 2 == 1)
        match s.cardCause j.space cap o len w at' with
        | some e => .next (s.failCard job j (bad e k 0))
        | none =>
          match s.pinRange sid (CapF.obj cap) o len with
          | none => .next s
          | some s =>
            let j' : Job := { j with stage := stageAt (k + 2), lease := j.lease ++ [⟨k, sid, CapF.obj cap, o, len, w, at'⟩] }
            .next { s with jobs := s.jobs.set job j' }

/-! ## Dealing (R55) -/

/-- The clusters of a card's span. -/
def spanClusters (c : BitVec 1024) : List Nat := (List.range 24).filter fun n => Card.span c == 0 || (Card.span c).testBit n

/-- Records of a job waiting in a cluster's dealer source at a level. -/
def State.dealHeld (s : State) (job cl level : Nat) : Nat :=
  (((s.clusterAt cl).level level).dealer.filter fun e => e.task.job == job).length

/-- The cluster that the next chunk goes to: the one holding fewest, the lowest on ties; none for which records wait at the dealer (R58). -/
def State.dealTarget (s : State) (job : Nat) (j : Job) : Option Nat :=
  let c := j.card
  let ok := (spanClusters c).filter fun n =>
    ! j.chunks.any (fun q => q.1 == n) && decide (s.dealHeld job n (Card.prio c) < 48) && ! (s.clusterAt n).levelFull (Card.prio c)
  ok.foldl (fun b n => match b with
    | none => some n
    | some m => if s.dealHeld job n (Card.prio c) < s.dealHeld job m (Card.prio c) then some n else some m) none

/-- The size of the next chunk, with `left` records to deal (R55). -/
def chunkSize (c : BitVec 1024) (left : Nat) : Nat :=
  let d := Card.divisor c * 48 * (spanClusters c).length
  min (if Card.guided c then max (Card.minChunk c) ((left + d - 1) / d) else Card.minChunk c) left

/-- A capability from its fields (R83). -/
def capMake (rights : BitVec 8) (obj base limit : Nat) : Cap :=
  BitVec.ofNat 128 (rights.toNat * 2 ^ 120 + obj % 2 ^ 24 * 2 ^ 96 + base % 2 ^ 40 * 2 ^ 48 + limit % 2 ^ 40 * 2 ^ 8)

/-- What b1 holds for record i of a job (R28). -/
def recordCap (c : BitVec 1024) (i : Nat) : Cap :=
  let a := Card.array c
  let b := CapF.base a + i * Card.recsz c
  capMake (if CapF.l a then 0xC1 else 0x81) (CapF.obj a) b (b + Card.recsz c)

/-- Record i of a job as memory holds it, with the card's TYPE (R21). None while its slab migrates. -/
def State.jobRecord (s : State) (job : Nat) (j : Job) (i : Nat) : Option (State × Task) :=
  let c := j.card
  let sid := spaceSid j.space
  let obj := CapF.obj (Card.array c)
  let off := CapF.base (Card.array c) + i * Card.recsz c
  match s.devTouch 0 sid obj off 16 true with
  | none => none
  | some s =>
    let body := leNat (s.devRead sid obj off 16) / 2 ^ 16 * 2 ^ 16
    some (s, { bytes := BitVec.ofNat 128 (body + Card.typeWord c % 4096), level := Card.prio c, index := BitVec.ofNat 32 i, job := job,
               parent := 0, kind := .job, b1 := recordCap c i, space := j.space })

/-- A record of a job whose bytes read uncorrectably (R247): counted and logged, with an error record of cause 0x41; it is not dealt, and it counts as
failed and as received (DESIGN CHOICE, LOG 123). -/
def State.loseRecord (s : State) (job : Nat) (j : Job) (i : Nat) (t : Target) : State :=
  let e : ErrRec := { type := Card.typeWord j.card, cause := 0x41, index := i, addr := t.eaddr, job := Card.jobWord j.card }
  (((s.unc t 16).1.errorRecord (spaceSid j.space) e).jobReceived job).updJob job fun x => { x with failed := x.failed + 1 }

/-- n consecutive records of a job, from record i, enter a cluster's dealer source while their level has room; how many wait (R58). -/
def State.dealRecords (job : Nat) (j : Job) (cl : Nat) : Nat → Nat → State → Option (State × Nat)
  | 0, _, s => some (s, 0)
  | n + 1, i, s =>
    if (s.clusterAt cl).levelFull (Card.prio j.card) then some (s, n + 1) else
    match s.jobRecord job j i with
    | none => none
    | some (s, t) =>
      let at' := Target.dev (spaceSid j.space) (CapF.obj (Card.array j.card)) (CapF.base (Card.array j.card) + i * Card.recsz j.card)
      State.dealRecords job j cl n (i + 1) (if s.badAt at' 16 then s.loseRecord job j i at' else s.enterQueue cl .dealer t)

/-- Dealt records enter their cluster's dealer source, and what finds no room waits at the dealer (R58). None: a record's slab migrates. -/
def State.dealChunk (s : State) (job : Nat) (j : Job) (cl first n : Nat) : Option State :=
  (State.dealRecords job j cl n first s).map fun r =>
    r.1.updJob job fun x => { x with chunks := x.chunks.filter (fun q => q.1 != cl) ++ (if r.2 = 0 then [] else [(cl, first + n - r.2, r.2)]) }

/-- CHUNK_DEAL (R55, R45): records that wait at the dealer go first. A chunk's records count as sent when it is dealt. -/
def execChunkDeal (job : Nat) (s : State) : Host.Outcome State Fault Refusal :=
  match s.jobs.get job with
  | none => .next s
  | some j =>
    if j.stage ≠ .running ∨ j.killed ∨ j.mirror.isSome then .next s else
    match j.chunks.find? fun q => ! (s.clusterAt q.1).levelFull (Card.prio j.card) with
    | some (cl, first, n) => .next ((s.dealChunk job j cl first n).getD s)
    | none =>
      if Card.count j.card ≤ j.dealt then .next s else
      match s.dealTarget job j with
      | none => .next s
      | some cl =>
        let n := chunkSize j.card (Card.count j.card - j.dealt)
        match s.dealChunk job j cl j.dealt n with
        | none => .next s
        | some s => .next (s.updJob job fun x => { x with dealt := x.dealt + n, sent := x.sent + n })

/-! ## The dispatcher (R56 to R63) -/

/-- SPAWN_ENTRY_ARRIVAL (R56, R204): some source's first record on its way whose level has room. A stolen record enters the dealer source
(DEDUCED, LOG 21). -/
def execSpawnEntryArrival (cluster : Nat) (s : State) : Host.Outcome State Fault Refusal :=
  let c := s.clusterAt cluster
  match s.pick 4 (firstsOf (fun (q : Option CtxId × Task) => ! c.levelFull q.2.level) (·.1) c.arriving) with
  | none => .next s
  | some i => match c.arriving[i]? with
    | none => .next s
    | some (_, t) =>
      .next ((s.setCluster cluster { c with arriving := c.arriving.eraseIdx i }).enterQueue cluster (if t.kind = .job then .dealer else .spawn) t)

/-- The frames bound on a core. -/
def State.coreFrames (s : State) (core : Nat) : List Frame := (List.range 4).filterMap fun n => s.frames.get (core, n)

/-- The lowest free frame number of a core. -/
def State.freeFrame (s : State) (core : Nat) : Option Nat := (List.range 4).find? fun n => (s.frames.get (core, n)).isNone

/-- Does a demand fit the free part of a pool of a core (R26)? -/
def State.poolFits (s : State) (core size : Nat) (g : BitVec 512 → Nat) (td : BitVec 512) : Bool :=
  decide (((s.coreFrames core).map fun f => g f.tdesc).sum + g td ≤ size)

/-- Is a scratch block of a core held by a frame, or frozen (R214)? -/
def State.blockUsed (s : State) (core b : Nat) : Bool :=
  (s.coreFrames core).any (fun f => decide (f.block ≤ b) && decide (b < f.block + f.blocks)) ||
  s.frozen.any fun z => z.1.1 == core && decide (z.2.2.1 ≤ b) && decide (b < z.2.2.1 + z.2.2.2.1)

/-- The lowest run of n free scratch blocks of a core (R63). -/
def State.freeRun (s : State) (core n : Nat) : Option Nat :=
  (List.range (129 - n)).find? fun b => (List.range n).all fun i => ! s.blockUsed core (b + i)

def State.freeBlocks (s : State) (core : Nat) : Nat := ((List.range 128).filter fun b => ! s.blockUsed core b).length

/-- The register and accumulator pools fit a type's demands (R26). -/
def State.poolsFit (s : State) (core : Nat) (td : BitVec 512) : Bool :=
  s.poolFits core 128 tdLgdem td && s.poolFits core 128 tdSgdem td && s.poolFits core 256 tdCgdem td && s.poolFits core 64 tdVdem td &&
  s.poolFits core 4 tdAdem td

/-- Where a record of a type would bind on a core (R63): frame and block. -/
def State.fitCore (s : State) (core : Nat) (td : BitVec 512) : Option (Nat × Nat) :=
  if ! s.poolsFit core td then none else
  match s.freeFrame core, s.freeRun core (tdescBlocks td) with
  | some n, some b => some (n, b)
  | _, _ => none

/-- The positions of a rectangle of a cluster, row-major from its north-west core (R31). -/
def rectangle (x y cols rows : Nat) : List Nat := (List.range rows).flatMap fun j => (List.range cols).map fun i => 8 * (y + j) + x + i

/-- Every core of a list of positions fits: core, frame and block of each. -/
def State.fitAll (s : State) (cl : Nat) (td : BitVec 512) : List Nat → Option (List (Nat × Nat × Nat))
  | [] => some []
  | p :: ps =>
    match s.fitCore (coreOfCluster cl p) td, State.fitAll s cl td ps with
    | some (n, b), some r => some ((coreOfCluster cl p, n, b) :: r)
    | _, _ => none

/-- Where a record of a type binds in a cluster (R63). -/
def State.placeTask (s : State) (cl : Nat) (td : BitVec 512) : Option (List (Nat × Nat × Nat)) :=
  if ! tdescOk td then none
  else if tdGw td = 1 then
    let cs := (List.range 48).filter fun p => (s.fitCore (coreOfCluster cl p) td).isSome
    let best := cs.foldl (fun (b : Option Nat) p => match b with
      | none => some p
      | some q => if s.freeBlocks (coreOfCluster cl q) < s.freeBlocks (coreOfCluster cl p) then some p else some q) none
    match best with
    | none => none
    | some p => s.fitAll cl td [p]
  else
    let cols := tdGcols td
    let rows := tdGw td / cols
    ((List.range (7 - rows)).flatMap fun y => (List.range (9 - cols)).map fun x => rectangle x y cols rows).findSome? (s.fitAll cl td)

/-- Where an entry binds; none when it does not fit. -/
def State.placeEntry (s : State) (cl : Nat) (e : QEntry) : Option (List (Nat × Nat × Nat)) :=
  s.placeTask cl (s.taskEntry e.task.space (recType e.task.bytes))

/-- The levels that hold an entry, from the highest down. -/
def Cluster.busy (c : Cluster) : List Nat := [7, 6, 5, 4, 3, 2, 1, 0].filter fun n => (c.level n).size != 0

/-- The source and the entry of a level with a sequence number. -/
def Level.entry (l : Level) (seq : Nat) : Option (Source × QEntry) :=
  [Source.dealer, .spawn, .cont].findSome? fun k => ((l.source k).find? fun e => e.seq == seq).map fun e => (k, e)

/-- The cluster's reserved record (R62). -/
def Cluster.reservedEntry (c : Cluster) : Option (Nat × Source × QEntry) :=
  match c.reserved with
  | none => none
  | some (n, seq) => ((c.level n).entry seq).map fun e => (n, e)

/-- What a binding is offered, in order (R61, R62): the candidates from the highest level down, with nothing at or below a reserved
record's level but that record. `low`: only the lowest non-empty level's, or the reserved record. -/
def Cluster.offers (c : Cluster) (low : Bool) : List (Nat × Source × QEntry) :=
  let cands (ns : List Nat) := ns.filterMap fun n => ((c.level n).candidate).map fun e => (n, e)
  match c.reservedEntry with
  | some r => (if low then [] else cands (c.busy.filter fun n => decide (r.1 < n))) ++ [r]
  | none => cands (if low then c.busy.getLast?.toList else c.busy)

/-- An entry that leaves its level: the level's first spilled entry then moves onto the chip, as its ring holds it (R57, R58). -/
def State.takeEntry (s : State) (cl n seq : Nat) : State :=
  let s := s.readRings cl
  let c := s.clusterAt cl
  let l := c.level n
  let drop (q : List QEntry) := q.filter fun e => e.seq != seq
  let l := { l with dealer := drop l.dealer, spawn := drop l.spawn, cont := drop l.cont }
  let next := (l.entries.filter fun e => e.spill.isSome).foldl (fun (b : Option QEntry) e => match b with
    | none => some e
    | some f => if e.seq < f.seq then some e else some f) none
  let l : Level := match next with
    | none => l
    | some f =>
      if 256 ≤ l.onChip then l else
      let g (q : List QEntry) := q.map fun (e : QEntry) => if e.seq = f.seq then { e with spill := none } else e
      { l with dealer := g l.dealer, spawn := g l.spawn, cont := g l.cont }
  let l := if l.size = 0 then { l with keyed := c.keyed.getLsbD n } else l
  s.setCluster cl (c.setLevel n l.settle)

/-- Each level's candidate that did not fit is passed over once (R62). -/
def State.passOver (s : State) (cl seq : Nat) : State :=
  let c := s.clusterAt cl
  let step (c : Cluster) (n : Nat) : Cluster :=
    match (c.level n).candidate with
    | none => c
    | some (_, e) =>
      if e.seq = seq ∨ (s.placeEntry cl e).isSome then c else
      let l := c.level n
      let f (q : List QEntry) := q.map fun (x : QEntry) => if x.seq = e.seq then { x with passed := x.passed + 1 } else x
      c.setLevel n { l with dealer := f l.dealer, spawn := f l.spawn, cont := f l.cont }
  s.setCluster cl (c.busy.foldl step c)

/-- A frame as binding leaves it; TASK_START gives it its state (R28). -/
def Frame.bind (t : Task) (td : BitVec 512) (group : Option Nat) (gbar : BitVec 16) (gidx block : Nat) : Frame :=
  { task := t, tdesc := td, group := group, gbar := gbar, gidx := gidx, block := block, started := false,
    cbs := Vector.ofFn fun i => CircBuf.ofDesc (tdCbd td i.val), sems := Vector.ofFn fun i => tdSem td i.val,
    acc := Vector.replicate 4 0, kindI := Vector.replicate 4 false, latA := 0, latB := 0, badA := [], badB := [],
    sclA := Vector.replicate 8 none, sclB := Vector.replicate 8 none, mq := [], operrxy := 0, semq := [], trappedBy := none,
    homes := [], killed := none }

/-- The lowest group-domain id of a cluster that no group of the space holds (R210). -/
def State.freeDomain (s : State) (sid core : Nat) : BitVec 16 :=
  BitVec.ofNat 16 (((List.range 256).map fun i => 0x1F00 + i).find? (fun i =>
    ! s.groups.any fun g => g.2.key == objKey sid core (BitVec.ofNat 16 i)) |>.getD 0x1F00)

/-- The frames of a record are taken, in one decision (R31, R63). -/
def State.bindAt (s : State) (t : Task) (td : BitVec 512) (ps : List (Nat × Nat × Nat)) : State :=
  let place (s : State) (group : Option Nat) (gbar : BitVec 16) : State :=
    ((List.range ps.length).zip ps).foldl (fun s p => s.setFrame p.2.1 p.2.2.1 (Frame.bind t td group gbar p.1 p.2.2.2)) s
  if tdGw td = 1 then place s none 0 else
  let core := match ps with | p :: _ => p.1 | [] => 0
  let gbar := s.freeDomain (spaceSid t.space) core
  let k := objKey (spaceSid t.space) core gbar
  let g := s.nextId
  let s := { s with nextId := g + 1, groups := s.groups.set g { members := ps.map fun p => (p.1, p.2.1), key := k, ended := 0, killed := false },
                    barriers := s.barriers.set k { phase := 0, sum := 0, extra := 0, doneCtr := none, groupCount := some (tdGw td), counted := [], extWord := none } }
  place s (some g) gbar

/-- A candidate passed over 256 times becomes the cluster's reserved record (R62); of several, the one of the highest level (DESIGN CHOICE,
LOG 113). -/
def State.reserve (s : State) (cl : Nat) : State :=
  let c := s.clusterAt cl
  match c.reserved with
  | some _ => s
  | none =>
    match c.busy.findSome? fun n => (c.level n).candidate.bind fun e => if 256 ≤ e.2.passed then some (n, e.2.seq) else none with
    | some r => s.setCluster cl { c with reserved := some r }
    | none => s

/-- One binding decision (R59 to R63): the first offer that fits, spilled records as their rings hold them (R57). -/
def State.dispatch (s : State) (cl : Nat) (low : Bool) : State :=
  let s := (s.contsRetry cl).readRings cl
  let c := s.clusterAt cl
  match (c.offers low).findSome? fun o => (s.placeEntry cl o.2.2).map fun ps => (o, ps) with
  | none => s
  | some ((n, k, e), ps) =>
    let td := s.taskEntry e.task.space (recType e.task.bytes)
    let s := (s.passOver cl e.seq).takeEntry cl n e.seq
    let c := s.clusterAt cl
    let lower := c.busy.any fun m => decide (m < n)
    let c := c.setLevel n (Level.settle { c.level n with ptr := k.num })
    let s := s.setCluster cl { c with age := if low || ! lower then 0 else c.age + 1,
                                      reserved := if c.reserved = some (n, e.seq) then none else c.reserved }
    (((s.bindAt e.task td ps).jobReceived e.task.job).contsRetry cl).reserve cl

/-- DISPATCH_BIND (R61). -/
def execDispatchBind (cluster : Nat) (s : State) : Host.Outcome State Fault Refusal :=
  .next (if (s.clusterAt cluster).age < 1024 then s.dispatch cluster false else s)

/-- AGE_GUARD (R61): with AGE at 1,024 only the lowest non-empty level's candidate, or the reserved record, is offered. -/
def execAgeGuard (cluster : Nat) (s : State) : Host.Outcome State Fault Refusal :=
  .next (if 1024 ≤ (s.clusterAt cluster).age then s.dispatch cluster true else s)

/-- RECORD_RESERVED (R62). -/
def execRecordReserved (cluster level : Nat) (s : State) : Host.Outcome State Fault Refusal :=
  let s := s.readRings cluster
  let c := s.clusterAt cluster
  match c.reserved, (c.level level).candidate with
  | none, some (_, e) => .next (if 256 ≤ e.passed then s.setCluster cluster { c with reserved := some (level, e.seq) } else s)
  | _, _ => .next s

/-- DCTL_WRITE (R57): RSZ is kept while a level has spilled entries, KEYED without feature bit 9; an empty level changes its mode at once. -/
def execDctlWrite (cluster : Nat) (v : BitVec 64) (s : State) : Host.Outcome State Fault Refusal :=
  s.unitEvent (fun _ u w => u == .dctl cluster && w == v) fun _ s =>
    let c := s.clusterAt cluster
    let spilled := c.levels.toList.any fun l => ! l.spilled.isEmpty
    let keyed := if s.feature 9 then v.extractLsb' 0 8 else c.keyed
    let ls := Vector.ofFn (n := 8) fun i =>
      let l := c.level i.val
      if l.size = 0 then { l with keyed := keyed.getLsbD i.val } else l
    s.setCluster cluster { c with rsz := if spilled then c.rsz else (v.extractLsb' 16 5).toNat, keyed := keyed, levels := ls }

/-- SPILL_WRITE (R57): ignored while a level has spilled entries. -/
def execSpillWrite (cluster : Nat) (v : BitVec 64) (s : State) : Host.Outcome State Fault Refusal :=
  s.unitEvent (fun _ u w => u == .spill cluster && w == v) fun _ s =>
    let c := s.clusterAt cluster
    if c.levels.toList.any fun l => ! l.spilled.isEmpty then s
    else s.setCluster cluster { c with spillReg := v &&& 0x800000FFFFFFF000 }

/-! ## The start and end of a task (R28, R38, R41, R42) -/

/-- A context as a task starts on it (R28). -/
def State.startCtx (s : State) (core : Nat) (k : CtxKind) (f : Frame) : Ctx :=
  let t := f.task
  let td := f.tdesc
  let (entry, gdem, line) : Nat × Nat × BitVec 12 := match k with
    | .loader => (tdLent td % 256, tdLgdem td, (s.coreOf core).ltvec)
    | .computer => (tdCent td % 4096, tdCgdem td, (s.clusterAt (clusterOf core)).tvec)
    | .storer => (tdSent td % 256, tdSgdem td, (s.coreOf core).stvec)
  let g : Vector Word 64 := Vector.ofFn fun i => match i.val with
    | 1 => recArg t.bytes
    | 2 => (t.bytes.extractLsb' 16 16).zeroExtend 64
    | 3 => (t.bytes.extractLsb' 32 16).zeroExtend 64
    | 4 => (t.bytes.extractLsb' 48 16).zeroExtend 64
    | 5 => t.index.zeroExtend 64
    | _ => 0
  { Ctx.blank with
    pc := pcOf 0 entry, g := g, b := Vector.ofFn fun i => if i.val = 1 then t.b1 else 0, status := 2, tvec := line.zeroExtend 64 <<< 6,
    space := t.space, gdem := gdem, vdem := if k = .computer then tdVdem td else 0, adem := if k = .computer then tdAdem td else 0,
    fresh := true }

/-- TASK_START (R28). -/
def execTaskStart (core frm : Nat) (s : State) : Host.Outcome State Fault Refusal :=
  match s.frames.get (core, frm) with
  | none => .next s
  | some f =>
    if f.started ∨ f.killed.isSome then .next s else
    .next (ctxKinds.foldl (fun s k => s.setCtx (.ctx ⟨core, frm, k⟩) (s.startCtx core k f)) (s.setFrame core frm { f with started := true }))

def ofFrame (core frm : Nat) (c : CtxId) : Bool := c.core == core && c.frm == frm

/-- Work of a frame still on its way: operations, matrix instructions, arrivals, unit-space stores, held stores, causes (R38, R40, R295); of a killed
one also begun copies of others into its scratch (R40). -/
def State.frameBusy (s : State) (core frm : Nat) (f : Frame) : Bool :=
  let mine := ofFrame core frm
  s.ops.any (fun (p : Nat × Op) => mine p.2.who) || ! f.mq.isEmpty ||
  s.arrivals.any (fun a => match a.who with | some c => mine c | none => false) || s.unitq.any (fun q => mine q.1) ||
  s.ctxs.any (fun (p : Agent × Ctx) => match p.1 with | .ctx c => mine c && (! p.2.ended || ! p.2.held.isEmpty || ! p.2.coming.isEmpty) | .handler _ => false) ||
  s.saving (core, frm) || (f.killed.isSome && s.engineBusy [(core, frm)] false)

/-- Bank commands and atomics of a frame performed (R40, R113). None: one must wait. -/
def State.drainFrame (s : State) (core frm : Nat) : Option State :=
  let n := lastSel (s.coreOf core).cmds fun q => q.who.frm == frm
  let r := s.performCmds core n
  (ctxsOf core frm).foldl (fun o c => match o with
    | none => none
    | some s => (s.applyAtoms (.ctx c) fun _ => true).map fun r => r.1.send r.2) (some (r.1.send r.2))

/-- A frame's contexts, frame and leftovers gone: its resources are free (R38). -/
def State.freeFrameAt (s : State) (core frm : Nat) : State :=
  let mine := ofFrame core frm
  let loose (q : QItem) : QItem := match q with
    | .fence m (some c) w => if mine c then .fence m none w else q
    | q => q
  { s with frames := s.frames.del (core, frm), engine := s.engine.map fun (p : Nat × List QItem) => (p.1, p.2.map loose),
           ctxs := s.ctxs.filter fun (p : Agent × Ctx) => match p.1 with | .ctx c => ! mine c | .handler _ => true,
           atoms := s.atoms.filter fun (p : Nat × AtomReq) => match p.2.who with | .ctx c => ! mine c | .handler _ => true,
           releases := s.releases.filter fun r => ! mine r.who }

/-- A record ends (R31, R41): it is counted, and its parent decremented. -/
def State.countEnd (s : State) (core frm : Nat) (t : Task) (killed : Bool) : State :=
  let s := s.updJob t.job fun j => if killed then { j with failed := j.failed + 1 }
    else if t.kind = .job then { j with done := j.done + 1 } else j
  s.sendDecrement (dieOf core)
    { cid := t.parent, job := some t.job, sid := spaceSid t.space, jobWord := s.jobWord t.job, who := some ⟨core, frm, .storer⟩ }

/-- The error record of a killed task (R42). -/
def State.killRecord (s : State) (t : Task) (k : KillInfo) : State :=
  s.errorRecord (spaceSid t.space) { type := recType t.bytes, cause := k.cause, ctx := k.ctx, index := t.index.toNat, addr := k.eaddr,
                                     pc := pcForm k.pc, job := s.jobWord t.job }

/-- A member of a group ends (R31): at the last one, the record ends and the domain's id is free. Its object stays until a bind sets it anew
(R210, R290). -/
def State.endMember (s : State) (core frm n : Nat) (t : Task) (killed : Bool) : State :=
  match s.groups.get n with
  | none => s.countEnd core frm t killed
  | some g =>
    let g := { g with ended := g.ended + 1, killed := g.killed || killed }
    if g.ended < g.members.length then { s with groups := s.groups.set n g } else
    ({ s with groups := s.groups.del n, frozen := s.frozen.filter fun z => z.2.1 != g.key }).countEnd core frm t g.killed

/-- A saved frame that was killed ends (R355): counted as failed, and its record as received. -/
def State.endSaved (s : State) (core frm : Nat) : State :=
  match s.saved.find? fun v => v.core == core && v.frm == frm with
  | none => s
  | some v =>
    match v.frame.killed with
    | none => s
    | some k =>
      let s := s.killRecord v.frame.task k
      let s := { s with saved := s.saved.filter fun w => ! (w.core == core && w.frm == frm) }
      let s := if s.saved.any fun w => w.frm == frm then s else s.jobReceived v.frame.task.job
      match v.frame.group with
      | some n => s.endMember core frm n v.frame.task true
      | none => s.countEnd core frm v.frame.task true

/-- TASK_END (R38, R41); of a saved frame, by its saved number, once it was killed. -/
def execTaskEnd (core frm : Nat) (s : State) : Host.Outcome State Fault Refusal :=
  match s.frames.get (core, frm) with
  | none => .next (s.endSaved core frm)
  | some f0 =>
    if ! (f0.started || f0.killed.isSome) then .next s else
    let s0 := if f0.killed.isSome then (ctxsOf core frm).foldl State.flushKilled s else s
    if s0.frameBusy core frm f0 then .next s0 else
    match s0.drainFrame core frm with
    | none => .next s0
    | some s =>
      -- a cause of its bank commands may have killed it (R113)
      match s.frames.get (core, frm) with
      | none => .next s
      | some f =>
        let s := match f.killed with | some k => s.killRecord f.task k | none => s
        let s := s.freeFrameAt core frm
        let s := match f.group with
          | some n => s.endMember core frm n f.task f.killed.isSome
          | none => s.countEnd core frm f.task f.killed.isSome
        .next (s.contsRetry (clusterOf core))

/-! ## The job sweep (R45, R336) -/

/-- Does any core hold a frame, or any save area a task, of a job? -/
def State.jobLive (s : State) (n : Nat) : Bool :=
  s.frames.any (fun (p : (Nat × Nat) × Frame) => p.2.task.job == n) || s.saved.any fun v => v.frame.task.job == n

/-- The continuations of an ending job are discarded, each with an error record (R336). -/
def State.discardConts (s : State) (n : Nat) : State :=
  (s.jobConts n).foldl (fun s q =>
    let sid := match s.jobs.get n with | some j => spaceSid j.space | none => 0
    (s.dropCont q.1 q.2.1).errorRecord sid
      { type := (q.2.2.2.extractLsb' 0 16).toNat, cause := 0x30, addr := q.2.2.1, job := s.jobWord n }) s

/-- A job ends (R45): its lease is released, its done word written, its parent decremented and the host notified. A mirror job
returns its counts instead (R266). None: it must wait. -/
def State.endJob (s : State) (n : Nat) (j : Job) : Option State :=
  let s := s.discardConts n
  match j.mirror with
  | some (_, slot, link) =>
    -- a return over a link that has failed is discarded (R266)
    if 16 ≤ link then some (s.dropJob n j) else
    if 1024 ≤ (s.shadow 0 (.link link)).length then none else
    let counts : BitVec 128 := BitVec.ofNat 128 (j.dealt % 2 ^ 32 + j.done % 2 ^ 32 * 2 ^ 32 + j.failed % 2 ^ 32 * 2 ^ 64)
    some ((s.dropJob n j).pushShadow 0 (.link link)
      { bytes := proxyImage counts 0 3 0 false 0 slot s.boot.ownPkg.toNat, task := none, dec := none })
  | none => (s.dropJob n j).completeCard j.card (spaceSid j.space) j.done j.failed

/-- JOB_SWEEP (R45): with every record dealt and every core idle, two agreeing sweeps end the job. -/
def execJobSweep (job : Nat) (s : State) : Host.Outcome State Fault Refusal :=
  match s.jobs.get job with
  | none => .next s
  | some j =>
    let dealt := j.killed || (decide (j.stage = .running) && (j.mirror.isSome || decide (Card.count j.card ≤ j.dealt)))
    if dealt ∧ ! s.jobLive job ∧ j.sent = j.received then
      if j.sweep = some (j.sent, j.received) then
        match s.endJob job j with
        | some s => .next s
        | none => .next s
      else .next (s.updJob job fun x => { x with sweep := some (j.sent, j.received) })
    else .next (s.updJob job fun x => { x with sweep := none })

/-! ## Decrements and proxy queues (R43, R67) -/

/-- DECREMENT_APPLY (R43, R204): some source's first decrement at the cluster; one that waits for room in a proxy shadow enters it (R67). -/
def execDecrementApply (cluster : Nat) (s : State) : Host.Outcome State Fault Refusal :=
  let can (d : Decrement) : Bool := cidCluster d.cid == cluster && (match d.stuck with | some q => s.shadowRoom q | none => true)
  match (s.pick 5 (firstsOf can (fun d => (d.who, d.stuck)) s.decs)).bind fun i => s.decs[i]?.map fun d => (i, d) with
  | some (i, d) =>
    let s := { s with decs := s.decs.eraseIdx i }
    .next (match d.stuck with
      | some q => s.shadowDecrement q { d with stuck := none }
      | none => s.applyDecrement d)
  | none => .next (s.contsRetry cluster)

/-- A forwarded entry reaches the other die's queues. -/
def State.proxyArrive (s : State) (e : ProxyEntry) : State :=
  let cl := (e.bytes.extractLsb' 208 8).toNat
  let s := match e.task with
    | some t => let c := s.clusterAt cl; s.setCluster cl { c with arriving := c.arriving ++ [(e.who, t)] }
    | none => s
  match e.dec with
  | some d => { s with decs := s.decs ++ [d] }
  | none => s

/-- PROXY_FORWARD_WRITE (R67): up to 128 entries of one shadow, in its order. Those for a link that is up leave the package, each in a flit of
its own, which the link numbers (R419; DESIGN CHOICE, LOG 114). -/
def execProxyForwardWrite (die : Nat) (dest : ProxyDest) (s : State) : Host.Outcome State Fault Refusal :=
  let q := s.shadow die dest
  let rest := { s with proxies := s.proxies.set (die, dest) (q.drop 128) }
  match dest with
  | .die _ => .next ((q.take 128).foldl State.proxyArrive rest)
  | .link n =>
    match s.links.toList[n]? with
    | some l => .next (if l.state = 2 ∧ ! q.isEmpty then
        { rest with links := rest.links.set! n { l with seqNo := l.seqNo + (q.take 128).length } } else s)
    | none => .next s

end Sys2Proof.Machine
end

