-- ==== Sys2Proof/Machine/Join.lean ====
section
/-! DEFINITION. Group 0xA, its join half: JBIND, KCNT, KSEEK, KISECT, KLOOK and KACC; and SHEAT and XMIG (spec/07_joins.md R117 to
R129, spec/24_ref_g_m.md R361, R365, R366, spec/25_ref_n_s.md R392, spec/26_ref_v_y.md R413, spec/13_near_memory.md R235). -/

namespace Sys2Proof.Machine

/-! ## Descriptors (R117, R118) -/

/-- A node entry (R117). -/
structure JoinNode where
  parent : Nat
  nflags : Nat
  keycol : Nat
  k2col : Nat
  rowsz : Nat
  heavy : Nat
  tail : Nat
  rel : Cap
  dir : Cap
  deriving DecidableEq, Repr

def JoinNode.bag (e : JoinNode) : Bool := e.nflags % 2 == 1

/-- The 16 bytes of a capability in a read block, with the tag that the context sees there: bytes across two granules are none (R86). -/
def State.capSeen (s : State) (y : Ctx) (t : Target) (bs : List Byte) : Cap :=
  let tag := match t, y.held.reverse.find? fun h => h.meets t 16 with
    | _, some h => h.cap
    | .dev sid obj off, none => s.devTag sid obj off
    | .scr _ _, none => false
  capOf bs (tag && t.off % 16 == 0)

def JoinNode.read (s : State) (y : Ctx) (t : Target) (b : List Byte) : JoinNode :=
  { parent := leAt b 0 1, nflags := leAt b 1 1, keycol := leAt b 2 2, k2col := leAt b 4 2, rowsz := leAt b 6 2, heavy := leAt b 8 4,
    tail := leAt b 14 2, rel := s.capSeen y (t.plus 16) ((b.drop 16).take 16), dir := s.capSeen y (t.plus 32) ((b.drop 32).take 16) }

/-- Is a capability tagged, with R (R118)? -/
def readable (c : Cap) : Bool := CapF.tag c && CapF.r c

/-- The 0x10 of an access whose object R88 denies, through a capability that stands in no b register: EINFO[3:0] is 0 (DESIGN CHOICE, LOG 121). -/
def State.objChk (s : State) (space : Word) (c : Cap) (off : Nat) : Except Halt Unit :=
  if s.spaceLive space && (s.objEntry (spaceSid space) (CapF.obj c)).isSome then .ok () else trap 0x10 (BitVec.ofNat 64 off) 0

/-- R118's checks 1 to 7 in order: the first that fails. -/
def joinCheck (hdr : List Byte) (n : Nat) (e : JoinNode) (mode : Nat) : Option Nat :=
  if leAt hdr 0 1 = 0 ∨ 16 < leAt hdr 0 1 ∨ leAt hdr 1 1 ≠ 1 then some 1
  else if leAt hdr 0 1 ≤ n then some 2
  else if (if n = 0 then e.parent ≠ 0xFF else n ≤ e.parent) then some 3
  else if e.rowsz < e.keycol + 4 ∨ (e.bag ∧ e.rowsz < e.k2col + 4) ∨ e.rowsz < 4 ∨ 4096 < e.rowsz ∨ e.rowsz % 4 ≠ 0 ∨
    e.keycol % 4 ≠ 0 ∨ e.k2col % 4 ≠ 0 then some 4
  else if (hdr.drop 2).any (· != 0) ∨ 1 < e.nflags ∨ e.tail ≠ 0 ∨ (! e.bag ∧ e.k2col ≠ 0) then some 5
  else if ! readable e.dir then some 6
  else if mode = 2 ∧ ! readable e.rel then some 7
  else none

/-- The 0x2C of a failing check (R118). EADDR (R244: the offset) is the header's for checks 1 and 2, the entry's for 3 to 7 and 9, the directory's
for 8 (DESIGN CHOICE, LOG 121). -/
def joinFault {α : Type} (n check ea : Nat) : Except Halt α := trap 0x2C (BitVec.ofNat 64 ea) (BitVec.ofNat 32 (16 * check + n))

/-- The search of R119: the first key index not below k. -/
def State.joinSearch (y : Ctx) (dir : Cap) (k : Nat) : Nat → State → Nat → Nat → Except Halt (State × Nat)
  | 0, s, lo, _ => .ok (s, lo)
  | fuel + 1, s, lo, hi =>
    if hi ≤ lo then .ok (s, lo) else do
    let mid := (lo + hi) / 2
    let (s, w) ← s.dirWord y dir (CapF.base dir + 16 + 4 * mid)
    if w < k then State.joinSearch y dir k fuel s (mid + 1) hi else State.joinSearch y dir k fuel s lo mid

/-- The run of key k (R119): its first row and its length. -/
def State.dirRun (s : State) (y : Ctx) (dir : Cap) (nkeys lo k : Nat) : Except Halt (State × Nat × Nat) :=
  if nkeys ≤ lo then .ok (s, 0, 0) else do
  let kb := CapF.base dir + 16
  let (s, w) ← s.dirWord y dir (kb + 4 * lo)
  if w ≠ k then .ok (s, 0, 0) else do
  let (s, a) ← s.dirWord y dir (kb + 4 * nkeys + 4 * lo)
  let (s, b) ← s.dirWord y dir (kb + 4 * nkeys + 4 * (lo + 1))
  .ok (s, a, b - a)

/-- The words at K2COL of the bound rows lie under the lease (R361). -/
def State.rowsLeased (s : State) (sid obj base rowsz k2col : Nat) : List Nat → Except Halt Unit
  | [] => .ok ()
  | r :: rs => do
    s.leaseChk sid obj (base + r * rowsz + k2col) 4 false false
    s.rowsLeased sid obj base rowsz k2col rs

/-- The stream that JBIND binds (R121), its run located. -/
def State.joinStream (s : State) (y : Ctx) (n eoff mode j k : Nat) (e : JoinNode) : Except Halt (State × Stream) := do
  let ext (m : Nat) : Bool := decide (min (CapF.limit e.dir) (s.objSize (spaceSid y.space) (CapF.obj e.dir)) < CapF.base e.dir + m)
  s.objChk y.space e.dir (CapF.base e.dir)
  if ext 4 then joinFault n 8 (CapF.base e.dir)
  let (s, nkeys) ← s.dirWord y e.dir (CapF.base e.dir)
  if ext (20 + 8 * nkeys) then joinFault n 8 (CapF.base e.dir)
  let (s, lo) ← State.joinSearch y e.dir k 33 s 0 nkeys
  let (s, first, len) ← s.dirRun y e.dir nkeys lo k
  if mode = 1 then
    .ok (s, { src := .keys e.dir lo, count := nkeys - lo, run := nkeys - lo, pos := 0, flags := 0, ahead := [] })
  else do
    let a := if e.heavy = 0 then 0 else min (j * e.heavy) len
    let b := if e.heavy = 0 then len else min ((j + 1) * e.heavy) len
    let base := CapF.base e.rel
    if mode = 0 then
      .ok (s, { src := .rows base (first + a) e.rowsz, count := b - a, run := len, pos := 0, flags := 0, ahead := [] })
    else do
      if 0 < len then s.objChk y.space e.rel (base + first * e.rowsz + e.k2col)
      if 0 < len ∧ min (CapF.limit e.rel) (s.objSize (spaceSid y.space) (CapF.obj e.rel)) < base + (first + len) * e.rowsz then
        joinFault n 9 eoff
      s.rowsLeased (spaceSid y.space) (CapF.obj e.rel) base e.rowsz e.k2col ((List.range (b - a)).map fun p => first + a + p)
      .ok (s, { src := .second e.rel (first + a) e.rowsz e.k2col, count := b - a, run := len, pos := 0, flags := 0, ahead := [] })

/-- JBIND (R118, R121, R361). -/
def execJbind (f : Fld) (s : State) : Host.Outcome State Fault Refusal :=
  issue (.jbind f) {} (fun y s => do
    let pair := s.pairView.isSome
    let mode := f.mod.toNat
    let n := (srcW y f pair f.sb).toNat % 16
    let gk := srcW y f pair f.sc
    let j := (gk.extractLsb' 32 16).toNat
    let bt := srcC y f.sa
    let base := CapF.base bt
    let sid := spaceSid y.space
    let miss (c : Cause) : Except Halt Unit := trap c (BitVec.ofNat 64 base) (bIndex f.sa)
    if ! CapF.tag bt || ! s.spaceLive y.space || (s.objEntry sid (CapF.obj bt)).isNone then miss 0x10
    if ! (CapF.r bt && CapF.l bt) then miss 0x12
    let _ ← s.capChk y f.sa base (128 + 64 * n) {} 1
    let eoff := base + 64 + 64 * n
    s.leaseChk sid (CapF.obj bt) base 64 false false
    s.leaseChk sid (CapF.obj bt) eoff 64 false false
    let blocks : List (Target × Nat) := [(.dev sid (CapF.obj bt) base, 64), (.dev sid (CapF.obj bt) eoff, 64)]
    let s := s.dropEarly s.cur blocks
    let y := y.dropEarly s blocks
    let (s, hdr) ← s.loadNow y (.dev sid (CapF.obj bt) base) 64
    let (s, ent) ← s.loadNow y (.dev sid (CapF.obj bt) eoff) 64
    let e := JoinNode.read s y (.dev sid (CapF.obj bt) eoff) ent
    match joinCheck hdr n e mode with
    | some c => joinFault n c (if c ≤ 2 then base else eoff)
    | none =>
      if mode ≠ 1 ∧ e.heavy = 0 ∧ j ≠ 0 then trap 0x02 0 0x280
      let (s, st) ← s.joinStream y n eoff mode j (gk.toNat % 2 ^ 32) e
      .ok { s := s.me fun x => x.bindStream (sIndex f.dst) st }) s

/-! ## Key streams (R122, R123) -/

/-- KCNT (R122, R366): it never waits. An SBIND stream has one bound range and no other run. -/
def execKcnt (f : Fld) (s : State) : Host.Outcome State Fault Refusal :=
  issue (.kcnt f) { dyn07 := fun _ y => unbound f.sa y } (fun y s =>
    match srcS y f.sa with
    | none => .ok { s := s }
    | some st =>
      let n := s.countNow y st
      let run := match st.src with | .rows .. => st.run | .keys .. => st.run | .second .. => st.run | _ => n
      .ok (scalarResult s f.dst (BitVec.ofNat 64 (if f.mod = 1 then run else n)))) s

/-- The 0x07 of a stream that KSEEK and KISECT do not take: unbound, or bound in mode 0 (R123). -/
def notKeyed (o : Operand) (x : Ctx) : Option (BitVec 32) :=
  match o with
  | .s n => (match x.readS n with
    | none => some (specInfo o)
    | some st => match st.src with | .rows .. => some (specInfo o) | _ => none)
  | _ => none

/-- KSEEK (R123). -/
def execKseek (f : Fld) (s : State) : Host.Outcome State Fault Refusal :=
  issue (.kseek f) { dyn07 := fun _ y => notKeyed f.sa y } (fun y s =>
    match srcS y f.sa with
    | none => .ok { s := s }
    | some st => do
      let (s, st') ← State.streamSeek y (fun s t => s.putStream (sIndex f.sa) st t) (srcW y f s.pairView.isSome f.sb).toNat st.room s st
      .ok { s := s.putStream (sIndex f.sa) st st' }) s

/-- KISECT's loop (R123): the common element, if any, and where both streams stand; `keep` holds the positions reached where it waits (R366). -/
def State.intersect (y : Ctx) (keep : State → Stream → Stream → State) : Nat → State → Stream → Stream → Except Halt (State × Option Word × Stream × Stream)
  | 0, s, a, b => .ok (s, none, a, b)
  | fuel + 1, s, a, b => do
    let (s, p) ← keepAt (fun s => keep s a b) (s.streamPeek y a)
    let (s, q) ← keepAt (fun s => keep s a b) (s.streamPeek y b)
    match p, q with
    | some (v, fv), some (w, fw) =>
      if v = w then .ok (s, some v, a.advance fv, b.advance fw)
      else if v.toNat < w.toNat then do
        let (s, a) ← State.streamSeek y (fun s a => keep s a b) w.toNat a.room s a
        State.intersect y keep fuel s a b
      else do
        let (s, b) ← State.streamSeek y (fun s b => keep s a b) v.toNat b.room s b
        State.intersect y keep fuel s a b
    | _, _ => do
      let (s, n) ← if p.isNone then .ok (s, a.pos) else keepAt (fun s => keep s a b) (s.streamCount y a)
      let (s, m) ← if q.isNone then .ok (s, b.pos) else keepAt (fun s => keep s a b) (s.streamCount y b)
      .ok (s, none, { a with pos := n, flags := 7, ahead := [] }, { b with pos := m, flags := 7, ahead := [] })

/-- KISECT (R123, R366). -/
def execKisect (f : Fld) (s : State) : Host.Outcome State Fault Refusal :=
  issue (.kisect f) { dyn07 := fun _ y => (notKeyed f.sa y).or (notKeyed f.sb y) } (fun y s =>
    match srcS y f.sa, srcS y f.sb with
    | some a, some b => do
      let put (s : State) (a' b' : Stream) : State := (s.putStream (sIndex f.sa) a a').putStream (sIndex f.sb) b b'
      let (s, r, a', b') ← State.intersect y put (a.room + b.room + 1) s a b
      let s := put s a' b'
      .ok (scalarResult s f.dst (r.getD 0xFFFFFFFFFFFFFFFF))
    | _, _ => .ok { s := s }) s

/-! ## Keyed tables (R124 to R126) -/

/-- A table's bytes (R124). -/
def tableSize (nb : Nat) : Nat := 17 * 64 * 2 ^ nb

/-- The table that SA names, checked (R84, R106, R124). Its rows are tested against the lease one by one, as they are reached (R52, R365, R366). -/
def State.tableChk (s : State) (y : Ctx) (f : Fld) (need : Needs) (writes : Bool) : Except Halt Target :=
  let size := tableSize f.nb
  if f.sa.isB then do
    let c := srcC y f.sa
    let o ← s.capChk y f.sa (CapF.base c) size need 64
    if writes then s.derivedChk y (CapF.obj c) o
    .ok (.dev (spaceSid y.space) (CapF.obj c) o)
  else do
    let (core, off) ← rowChk s (srcW y f s.pairView.isSome f.sa) 0 fun _ o => decide (0x80000 < o + size)
    .ok (.scr core off)

def Fld.key (y : Ctx) (f : Fld) (pair : Bool) : BitVec 32 := (srcW y f pair f.sb).extractLsb' 0 32

/-- KLOOK (R126, R366). -/
def execKlook (f : Fld) (s : State) : Host.Outcome State Fault Refusal :=
  issue (.klook f) {} (fun y s => do
    let key := Fld.key y f s.pairView.isSome
    let t ← s.tableChk y f { r := true } false
    let p : Pending := .klook t key f.nb f.probe (s.coreOf s.curCore).watches
    match s.orderBefore s.cur p.ranges false false with
    | none => .error (.wait s)
    | some (s, ps) => .ok { s := (s.track f y false p t.eaddr).send ps }) s

/-- KACC (R125, R365): in scratch bank commands, in device memory an atomic. -/
def execKacc (f : Fld) (s : State) : Host.Outcome State Fault Refusal :=
  issue (.kacc f) {} (fun y s => do
    let pair := s.pairView.isSome
    let key := Fld.key y f pair
    let v := bankOperand f y pair f.sc
    let t ← s.tableChk y f { r := true, a := true } true
    if key = 0xFFFFFFFF then trap 0x2C t.eaddr 0xA0
    match t with
    | .scr core off => do
      let e ← s.sendCmd y 0xF (.kacc f.mod.toNat (scrKey core off) f.nb f.probe key v)
      .ok { e with after := none }
    | .dev .. =>
      if y.acqPending || ! s.atomRoom [t] then .error (.wait s) else
      match s.orderBefore s.cur [(t, tableSize f.nb)] true true with
      | none => .error (.wait s)
      | some (s, ps) =>
        let a : AtomSpec := { t := t, op := 17, bytes := tableSize f.nb, x := 0, y := 0 }
        let (rid, s) := s.nextRid s.curCore
        let ts := [(t, tableSize f.nb)]
        let r := { a.request s.cur y.space 0 false none 0 s.curCore rid y.issued y.pc (s.translate ts) with
          kacc := some { fmt := f.mod.toNat, nb := f.nb, probe := f.probe, key := key, v := v, ws := (s.coreOf s.curCore).watches } }
        .ok { s := ({ s.cacheFor ts with nextId := s.nextId + 1, atoms := s.atoms.set s.nextId r }).send ps }) s

/-! ## Heat and migration (R128, R129) -/

/-- SHEAT (R392): the sum of the serving slices' counts; with .CLR each is cleared. -/
def execSheat (f : Fld) (s : State) : Host.Outcome State Fault Refusal :=
  issue (.sheat f) {} (fun y s => do
    let o ← s.capChk y f.sa (capOff (srcW y f s.pairView.isSome f.sb) 0) 1 { r := true, w := f.mod == 1 } 1
    let sid := spaceSid y.space
    match s.place sid (CapF.obj (srcC y f.sa)) o with
    | none => .ok (scalarResult s f.dst 0)
    | some p =>
      let here (e : Extent) : Bool := e.sid == sid && e.gen == spaceGen y.space && e.obj == p.obj && e.slab == p.slab
      let n := (s.extents.filter here).foldl (fun n e => n + e.heat) 0
      let s := if f.mod = 1 then { s with extents := s.extents.map fun e => if here e then { e with heat := 0 } else e } else s
      .ok (scalarResult s f.dst (BitVec.ofNat 64 n))) s

/-- A slab's migration begins (R235): STATE 2, its extent entries gone. -/
def State.startMigration (s : State) (sid : Nat) (p : Place) (target : Nat) : State :=
  let s := (s.putExtent p p.pslab false 2 p.pin).evict fun e => e.sid == sid && e.obj == p.obj && e.slab == p.slab
  { s with nextId := s.nextId + 1,
           migrations := s.migrations.set s.nextId
             { sid := sid, obj := p.obj, slab := p.slab, target := target, was := p.ext.extractLsb' 23 2 } }

/-- CLASS of an object's table entry, usable or not; none beyond the table. -/
def State.classOf (s : State) (sid obj : Nat) : Option Nat :=
  match s.spaces.get sid with
  | some sp => if sp.nobj ≤ obj then none else some (leAt (s.entryBytes sid sp obj) 5 1 % 4)
  | none => none

/-- XMIG (R413): it holds its context until the slab lies on the target slice. -/
def execXmig (f : Fld) (s : State) : Host.Outcome State Fault Refusal :=
  issue (.xmig f) {} (fun y s => do
    let pair := s.pairView.isSome
    let gs := srcW y f pair f.sc
    let sid := spaceSid y.space
    let obj := CapF.obj (srcC y f.sa)
    if decide (159 < gs.toNat) || (match s.classOf sid obj with | some c => c != 1 | none => false) then trap 0x02 0 0x34D
    let o ← s.capChk y f.sa (capOff (srcW y f pair f.sb) 0) 1 { w := true } 1
    match s.place sid obj o with
    | none => .ok { s := s }
    | some p =>
      if p.slice = gs.toNat then .ok { s := s }
      else if p.state = 2 then .error (.wait s)
      else .error (.wait (s.startMigration sid p gs.toNat))) s

end Sys2Proof.Machine
end

