-- ==== Sys2Proof/Machine/Events.lean ====
section
/-! DEFINITION. The events of accesses and causes on their way, of timed waits, and of slabs: data arrival, stores and atomics at
their homes, delivery of imprecise causes, lease extensions, walks, compression, migration and refresh (spec/10_encoding.md R176;
spec/11_ordering.md R190 to R202; spec/14_faults.md R242, R249, R250; spec/05_memory.md R92 to R96; spec/06_bank_units.md R111;
spec/13_near_memory.md R233 to R236; spec/24_ref_g_m.md R360, R370; spec/25_ref_n_s.md R385; spec/26_ref_v_y.md R413, R414). An event that
is not enabled changes nothing (DESIGN CHOICE, LOG 20). -/

namespace Sys2Proof.Machine

/-! ## Tagged data (R176) -/

/-- The n-th producer of a context ends: its data is written, or its failure is sent to the context (R176, R247). -/
def State.endOut (s : State) (c : CtxId) (n : Nat) (e : Outst) : State :=
  let s := s.updCtx (.ctx c) fun x => State.writeOutst { x with out := x.out.eraseIdx n } e
  match e.what with
  | .failed p => s.send [(c, p)]
  | _ => s

/-- TAGGED_DATA_ARRIVAL (R176): not before an earlier load with .ACQ has returned, nor one of the same bytes (R192, R193). -/
def execTaggedDataArrival (c : CtxId) (n : Nat) (s : State) : Host.Outcome State Fault Refusal :=
  match s.ctxs.get (.ctx c) with
  | none => .next s
  | some x =>
    match x.out[n]? with
    | none => .next s
    | some e =>
      if (x.out.take n).any fun a => s.precedes a e then .next s else
      match s.performOut c x e with
      | none => .next s
      | some (s, p) => .next (s.endOut c n { e with what := p })

/-! ## Stores, atomics and bank commands at their homes (R190 to R193, R201, R111) -/

/-- The parts of a held store that may be performed next (R193): no earlier part of it, and no earlier held store, lies in the same aligned
8 bytes. A VSCAT's lanes are performed in increasing order (R408). -/
def State.readyParts (s : State) (earlier : List HeldStore) (h : HeldStore) : List Nat :=
  (List.range h.parts.length).filter fun i => match h.parts[i]? with
    | some p => ! (h.inOrder && decide (0 < i)) && ! ((h.parts.take i).any fun q => s.meets q.1 q.2.length p.1 p.2.length) &&
        ! earlier.any fun e => s.storeMeets e p.1 p.2.length
    | none => false

/-- Does an agent's frame stand killed (R40)? -/
def State.killedAgent (s : State) (a : Agent) : Bool :=
  match a with
  | .ctx c => (s.frameOf c).any fun f => f.killed.isSome
  | .handler _ => false

/-- STORE_HOME_PERFORM (R191, R193): one part of an agent's n-th held store. It marks at its publication (R141); of a killed frame, before it is
performed (R40, R140). -/
def execStoreHomePerform (a : Agent) (n : Nat) (s : State) : Host.Outcome State Fault Refusal :=
  match s.ctxs.get a with
  | none => .next s
  | some x =>
    match x.held[n]? with
    | none => .next s
    | some h =>
      match (s.pick 3 (s.readyParts (x.held.take n) h)).bind fun i => h.parts[i]?.map fun p => (i, p) with
      | none => .next s
      | some (i, p) =>
        let own := match p.1 with | .dev .. => [(p.1, p.2.length)] | .scr .. => []
        let dead := s.killedAgent a
        if dead && s.markHeld (devRanges own) then .next s else
        let s1 := if dead then s.markStep (devRanges own) else s
        match ((s1.carried a h.trans).beginStore a h).bind fun t => (s1.landed t).performPart a h p with
        | none => .next s
        | some (s, ps) =>
          let dev := if dead || ps.any (·.cause == 0x13) then [] else own
          let left := { h with parts := h.parts.eraseIdx i, begun := true }
          let s := s.updCtx a fun z =>
            { z with held := if left.parts.isEmpty then z.held.eraseIdx n else z.held.set n left, unmarked := z.unmarked ++ dev, win := z.win ++ dev }
          .next (match a with | .ctx c => s.send (ps.map fun p => (c, p)) | .handler _ => s)

/-- Has an agent an earlier unapplied request to the same bytes, outside a group that is applied as one (R193)? -/
def State.earlierAtom (s : State) (grp : List Nat) (n : Nat) (r : AtomReq) : Bool :=
  s.atoms.any fun p => decide (p.1 < n) && p.2.who == r.who && ! p.2.applied && ! grp.contains p.1 && s.meets p.2.t p.2.bytes r.t r.bytes

/-- A request and those it leads. -/
def AtomReq.record (r : AtomReq) (n : Nat) : List Nat := n :: r.merged.map (·.2)

/-- ATOMIC_HOME_APPLY (R201): a request, with those it leads, applied once; of a KACC the next access (R125). -/
def execAtomicHomeApply (req : Nat) (s : State) : Host.Outcome State Fault Refusal :=
  match s.atoms.get req with
  | none => .next s
  | some r =>
    let grp := r.record req
    if r.applied || r.led || grp.any (fun k => match s.atoms.get k with | some q => s.earlierAtom grp k q | none => false) then .next s
    else match s.applyStep req with
    | none => .next s
    | some (s, ps) => .next (s.send ps)

/-- May a router merge the request (R201)? -/
def AtomReq.mergeable (r : AtomReq) : Bool :=
  decide (r.op ≤ 7) && r.ord == 0 && ! r.applied && ! r.led && r.kacc.isNone && (match r.t with | .dev .. => true | .scr .. => false)

/-- The core that issued a request. -/
def AtomReq.core (r : AtomReq) : Nat := match r.who with | .ctx c => c.core | .handler _ => 0

/-- The die of a request's home (R12). -/
def State.homeDie (s : State) (r : AtomReq) : Nat := s.homeOf r.t / 80

/-- The router of a level on a request's way (R201): its cluster's, its own die's where that is not the home's, the home's die's. -/
def State.routerAt (s : State) (r : AtomReq) (level : Nat) : Option Nat :=
  match level with
  | 0 => some (clusterOf r.core)
  | 1 => if dieOf r.core = s.homeDie r then none else some (24 + dieOf r.core)
  | _ => some (24 + s.homeDie r)

/-- The highest level at which a request leads a record; 0 where it leads none. -/
def AtomReq.top (r : AtomReq) : Nat := r.merged.foldl (fun m q => max m q.1) 0

/-- The level at which a router may merge the second request into the first's record (R201): both pass it and no router of either's records
lies beyond it; a record holds 16 requests, of which one that an earlier router merged is one. -/
def State.mergeLevel (s : State) (a b : AtomReq) : Option Nat :=
  [0, 1, 2].find? fun l =>
    (s.routerAt a l).isSome && s.routerAt a l == s.routerAt b l && decide (a.top ≤ l) && (b.merged.isEmpty || decide (b.top < l)) &&
    decide ((a.merged.filter fun q => q.1 == l).length < 15)

/-- Are the requests of each context in a record in the order it issued them (R193)? -/
def State.recordOrder (s : State) (as bs : List Nat) : Bool :=
  as.all fun i => bs.all fun k => decide (i < k) || (match s.atoms.get i, s.atoms.get k with | some x, some y => x.who != y.who | _, _ => true)

/-- ROUTER_ATOMIC_FORWARD (R201): a router merges the second request into the first's record. A new record's request carries the router's
source and an id of its own (R202). -/
def execRouterAtomicForward (first second : Nat) (s : State) : Host.Outcome State Fault Refusal :=
  match s.atoms.get first, s.atoms.get second with
  | some a, some b =>
    if first != second && a.mergeable && b.mergeable && a.t == b.t && a.bytes == b.bytes && a.op == b.op &&
        s.recordOrder (a.record first) (b.record second) then
      match s.mergeLevel a b with
      | none => .next s
      | some l =>
        let src := 1152 + (s.routerAt a l).getD 0
        let fresh := ! a.merged.any fun q => q.1 == l
        let home := s.homeOf a.t
        if fresh && decide (64 ≤ (s.atoms.filter fun p => p.2.source == src && s.homeOf p.2.t == home).length) then .next s else
        let (rid, s) := if fresh then s.nextRid src else (a.rid, s)
        let a := { a with merged := a.merged ++ (l, second) :: b.merged, source := if fresh then src else a.source, rid := rid }
        .next { s with atoms := (s.atoms.set first a).set second { b with led := true, merged := [] } }
    else .next s
  | _, _ => .next s

/-- ATOMIC_REPLY (R201): the reply of an applied request is written to its destination. -/
def execAtomicReply (req : Nat) (s : State) : Host.Outcome State Fault Refusal :=
  match s.atoms.get req with
  | none => .next s
  | some r =>
    match r.applied, r.who with
    | true, .ctx c =>
      let mine (o : Outst) : Bool := match o.what with | .atomic k _ => k == req | _ => false
      let done (x : Ctx) : Ctx := match x.out.find? mine, r.reply with
        | some o, some w => State.writeOutst { x with out := x.out.filter fun o => ! mine o } { o with what := .ready w }
        | _, _ => { x with out := x.out.filter fun o => ! mine o }
      .next (({ s with atoms := s.atoms.del req }).updCtx (.ctx c) done)
    | _, _ => .next s

/-- BANK_COMMAND_PERFORM (R111): the next access of the n-th queued command of a core, no earlier one on the same rows before it. -/
def execBankCommandPerform (core n : Nat) (s : State) : Host.Outcome State Fault Refusal :=
  let k := s.coreOf core
  match k.cmds[n]? with
  | none => .next s
  | some q =>
    if (k.cmds.take n).any fun p => p.cmd.rows.any fun r => q.cmd.rows.contains r then .next s else
    let r := (s.setCore core { k with cmds := q :: k.cmds.eraseIdx n }).performNext core
    .next (r.1.send r.2)

/-- STREAM_ELEMENT_FETCH (R96): one more element ahead; a fetch that fails or waits is left to the read. -/
def execStreamElementFetch (c : CtxId) (n : Nat) (s : State) : Host.Outcome State Fault Refusal :=
  match s.ctxs.get (.ctx c) with
  | none => .next s
  | some x =>
    match x.st.toList[n]? with
    | some (some st) =>
      (match ({ s with cur := .ctx c, pairView := none }).streamAt x st (st.pos + st.ahead.length) true with
       | .ok (s', some e) =>
         .next ({ s' with cur := s.cur, pairView := s.pairView }.updCtx (.ctx c) fun z =>
           z.writeS (BitVec.ofNat 3 n) (some { st with ahead := st.ahead ++ [e] }))
       | _ => .next s)
    | _ => .next s

/-! ## Imprecise causes (R242, R249, R250) -/

/-- Is a frame at work: started, not killed, not suspended, not being saved (R39, R68)? -/
def State.frameRuns (s : State) (core frm : Nat) : Bool :=
  match s.frames.get (core, frm) with
  | some f => f.started && f.killed.isNone && f.trappedBy.isNone && ! s.saving (core, frm)
  | none => false

/-- IMPRECISE_DELIVERY (R242). -/
def execImpreciseDelivery (c : CtxId) (s : State) : Host.Outcome State Fault Refusal :=
  match s.ctxs.get (.ctx c) with
  | none => .next s
  | some x => .next (if x.deliverable && ! x.ended && s.frameRuns c.core c.frm then s.deliverPending c else s)

/-- CAUSE_ARRIVAL (R242): a cause on its way to the context arrives; a watchpoint's report with its SKID so far (R250). -/
def execCauseArrival (c : CtxId) (p : PendCause) (s : State) : Host.Outcome State Fault Refusal :=
  match s.ctxs.get (.ctx c) with
  | none => .next s
  | some x =>
    match takeFirst (fun (q : PendCause × Nat) => q.1 == p) x.coming with
    | none => .next s
    | some (q, rest) =>
      .next ((s.setCtx (.ctx c) { x with coming := rest }).send [(c, x.arriving q)])

/-! ## Timed waits (R360, R385, R414) -/

/-- IDLE_TIMEOUT (R360): the IDLE at the context's pc writes 0 to its destination. -/
def execIdleTimeout (c : CtxId) (s : State) : Host.Outcome State Fault Refusal :=
  match s.ctxs.get (.ctx c) with
  | none => .next s
  | some x =>
    match x.wait with
    | .idle (some t) =>
      if s.clock < t ∨ ! x.pend.isEmpty then .next s else
      let dst := match parse (slotWord (s.line (.ctx c) (pcLine x.pc)) (pcSlot x.pc)) with
        | some (.idle f) => f.dst
        | _ => .g 0
      .next (s.setCtx (.ctx c) ((x.writeW dst 0).pass (.scalar 0)))
    | _ => .next s

/-- RALLY_TIMEOUT (R385). -/
def execRallyTimeout (c : CtxId) (s : State) : Host.Outcome State Fault Refusal :=
  match s.ctxs.get (.ctx c) with
  | none => .next s
  | some x =>
    match x.wait with
    | .rally (some t) => .next (if s.clock < t then s else s.setCtx (.ctx c) (x.pass .none))
    | _ => .next s

/-- YIELD_WAIT_END (R414). -/
def execYieldWaitEnd (c : CtxId) (s : State) : Host.Outcome State Fault Refusal :=
  match s.ctxs.get (.ctx c) with
  | none => .next s
  | some x =>
    match x.wait with
    | .yield t => .next (if s.clock < t then s else s.setCtx (.ctx c) { x with wait := .none })
    | _ => .next s

/-! ## Lease extensions and walks (R53, R94, R370) -/

/-- LEASE_EXTENSION_PINNED (R370): the entry joins the lease, the handle completes, and a bound arrival is delivered with its word. -/
def execLeaseExtensionPinned (n : Nat) (s : State) : Host.Outcome State Fault Refusal :=
  match s.leaseExts.get n with
  | none => .next s
  | some e =>
    match s.jobs.get e.job with
    | none => .next s
    | some j =>
      match s.pinRange e.entry.sid e.entry.obj e.entry.off e.entry.len with
      | none => .next s
      | some s =>
        let id := Card.leaseCnt j.card + j.extNo
        let s := s.updJob e.job fun j => { j with extNo := j.extNo + 1, lease := j.lease ++ [{ e.entry with id := id }] }
        let s := ({ s with leaseExts := s.leaseExts.del n }).finishOp e.op (okWord id)
        .next (match e.key with
          | none => s
          | some k =>
            let a := s.ownArrival k
            let s := s.setBarrier k { s.barrier k with extWord := some (okWord id) }
            { s with arrivals := s.arrivals ++ [a] })

/-- Is the slab of an object being migrated? -/
def State.slabMigrating (s : State) (sid obj slab : Nat) : Bool :=
  s.migrations.any fun (m : Nat × Migration) => m.2.sid == sid && m.2.obj == obj && m.2.slab == slab

/-- The reply of a walk at a router's record (R94): the port of each core that it marks has the object's entry. -/
def State.replyPorts (s : State) (w : Walk) : State :=
  if 24 ≤ w.router || ! (s.spaces.get w.sid).any fun sp => sp.gen == w.gen then s else
  s.landed (w.ports.foldl (fun s p => { s with via := some p }.cacheEntry w.sid w.obj) s)

/-- TRANSLATION_WALK_REPLY (R94): every marked port has the entry, and the record is freed; it waits out a migration. -/
def execTranslationWalkReply (n : Nat) (s : State) : Host.Outcome State Fault Refusal :=
  match s.walks[n]? with
  | none => .next s
  | some w => .next (if s.slabMigrating w.sid w.obj w.slab then s else { s.replyPorts w with walks := s.walks.eraseIdx n })

/-! ## Slabs (R233 to R235) -/

/-- A slab's place, by its first byte. -/
def State.slabPlace (s : State) (sid obj slab : Nat) : Option Place := s.place sid obj (slab * 65536)

/-- Has a slab been unaccessed for the idle time, by a request whose extent entry stands or was evicted (R233)? A microsecond has `mhz` cycles (R268). -/
def State.slabIdle (s : State) (sid obj slab : Nat) : Bool :=
  let t := s.boot.coldIdle.toNat * s.boot.mhz
  s.boot.coldIdle != 0 && decide (t ≤ s.clock) &&
    decide ((s.lastUse.get (sid, obj, slab)).getD 0 + t ≤ s.clock) &&
    s.extents.all fun e => ! (e.sid == sid && e.obj == obj && e.slab == slab) || decide (e.last + t ≤ s.clock)

/-- Is a byte of a physical slab uncorrectable? -/
def State.slabBad (s : State) (key : Nat) : Bool :=
  s.bad.any (fun b => decide (key ≤ b) && decide (b < key + 65536)) ||
  s.badLine.any fun e => decide (key ≤ 8 * e.1) && decide (8 * e.1 < key + 65536)

/-- SLAB_COMPRESS (R233): the image takes the slab's own place, and the pages beyond it are lent to the pool; one of 48 KiB or more leaves the slab hot, and so does an uncorrectable
byte, which no code represents. -/
def execSlabCompress (sid obj slab : Nat) (s : State) : Host.Outcome State Fault Refusal :=
  match s.objEntry sid obj, s.slabPlace sid obj slab with
  | some e, some p =>
    if ! s.feature 7 || ! e.compressible || e.cls == 2 || p.state != 0 || p.pin || ! s.slabIdle sid obj slab then .next s else
    let key := poolKey p.pool p.pslab 0
    let img := slabImage (memRead s.mem key 65536) (s.slabTags key)
    if 49152 ≤ img.length ∨ s.slabBad key then .next s else
    let s := { s.dropLines key with mem := memWrite s.mem key img }
    let s := (s.putSlabTags key (List.replicate 4096 false)).putExtent p p.pslab false 1 p.pin
    .next (s.lend p.pool (s.sparePages key))
  | _, _ => .next s

/-- Does an access on its way touch the slab (R234)? -/
def State.slabWanted (s : State) (sid : Nat) (p : Place) : Bool :=
  let held := s.ctxs.flatMap fun (q : Agent × Ctx) => q.2.held.flatMap fun h => h.parts.map fun r => (r.1, r.2.length)
  (s.waitingReads ++ held).any fun r => match r.1 with
    | .dev k obj off => k == sid && (granuleStarts off r.2).any fun o => match s.place k obj o with
      | some q => q.extAddr == p.extAddr
      | none => false
    | .scr .. => false

/-- SLAB_DECODE (R234): a cold slab that an access waits for is decoded once the pool has room. -/
def execSlabDecode (sid obj slab : Nat) (s : State) : Host.Outcome State Fault Refusal :=
  match s.slabPlace sid obj slab with
  | some p =>
    if p.state = 1 ∧ s.slabWanted sid p then
      match s.decodeSlab p with
      | some s => .next s
      | none => .next s
    else .next s
  | none => .next s

/-- A physical slab's bytes, tags and uncorrectable marks moved to another. -/
def State.moveSlab (s : State) (src dst : Nat) : State :=
  let here (b : Nat) : Bool := decide (src ≤ b) && decide (b < src + 65536)
  let there (b : Nat) : Bool := decide (dst ≤ b) && decide (b < dst + 65536)
  let s := { s with mem := memWrite s.mem dst (memRead s.mem src 65536),
                    bad := ((s.bad.filter here).map fun b => b - src + dst).foldl insertNat (s.bad.filter fun b => ! here b && ! there b),
                    badLine := (s.badLine.filter fun (e : Nat × Nat × Nat) => ! there (8 * e.1)).map fun (e : Nat × Nat × Nat) =>
                      if here (8 * e.1) then (e.1 - src / 8 + dst / 8, e.2) else e }
  s.putSlabTags dst (s.slabTags src)

/-- MIGRATION_COPY_COMPLETE (R235, R413): the copy lies in the target slice's pool; the slab's entry names it, EPOCH advances, and STATE
is what it was. It waits while that pool is full. -/
def execMigrationCopyComplete (n : Nat) (s : State) : Host.Outcome State Fault Refusal :=
  match s.migrations.get n with
  | none => .next s
  | some m =>
    match s.slabPlace m.sid m.obj m.slab with
    | none => .next { s with migrations := s.migrations.del n }
    | some p =>
      match s.takeSlab (1 + m.target) with
      | none => .next s
      | some (q, s) =>
        let src := poolKey p.pool p.pslab 0
        let lent := if m.was = 1 then s.sparePages src else 0
        let s := (s.moveSlab src (poolKey (1 + m.target) q 0)).evict fun e => e.sid == m.sid && e.obj == m.obj && e.slab == m.slab
        let s := (((s.putExtent p q true m.was p.pin).freeSlab p.pool p.pslab).unlend p.pool lent).lend (1 + m.target) lent
        .next { s with migrations := s.migrations.del n, slabHome := s.slabHome.set (m.sid, m.obj, m.slab) m.target }

/-! ## Refresh (R236) -/

/-- A bank's next subarray, and whether its refresh is running. -/
def State.bankRefresh (s : State) (channel bank : Nat) : Nat × Bool := (s.refresh.get (channel, bank)).getD (0, false)

/-- REFRESH_SUBARRAY_START (R236): it changes no value. -/
def execRefreshSubarrayStart (channel bank : Nat) (s : State) : Host.Outcome State Fault Refusal :=
  let r := s.bankRefresh channel bank
  .next (if r.2 then s else { s with refresh := s.refresh.set (channel, bank) (r.1, true) })

/-- REFRESH_SUBARRAY_END (R236): the next refresh of the bank is of the following subarray. -/
def execRefreshSubarrayEnd (channel bank : Nat) (s : State) : Host.Outcome State Fault Refusal :=
  let r := s.bankRefresh channel bank
  .next (if r.2 then { s with refresh := s.refresh.set (channel, bank) ((r.1 + 1) % 64, false) } else s)

end Sys2Proof.Machine
end

