-- ==== Sys2Proof/Machine/Handler.lean ====
section
/-! DEFINITION. Waystation handlers, launch pages and the reduction engines (spec/13_near_memory.md R222 to R232). An event that is
not enabled changes nothing (DESIGN CHOICE, LOG 20). -/

namespace Sys2Proof.Machine

/-! ## Handler runs (R222 to R226) -/

/-- A handler-table entry (R222): its line and capability, when VALID. -/
def State.handlerEntry (s : State) (sid h : Nat) : Option (Nat × Cap) :=
  match s.spaces.get sid with
  | none => none
  | some sp =>
    let a := sp.hdlTab + 32 * h
    let b := memRead s.mem a 32
    if leAt b 1 1 % 2 = 1 then some (leAt b 0 1, capOf (b.drop 16) (s.tags.contains ((a + 16) / 16))) else none

/-- The registers of a run as it starts (R223). -/
def startRun (t : Trigger) (slice line : Nat) (cap : Cap) (space : Word) : Ctx :=
  { Ctx.blank with
    pc := pcOf 0 line,
    g := Vector.ofFn fun i => match i.val with
      | 1 => t.off | 2 => t.g2 | 3 => t.g3 | 4 => t.g4 | 5 => BitVec.ofNat 64 slice | _ => 0,
    b := Vector.ofFn fun i => if i.val = 1 then t.b1 else if i.val = 2 then cap else 0,
    gdem := 16, vdem := 0, adem := 0, space := space, fresh := true }

/-- A chain with no live run is at its end: its handle completes (R226). A launch's ends with LAUNCH_COMPLETE's count (R229). -/
def State.settleChain (s : State) (n : Nat) : State :=
  match s.chains.get n with
  | none => s
  | some ch =>
    if ch.live ≠ 0 then s else
    let s := { s with chains := s.chains.del n }
    match ch.op with
    | some op => s.finishOp op (ch.word.getD (okWord (ch.g1.extractLsb' 0 56).toNat))
    | none => s

/-- A run of a chain has ended, or never began: the first fault of a launch is its cause. -/
def State.runEnded (s : State) (n : Nat) (g1 : Option Word) : State :=
  match s.chains.get n with
  | none => s
  | some ch =>
    let ch := { ch with live := ch.live - 1, g1 := g1.getD ch.g1 }
    let s := { s with chains := s.chains.set n ch }
    let s := match ch.page, ch.word with
      | some p, some w => (match s.pages.get p with
        | some x => { s with pages := s.pages.set p { x with fault := x.fault.or (some ((w.extractLsb' 56 7).zeroExtend 8)) } }
        | none => s)
      | _, _ => s
    s.settleChain n

/-- HANDLER_RUN_START (R223, R224): an idle waystation takes its first trigger; an entry that is not VALID runs nothing and gives 0x01. -/
def execHandlerRunStart (slice : Nat) (s : State) : Host.Outcome State Fault Refusal :=
  match s.runs.get slice, (s.trigq.get slice).getD [] with
  | none, t :: ts =>
    let s := { s with trigq := s.trigq.set slice ts }
    (match s.chains.get t.chain with
     | none => .next s
     | some ch =>
       match s.handlerEntry (spaceSid ch.space) t.h with
       | none =>
         let ch' := { ch with word := ch.word.or (some (faultWord 0x01 0)) }
         .next ({ s with chains := s.chains.set t.chain ch' }.runEnded t.chain none)
       | some (line, cap) =>
         .next ({ s with runs := s.runs.set slice { trig := t, count := 0, work := 0 } }.setCtx (.handler slice)
           (startRun t slice line cap ch.space)))
  | _, _ => .next s

/-- HANDLER_RUN_END (R225, R226). -/
def execHandlerRunEnd (slice : Nat) (s : State) : Host.Outcome State Fault Refusal :=
  match s.runs.get slice, s.ctxs.get (.handler slice) with
  | some r, some x =>
    if ! x.ended then .next s else
    let s := { s with runs := s.runs.del slice, ctxs := s.ctxs.del (.handler slice) }
    .next (s.runEnded r.trig.chain (if r.trig.first then some (x.readG 1) else none))
  | _, _ => .next s

/-! ## Launch pages (R228, R229) -/

/-- LAUNCH_NOTIFY (R229): handler 0 starts on each slice that SEL named when the performed store set BUSY, with the ARGP of that time. -/
def execLaunchNotify (page : Nat) (v : BitVec 64) (rel : Bool) (s : State) : Host.Outcome State Fault Refusal :=
  match s.notes.find? fun n => n.1 == page && n.2.1 == v && n.2.2.1 == rel with
  | none => .next s
  | some n =>
    let s := { s with notes := s.notes.erase n }
    match s.pages.get page with
    | none => .next s
    | some p =>
      let slices := ((List.range 20).filter fun j => n.2.2.2.2.getLsbD j).map fun j => 20 * (page / 8) + j
      let space := spaceOf p.sid (match s.spaces.get p.sid with | some sp => sp.gen | none => 0)
      .next (slices.foldl (fun s k =>
        let m := s.nextId
        let ch : Chain := { op := none, page := some page, space := space, job := none, started := 1, live := 1, word := none, g1 := 0 }
        let t : Trigger := { chain := m, first := true, h := 0, off := 0, g2 := v, g3 := n.2.2.2.1, g4 := 0, b1 := p.cap }
        ({ s with nextId := m + 1, chains := s.chains.set m ch }).trigger k t) s)

/-- LAUNCH_COMPLETE (R229): every run of the launch has ended. -/
def execLaunchComplete (page : Nat) (s : State) : Host.Outcome State Fault Refusal :=
  match s.pages.get page with
  | none => .next s
  | some p =>
    if ! p.busy ∨ (s.chains.any fun (c : Nat × Chain) => c.2.page == some page) ∨ (s.notes.any fun n => n.1 == page) then .next s else
    .next { s with pages := s.pages.set page { p with lstat := lstatOf p.fault false (p.done + 1) } }

/-! ## The reduction engine (R230 to R232) -/

/-- A parameter block (R230). -/
structure RedBlock where
  src : Cap
  dst : Cap
  soff : Nat
  doff : Nat
  foff : Nat
  ctl : Nat
  stride : Nat
  len : Nat
  tag : Nat
  high : Nat

/-- The block at an offset of an object, with its granules' tags. -/
def State.redBlock (s : State) (sid obj off : Nat) : RedBlock :=
  let b := s.devRead sid obj off 64
  { src := s.capRead sid obj off, dst := s.capRead sid obj (off + 16), soff := leAt b 32 5, doff := leAt b 37 5, foff := leAt b 42 5,
    ctl := leAt b 47 1, stride := leAt b 48 4, len := leAt b 52 4, tag := leAt b 56 7, high := leAt b 63 1 }

def RedBlock.vec (b : RedBlock) (i : Nat) : Nat := b.soff + i * b.stride
def RedBlock.climb (b : RedBlock) : Bool := b.ctl % 2 == 1

/-- Is an object derived, an alias of one included (R143)? -/
def State.derivedObj (s : State) (sid obj off : Nat) : Bool :=
  match s.place sid obj off with
  | some p => (s.objEntry sid p.obj).any (·.derived)
  | none => false

/-- Does an object belong to a launch page, which takes no engine's access (R228)? -/
def State.onPage (s : State) (sid : Nat) (c : Cap) : Bool := (s.pageAt sid (CapF.obj c)).isSome

/-- R232's checks, in order; then R228's of a launch page. CTL's reserved bits are ignored (R6). -/
def State.redCause (s : State) (space : Word) (b : RedBlock) : Option Cause :=
  let sid := spaceSid space
  let vecs := (List.range 8).map b.vec
  let chk (c : Cap) (off n : Nat) : Option Cause := s.capCause space c off n {} 1 true
  let out (o : Option Cause) : Bool := o == some 0x11
  if b.high ≠ 0 ∨ b.len % 64 ≠ 0 ∨ b.len < 64 ∨ 2 ^ 24 < b.len ∨ b.stride % 64 ≠ 0 ∨ b.doff % 64 ≠ 0 ∨ b.foff % 8 ≠ 0 ∨
      (b.climb ∧ ! s.feature 6) then some 0x02
  else if chk b.src (b.vec 0) b.len = some 0x10 ∨ chk b.dst b.foff 8 = some 0x10 then some 0x10
  else if vecs.any (fun o => out (chk b.src o b.len)) || out (chk b.dst b.doff b.len) || out (chk b.dst b.foff 8) then some 0x11
  else if ! CapF.r b.src || ! CapF.w b.dst then some 0x12
  else if s.onPage sid b.src || s.onPage sid b.dst then some 0x15
  else if s.derivedObj sid (CapF.obj b.dst) b.foff || s.derivedObj sid (CapF.obj b.dst) b.doff then some 0x29
  else none

/-- Can the flag be written at FOFF (R232)? -/
def State.flagOk (s : State) (space : Word) (b : RedBlock) : Bool :=
  b.foff % 8 == 0 && (s.capCause space b.dst b.foff 8 { w := true } 8).isNone && ! s.derivedObj (spaceSid space) (CapF.obj b.dst) b.foff

/-- A stack's engine touches a range: the state after, none while it waits. -/
def State.redTouch (s : State) (stack sid : Nat) (c : Cap) (off n : Nat) (isRead : Bool) : Option State :=
  s.devTouch (agentPort (.handler (20 * stack))) sid (CapF.obj c) off n isRead

/-- An engine write of a reduction. -/
def State.redWrite (s : State) (sid : Nat) (c : Cap) (off : Nat) (bs : List Byte) : State :=
  let t : Target := .dev sid (CapF.obj c) off
  (State.putUnits (bs.length + 1) (s.toWrite t bs.length) t bs).1

/-- A request whose flag is to be written next, at the head of its engine's queue (R232): `result` is what it has written already. -/
def State.redEnd (s : State) (stack : Nat) (r : RedReq) (dst : Cap) (foff : Nat) (result : List (Target × Nat)) (flag word : Word) :
    State :=
  let t : Target := .dev (spaceSid r.space) (CapF.obj dst) foff
  let e : RedEnd := { flagAt := t, flag := flag, word := word, written := result ++ [(t, 8)] }
  { s with redq := s.redq.set stack ({ r with done := some e } :: (s.redq.get stack).getD []) }

/-- One rounded F32 sum (R231). -/
def addF32 (a b : Nat) : Nat := (FFmt.f32.round .rne false (sumNum .rne [c32 a, c32 b])).1

/-- The engine's sum of element e (R231). -/
def redSum (v : List Nat) : Nat :=
  let x (i : Nat) : Nat := v.getD i 0
  addF32 (addF32 (addF32 (x 0) (x 1)) (addF32 (x 2) (x 3))) (addF32 (addF32 (x 4) (x 5)) (addF32 (x 6) (x 7)))

/-- The eight vectors summed. -/
def State.redOut (s : State) (sid : Nat) (b : RedBlock) : List (BitVec 32) :=
  let vs := (List.range 8).map fun i => lanesOf 32 (b.len / 4) (leNat (s.devRead sid (CapF.obj b.src) (b.vec i) b.len))
  (List.range (b.len / 4)).map fun e => BitVec.ofNat 32 (redSum (vs.map fun v => v.getD e 0))

def vecBytes (v : List (BitVec 32)) : List Byte := v.flatMap fun x => bytesOf 4 x.toNat

/-- The first of ranges of a capability's object that lies outside the task's lease (R52). -/
def State.redLease (s : State) (r : RedReq) (c : Cap) (w : Bool) (ps : List (Nat × Nat)) : Option Nat :=
  ps.findSome? fun p => if s.leased (some r.job) (spaceSid r.space) (CapF.obj c) p.1 p.2 w false then none else some p.1

/-- Ranges of a capability's object touched; none while one must wait. -/
def State.redTouches (s : State) (stack sid : Nat) (c : Cap) (isRead : Bool) (ps : List (Nat × Nat)) : Option State :=
  ps.foldl (fun (o : Option State) p => o.bind fun s => s.redTouch stack sid c p.1 p.2 isRead) (some s)

/-- An access outside the lease (R52): the operation completes with 0x13, then the task is killed. -/
def State.redLost (s : State) (r : RedReq) (off : Nat) : State :=
  match s.ops.get r.op with
  | some o => (s.finishOp r.op (faultWord 0x13 0)).kill o.who.core o.who.frm ⟨0x13, ctxNo o.who.kind, BitVec.ofNat 64 off, o.pc⟩
  | none => s

/-- The word of a success's handle, and of its flag (R232). -/
def redOk (b : RedBlock) : Word := okWord (b.len / 4)

/-- The flag of a request written (R232): its operation is one write, which marks once and before its flag and its handle show it (R140,
R141), its result too where the flag lies outside the lease. None while it waits. -/
def State.redFlag (s : State) (stack : Nat) (r : RedReq) (e : RedEnd) : Option State :=
  let ws := devRanges e.written
  if s.markHeld ws then none else
  match e.flagAt with
  | .dev sid obj off =>
    if ! s.leased (some r.job) sid obj off 8 true false then some ((s.markStep (devRanges e.written.dropLast)).redLost r off) else
    (s.touch (agentPort (.handler (20 * stack))) e.flagAt 8 false).map fun s =>
      let s := ((s.markStep ws).noteWin r.op e.written).toWrite e.flagAt 8
      (State.putUnits 9 s e.flagAt (bytesOf 8 e.flag.toNat)).1.finishOp r.op e.word
  | .scr .. => some (s.finishOp r.op e.word)

/-- A result written at its homes (R231); its flag is to follow. None: it waits. -/
def State.redResult (s : State) (stack : Nat) (r : RedReq) (dst : Cap) (doff foff : Nat) (out : List (BitVec 32)) (flag word : Word) :
    Option State :=
  let sid := spaceSid r.space
  let n := 4 * out.length
  match s.redLease r dst true [(doff, n)] with
  | some off => some (s.redLost r off)
  | none => (s.redTouch stack sid dst doff n false).map fun s =>
      (s.redWrite sid dst doff (vecBytes out)).redEnd stack r dst foff [(.dev sid (CapF.obj dst) doff, n)] flag word

/-- A stack's engine begins a block (R231, R232). None: it waits. -/
def State.redBlockStart (s : State) (stack : Nat) (r : RedReq) (rest : List RedReq) : Option State := do
  let sid := spaceSid r.space
  let s1 ← s.redTouch stack sid r.cap r.off 64 true
  let s1 := { s1 with redq := s1.redq.set stack rest }
  match s1.redLease r r.cap false [(r.off, 64)] with
  | some off => some (s1.redLost r off)
  | none =>
  if s1.readBad sid (CapF.obj r.cap) r.off 64 then
    some ((s1.unc (.dev sid (CapF.obj r.cap) r.off) 64).1.finishOp r.op (faultWord 0x41 0))
  else
  let b := s1.redBlock sid (CapF.obj r.cap) r.off
  match s1.redCause r.space b with
  | some c =>
    if s1.flagOk r.space b && (s1.redLease r b.dst true [(b.foff, 8)]).isNone then
      some (s1.redEnd stack r b.dst b.foff [] (faultWord c b.tag) (faultWord c b.tag))
    else some (s1.finishOp r.op (faultWord c b.tag))
  | none =>
  let vecs := (List.range 8).map fun i => (b.vec i, b.len)
  match s1.redLease r b.src false vecs with
  | some off => some (s1.redLost r off)
  | none =>
  let s2 ← s1.redTouches stack sid b.src true vecs
  match vecs.find? fun p => s2.readBad sid (CapF.obj b.src) p.1 p.2 with
  | some p => some ((s2.unc (.dev sid (CapF.obj b.src) p.1) p.2).1.redEnd stack r b.dst b.foff [] (faultWord 0x41 b.tag) (faultWord 0x41 b.tag))
  | none =>
  let out := s2.redOut sid b
  if ! b.climb then s2.redResult stack r b.dst b.doff b.foff out (okWord b.tag) (redOk b)
  else
    let c : Climb := { node := stack / 2, since := s2.clock, tag := BitVec.ofNat 56 b.tag, data := out, left := stack % 2 == 0,
                       stack0 := stack == 0, req := r, dst := b.dst, doff := b.doff, foff := b.foff }
    let s3 := { s2 with climbs := s2.climbs ++ [c] }
    some (if stack = 0 then s3 else s3.redEnd stack r b.dst b.foff [] (okWord b.tag) (redOk b))

/-- REDUCTION_BLOCK_START (R231, R232): the engine's next block begins, or the flag of the one at its end is written. The result's homes
show it before the flag does. -/
def execReductionBlockStart (stack : Nat) (s : State) : Host.Outcome State Fault Refusal :=
  match (s.redq.get stack).getD [] with
  | [] => .next s
  | r :: rest =>
    match r.done with
    | some e => .next ((({ s with redq := s.redq.set stack rest }).redFlag stack r e).getD s)
    | none => .next ((s.redBlockStart stack r rest).getD s)

/-- The node above a node, and whether its vectors come from the left there (R14, R231). -/
def nodeUp (n : Nat) : Nat × Bool := if n < 4 then (4 + n / 2, n % 2 == 0) else (6, n == 4)

/-- The first vector at a node, in arrival order, that has a partner of equal TAG there: both, the left one first (R231). -/
def State.climbPair (s : State) (node : Nat) : Option (Climb × Climb) :=
  s.climbs.findSome? fun a =>
    if a.node ≠ node then none else
    (s.climbs.find? fun b => b.node == node && b.left != a.left && b.tag == a.tag).map fun b => if a.left then (a, b) else (b, a)

/-- Two vectors added. Vectors of unequal LEN break R231's rule for programs: an element that one lacks is a free value (DESIGN CHOICE, LOG 11). -/
def addVecs (tick : Nat) (a b : List (BitVec 32)) : List (BitVec 32) :=
  let free (i : Nat) : BitVec 32 := (Config.freeValue (tick * 2 ^ 48 + 2 ^ 45 + i)).extractLsb' 0 32
  (List.range a.length).map fun i => BitVec.ofNat 32 (addF32 (a.getD i (free i)).toNat (b.getD i (free i)).toNat)

/-- REDUCTION_CLIMB_PAIR (R231): the sum climbs on, or at the root is stack 0's result. -/
def execReductionClimbPair (node : Nat) (s : State) : Host.Outcome State Fault Refusal :=
  match s.climbPair node with
  | none => .next s
  | some (a, b) =>
    let s1 := { s with climbs := (s.climbs.erase a).erase b }
    let sum := addVecs s.freeTick a.data b.data
    if node ≠ 6 then
      let c : Climb := { a with node := (nodeUp node).1, left := (nodeUp node).2, since := s.clock, data := sum }
      .next { s1 with climbs := s1.climbs ++ [c] }
    else .next ((s1.redResult 0 a.req a.dst a.doff a.foff sum (okWord a.tag.toNat) (okWord sum.length)).getD s)

/-- REDUCTION_CLIMB_DISCARD (R231): 1 ms without a partner. Stack 0's engine then reports 0x30. -/
def execReductionClimbDiscard (node : Nat) (s : State) : Host.Outcome State Fault Refusal :=
  if (s.climbPair node).isSome then .next s else
  match s.climbs.find? fun c => c.node == node && decide (c.since + 1000 * s.boot.mhz ≤ s.clock) with
  | none => .next s
  | some c =>
    let s1 := { s with climbs := s.climbs.erase c }
    if ! c.stack0 then .next s1 else
    .next (s1.redEnd 0 c.req c.dst c.foff [] (faultWord 0x30 c.tag.toNat) (faultWord 0x30 c.tag.toNat))

end Sys2Proof.Machine
end

