-- ==== Sys2Proof/Machine/Reply.lean ====
section
/-! DEFINITION. Control messages and their replies (spec/15_host_pod.md R257, R258, R417, R418). -/

namespace Sys2Proof.Machine

/-- A field of a message: n bytes from a byte. -/
def msgAt (m : List Byte) (i n : Nat) : Nat := leAt m i n
def msgKind (m : List Byte) : Nat := leAt m 0 1
def msgReply (m : List Byte) : Bool := leAt m 2 1 % 2 == 1
def msgTag (m : List Byte) : Nat := leAt m 4 4

/-- The message that a page's queue offers next (R257). -/
def State.pageHead (s : State) (page : Nat) : Option (List Byte) := (s.mail.get page).bind fun m => m.queue.head?

/-- The control message of a kind at the head of a page's queue; none before the lock (R262). -/
def State.ctrlMsg (s : State) (page kind : Nat) : Option (List Byte) :=
  match s.boot.locked, s.pageHead page with
  | true, some m => if isControl m && msgKind m == kind then some m else none
  | _, _ => none

/-- The page's first message leaves its queue. -/
def State.popPage (s : State) (page : Nat) : State :=
  match s.mail.get page with
  | some m => { s with mail := s.mail.set page { m with queue := m.queue.drop 1 } }
  | none => s

/-- The space id that a message's payload names (R417). -/
def msgSid (m : List Byte) : Option Nat :=
  match msgKind m with
  | 0x01 | 0x02 | 0x04 | 0x05 | 0x07 | 0x08 | 0x0B => some (leAt m 8 2 % 4096)
  | 0x03 | 0x06 => some (leAt m 10 2 % 4096)
  | 0x09 => some (leAt m 12 2 % 4096)
  | _ => none

/-- The space on whose outbound page a reply goes (R418), once the message has been performed. -/
def State.replySid (s : State) (page : Nat) (m : List Byte) : Option Nat :=
  match (s.mail.get page).bind (·.sid) with
  | some sid => some sid
  | none => (msgSid m).bind fun sid => if (s.spaces.get sid).isSome then some sid else none

/-- A message has been performed, or is refused with a cause (R258, R418): it leaves its queue, and is answered where it asks for that or was
refused. -/
def State.ctrlDone (s : State) (page : Nat) (status : Cause) (value : Nat) : State :=
  match s.pageHead page with
  | none => s
  | some m =>
    let s := s.popPage page
    if ! msgReply m && status == 0 then s else
    let v := value % 2 ^ 64
    let body : BitVec 256 := BitVec.ofNat 256 (msgTag m + status.toNat * 2 ^ 32 + v * 2 ^ 64)
    let reg : BitVec 128 := BitVec.ofNat 128 (msgTag m + status.toNat * 2 ^ 32 + msgKind m * 2 ^ 40 + 2 ^ 48 + v * 2 ^ 64)
    let s := match s.replySid page m with
      | some sid => s.outbound sid 3 body
      | none => s
    { s with boot := { s.boot with replies := s.boot.replies.set page reg } }

end Sys2Proof.Machine
end

