-- ==== Sys2Proof/Machine/SaveArea.lean ====
section
/-! DEFINITION. The save area (spec/14_faults.md R253, R254; spec/09_numbers.md R156, R161; spec/12_sync.md R209; spec/22_ref_a_b.md R315;
spec/25_ref_n_s.md R384): what a pre-emption writes into it, and what a restore reads from it. Where R253 names the contents of a part but not
the places of its bits, they are the device's own coding (DESIGN CHOICE, LOG 11). A part whose bytes stand as the save left them restores what
was saved. -/

namespace Sys2Proof.Machine

/-- Bytes put into an area. -/
def State.putArea (s : State) (t : Target) (off : Nat) (bs : List Byte) : State := (s.mend (t.plus off) bs.length).put (t.plus off) bs

/-- A capability put into an area with its tag. -/
def State.putAreaCap (s : State) (t : Target) (off : Nat) (c : Cap) : State :=
  match t.plus off with
  | .dev sid obj o => s.capWrite sid obj o c
  | .scr .. => s

/-- A capability read from an area, with its granule's tag (R253, R254). -/
def State.areaCap (s : State) (t : Target) (off : Nat) : Cap :=
  match t.plus off with
  | .dev sid obj o => s.capRead sid obj o
  | .scr .. => 0

/-- Words, little-endian, eight bytes each. -/
def wordBytes (ws : List Word) : List Byte := ws.flatMap fun w => bytesOf 8 w.toNat

/-! ## Context blocks -/

/-- The four pending-cause records of one context. -/
def pendBytes (ps : List PendCause) : List Byte :=
  (List.range 4).flatMap fun i => match ps[i]? with
    | some p => bytesOf 4 p.cause.toNat ++ bytesOf 4 p.einfo.toNat ++ bytesOf 8 p.eaddr.toNat
    | none => List.replicate 16 0

/-- The pending causes of a context in a header. -/
def headPend (bs : List Byte) (n : Nat) : List PendCause :=
  (List.range 4).filterMap fun i =>
    let o := 64 + 64 * n + 16 * i
    if leAt bs o 1 = 0 then none
    else some ⟨BitVec.ofNat 8 (leAt bs o 1), BitVec.ofNat 64 (leAt bs (o + 8) 8), BitVec.ofNat 32 (leAt bs (o + 4) 4)⟩

/-- A pd result's 128 bytes. -/
def pdBytes : PdEntry → List Byte
  | .none => List.replicate 128 0
  | .scalar w => bytesOf 128 w.toNat
  | .vector v => bytesOf 128 v.toNat

/-- A BARA record's 16 bytes: the id; in use, counted, released, broken; the phase. -/
def baraBytes (r : BaraRec) : List Byte :=
  bytesOf 2 r.key.id.toNat ++ bytesOf 2 (1 + 2 * r.phase.isSome.toNat + 4 * r.released.toNat + 8 * r.broken.toNat) ++
  bytesOf 12 (r.phase.getD 0).toNat

/-- The four BARA records of a context (R315). -/
def barasBytes (x : Ctx) : List Byte :=
  let rs := x.bara.filter (·.own)
  (List.range 4).flatMap fun i => match rs[i]? with | some r => baraBytes r | none => List.replicate 16 0

/-- The BARA records of a block, for a context of a space on a core. What became of a record's phase during the save is known of the saved
one (R316). -/
def readBaras (sid core : Nat) (x : Ctx) (bs : List Byte) : List BaraRec :=
  let rs := x.bara.filter (·.own)
  (x.bara.filter fun r => ! r.own) ++ (List.range 4).filterMap fun i =>
    let id : BitVec 16 := BitVec.ofNat 16 (leAt bs (16 * i) 2)
    let fl := leAt bs (16 * i + 2) 2
    let phase : Option (BitVec 16) := if fl / 2 % 2 = 1 then some (BitVec.ofNat 16 (leAt bs (16 * i + 4) 2)) else none
    if fl % 2 = 0 then none else
    match rs[i]? with
    | some r =>
      if r.key.id = id ∧ (phase = r.phase ∨ phase = none) then
        some { r with released := r.released || fl / 4 % 2 == 1, broken := r.broken || fl / 8 % 2 == 1 }
      else some ⟨objKey sid core id, phase, fl / 4 % 2 == 1, fl / 8 % 2 == 1, true, 0⟩
    | none => some ⟨objKey sid core id, phase, fl / 4 % 2 == 1, fl / 8 % 2 == 1, true, 0⟩

/-- The 32 bytes of a stream's source. -/
def StreamSrc.bytes : StreamSrc → List Byte
  | .strided d => bytesOf 32 d.toNat
  | .csr d => bytesOf 32 d.toNat
  | .rows base first rowsz => bytesOf 8 base ++ bytesOf 8 first ++ bytesOf 16 rowsz
  | .keys c lo => bytesOf 16 c.toNat ++ bytesOf 16 lo
  | .second c first rowsz k2col => bytesOf 16 c.toNat ++ bytesOf 4 first ++ bytesOf 4 rowsz ++ bytesOf 8 k2col

/-- The mode byte of a bound stream. -/
def StreamSrc.mode : StreamSrc → Nat | .strided _ => 0x80 | .csr _ => 0x81 | .rows .. => 0x82 | .keys .. => 0x83 | .second .. => 0x84

/-- A stream register's 64 bytes: descriptor copy, element index, flags, mode, element counts. -/
def streamBytes : Option Stream → List Byte
  | none => List.replicate 64 0
  | some st => st.src.bytes ++ bytesOf 8 st.pos ++ bytesOf 1 st.flags.toNat ++ bytesOf 1 st.src.mode ++ bytesOf 6 st.turn.toNat ++
      bytesOf 8 st.count ++ bytesOf 8 st.run

/-- One stream register saved: the capability of a joined stream as a tagged granule. -/
def State.putStreamArea (s : State) (t : Target) (off : Nat) (o : Option Stream) : State :=
  let s := s.putArea t off (streamBytes o)
  match o.map (fun st => st.src) with
  | some (StreamSrc.keys c _) => s.putAreaCap t off c
  | some (StreamSrc.second c _ _ _) => s.putAreaCap t off c
  | _ => s

/-- A stream register from its 64 bytes and the capability of its first granule. -/
def readStreamBytes (bs : List Byte) (cap : Cap) : Option Stream :=
  let mk (src : StreamSrc) : Option Stream :=
    some { src := src, count := leAt bs 48 8, run := leAt bs 56 8, pos := leAt bs 32 8, flags := BitVec.ofNat 3 (leAt bs 40 1), ahead := [],
           turn := leAt bs 42 1 % 2 == 1 }
  match leAt bs 41 1 with
  | 0x80 => mk (.strided (BitVec.ofNat 256 (leAt bs 0 32)))
  | 0x81 => mk (.csr (BitVec.ofNat 256 (leAt bs 0 32)))
  | 0x82 => mk (.rows (leAt bs 0 8) (leAt bs 8 8) (leAt bs 16 16))
  | 0x83 => mk (.keys cap (leAt bs 16 16))
  | 0x84 => mk (.second cap (leAt bs 16 4) (leAt bs 20 4) (leAt bs 24 8))
  | _ => none

/-- The state byte of an h register: empty, pending, complete. -/
def Handle.state : Handle → Nat | .empty => 0 | .complete .. => 2 | _ => 1

/-- What a pd register holds: no result, a scalar, a vector. -/
def PdEntry.code : PdEntry → Nat | .none => 0 | .scalar _ => 1 | .vector _ => 2

/-- A pd result from its 128 bytes and what the area says it is. -/
def readPdBytes (code : Nat) (bs : List Byte) : PdEntry :=
  if code = 2 then .vector (leVec bs)
  else if code = 1 ∨ (leNat bs ≠ 0 ∧ leNat bs < 2 ^ 64) then .scalar (leWord (bs.take 8))
  else if leNat bs = 0 then .none else .vector (leVec bs)

/-- An h register's 16 bytes: its state, the queued-operation record of its operation or 0xFF, its word; at h0 to h3 also what pd1 to pd4 hold. -/
def handleBytes (queue : List QItem) (h : Handle) (pd : PdEntry) : List Byte :=
  let rec_ := (queue.findIdx? fun q => match q with | .op n _ => h.holds n | .fence .. => false).getD 0xFF
  bytesOf 1 h.state ++ bytesOf 1 rec_ ++ bytesOf 6 pd.code ++ bytesOf 8 (match h.word with | some w => w.toNat | none => 0)

/-- An h register from its 16 bytes: a handle that was pending at the save completes by its own word (R73, R227). -/
def readHandleBytes (bs : List Byte) (h : Handle) : Handle :=
  match leAt bs 0 1 with
  | 0 => .empty
  | 2 => .complete (BitVec.ofNat 64 (leAt bs 8 8)) (match h with | .complete _ ops => ops | _ => [])
  | _ => match h with | .empty => .pending 0 | h => h

/-- One context block at an offset of an area. -/
def State.putCtxBlock (s : State) (t : Target) (off : Nat) (x : Ctx) (queue : List QItem) : State :=
  let gs := (List.range 64).map fun n => x.readG (BitVec.ofNat 6 n)
  let os := (List.range 8).map fun n => x.readO (BitVec.ofNat 3 n)
  let ks := (List.range 8).map fun n => x.readK (BitVec.ofNat 3 n)
  let s := s.putArea t off (wordBytes (gs ++ os ++ ks))
  let s := s.putArea t (off + 0x280) (wordBytes [(pcForm x.pc).zeroExtend 64, x.status, x.epc, x.ecause, x.eaddr, x.einfo, x.estatus, x.tvec])
  let s := s.putArea t (off + 0x2C0) (barasBytes x)
  let s := (List.range 16).foldl (fun s n => s.putAreaCap t (off + 0x300 + 16 * n) (x.readB (BitVec.ofNat 4 n))) s
  let s := s.putArea t (off + 0x400) ((List.range 16).flatMap fun n => handleBytes queue (x.readH (BitVec.ofNat 4 n)) (if n < 4 then x.pd.getD n .none else .none))
  let s := (x.st.toList.zipIdx).foldl (fun s p => s.putStreamArea t (off + 0x500 + 64 * p.2) p.1) s
  s.putArea t (off + 0x700) ((List.range 4).flatMap fun n => pdBytes (x.pd.getD n .none))

/-- STATUS as it can be read: its reserved bits are zero (R6, R358). -/
def statusBits : Word := 0xFFFF3FFF

/-- What a context block says over a context of a core (R253, R254); reserved bits of a register are ignored (R6). -/
def State.readCtxBlock (s : State) (t : Target) (off core : Nat) (x : Ctx) (pend : List PendCause) : Ctx :=
  let bs := s.bytesAt (t.plus off) 2304
  let w (i : Nat) : Word := BitVec.ofNat 64 (leAt bs i 8)
  let pd (n : Nat) : PdEntry := readPdBytes (leAt bs (0x402 + 16 * n) 1) ((bs.drop (0x700 + 128 * n)).take 128)
  let stream (n : Nat) : Option Stream := readStreamBytes ((bs.drop (0x500 + 64 * n)).take 64) (s.areaCap t (off + 0x500 + 64 * n))
  let pc : Pc := (w 0x280).extractLsb' 0 15
  { x with
    pc := pc, g := Vector.ofFn fun i => if i.val = 0 then 0 else w (8 * i.val), o := Vector.ofFn fun i => w (0x200 + 8 * i.val),
    k := Vector.ofFn fun i => if i.val = 0 then x.k[0] else w (0x240 + 8 * i.val),
    b := Vector.ofFn fun i => s.areaCap t (off + 0x300 + 16 * i.val),
    status := w 0x288 &&& statusBits, epc := w 0x290 &&& 0x7FFF, ecause := w 0x298 &&& 0x7F, eaddr := w 0x2A0,
    einfo := w 0x2A8 &&& 0xFFFFFFFF, estatus := w 0x2B0 &&& statusBits, tvec := w 0x2B8 &&& 0x3FFC0,
    bara := readBaras (spaceSid x.space) core x ((bs.drop 0x2C0).take 64),
    h := Vector.ofFn fun i => readHandleBytes ((bs.drop (0x400 + 16 * i.val)).take 16) x.h[i.val],
    st := Vector.ofFn fun i => stream i.val, pd := (List.range 4).map pd, pend := pend, early := [],
    fresh := false, wait := if pc = x.pc then x.wait else .none, xch := x.xch.map fun e => { e with restored := true } }

/-! ## The frame block -/

/-- The mutex lines that a frame's contexts hold: the line set, and each holder's CTX (R209). -/
def State.heldLines (s : State) (core frm : Nat) : Nat × Nat :=
  let k := s.clusterAt (clusterOf core)
  ((List.range 32).foldl (fun (acc : Nat × Nat) n => match (k.mutex n).holder with
    | some c => if c.core = core ∧ c.frm = frm then (acc.1 + 2 ^ n, acc.2 + ctxNo c.kind * 4 ^ n) else acc
    | none => acc) (0, 0))

/-- Whose the acquired slots of a buffer are, in order, as digits of base 3: a context's, a copy's, or published out of its turn. -/
def CircBuf.owners (b : CircBuf) : Nat :=
  b.acq.foldr (fun e n => 3 * n + (if e.2.2.2 then 2 else if e.2.1.isNone then 1 else 0)) 0

/-- A buffer's 16 bytes: descriptor, free, filled, positions, CLOSED, abandoned, list lengths, and the low 54 bits of its owners' digits; the
semaphore of its number holds the other 48 in bytes 1 to 6. -/
def CircBuf.bytes (b : CircBuf) : List Byte :=
  let owners := b.owners % 2 ^ 54 * 2 ^ 74
  bytesOf 16 (b.desc.toNat + b.free % 128 * 2 ^ 32 + b.filled % 128 * 2 ^ 39 + b.prodPos % 64 * 2 ^ 46 + b.consPos % 64 * 2 ^ 52 +
    b.closed.toNat * 2 ^ 58 + b.abandoned.toNat * 2 ^ 59 + b.acq.length % 128 * 2 ^ 60 + b.waited.length % 128 * 2 ^ 67 + owners)

/-- CTX codes (R29). -/
def ctxOfNo : Nat → CtxKind | 0 => .loader | 2 => .storer | _ => .computer

/-- A buffer from its 16 bytes and the 6 of its further owners: the acquired slots end at the producer position, and the waited ones at the
consumer position (R34). -/
def readBufBytes (bs : List Byte) (more : Nat) : CircBuf :=
  let x : BitVec 128 := BitVec.ofNat 128 (leAt bs 0 16)
  let f (i n : Nat) : Nat := (x.extractLsb' i n).toNat
  let desc : BitVec 32 := x.extractLsb' 0 32
  let slots := (desc.extractLsb' 21 6).toNat + 1
  let (filled, prod, cons, acq, waited) := (f 39 7, f 46 6, f 52 6, f 60 7, f 67 7)
  { desc := desc, free := f 32 7, filled := filled, prodPos := prod, consPos := cons,
    acq := (List.range acq).map fun i =>
      let owner := (f 74 54 + more * 2 ^ 54) / 3 ^ i % 3
      ((prod + slots * 128 - acq + i) % slots, if owner = 0 then some (ctxOfNo (cbdProd desc)) else none, 0, owner == 2),
    waited := (List.range waited).map fun i => (cons + slots * 128 - waited + i) % slots,
    fifo := (List.range filled).map fun i => (cons + i) % slots, closed := x.getLsbD 58, abandoned := x.getLsbD 59 }

/-- The steps and rows that a queued matrix instruction still takes. -/
def MatOp.left (m : MatOp) : Nat :=
  match m.cmd with
  | .mac _ kc => kc / m.plan.depth - m.steps
  | .macg _ kc => kc / m.plan.depth - m.steps
  | .mvb _ _ rows _ _ _ => rows.length + 1 - m.steps
  | _ => 1

/-- The matrix state's first 16 bytes: the steps that remain of the interrupted instruction, and its word. -/
def matBytes (mq : List MatOp) : List Byte :=
  match mq with
  | [] => List.replicate 16 0
  | m :: _ => bytesOf 4 m.left ++ bytesOf 12 m.word.toNat

/-- A macro-operation from its word, with the steps that remain of it. -/
def matOfWord (w : BitVec 96) (left : Nat) : Option MatOp :=
  let mk (cmd : MatCmd) : MatOp :=
    let m : MatOp := { who := .computer, cmd := cmd, payload := none, rm := 0, steps := 0, word := w }
    { m with steps := m.left - left }
  match parse w with
  | some (.mmac f) => some (mk (.mac f.accN f.kc))
  | some (.mmacg f) => some (mk (.macg f.accN f.kc))
  | some (.mzero f) => some (mk (.zero f.accN))
  | _ => none

/-- A frame's matrix queue as the matrix state's first 16 bytes give its head. -/
def readMq (mq : List MatOp) (bs : List Byte) : List MatOp :=
  if bs = matBytes mq then mq else
  let left := leAt bs 0 4
  let w : BitVec 96 := BitVec.ofNat 96 (leAt bs 4 12)
  if left = 0 then mq.drop 1 else
  match mq.head? with
  | some m => (if m.word = w then some { m with steps := m.steps + m.left - left } else matOfWord w left).toList ++ mq.drop 1
  | none => (matOfWord w left).toList

/-- KIND's four bits (R156). -/
def kindBits (k : Vector Bool 4) : Nat := (k.toList.zipIdx).foldl (fun n e => n + e.1.toNat * 2 ^ e.2) 0

/-- A scale tile's format: never loaded, E8, BF16 (R161). -/
def tileCode : Option ScaleTile → Nat | none => 0 | some z => if z.bf then 2 else 1

/-- A scale latch's tile of n entries: one never loaded holds 1.0 (E8 127) in each (R161). -/
def tileBytes (n : Nat) : Option ScaleTile → List Byte
  | none => List.replicate n 127 ++ List.replicate n 0
  | some z => bytesOf (2 * n) z.bits.toNat

/-- A tile from its format and bytes. -/
def readTile (n code : Nat) (o : Option ScaleTile) (bs : List Byte) : Option ScaleTile :=
  if code = tileCode o ∧ bs = tileBytes n o then o
  else if code = 0 ∧ bs = tileBytes n none then none
  else some { bf := code == 2, bits := BitVec.ofNat 2048 (leNat bs), bad := [] }

/-- The frame block: buffers, semaphores, matrix state, held mutex lines. -/
def State.putFrameBlock (s : State) (t : Target) (core frm : Nat) (f : Frame) : State :=
  let s := s.putArea t 0x1C00 (f.cbs.toList.flatMap CircBuf.bytes)
  let s := s.putArea t 0x1C80 ((List.range 8).flatMap fun n =>
    bytesOf 1 (f.sems.toList.getD n 0).toNat ++ bytesOf 7 ((f.cbs.toList[n]?.map CircBuf.owners).getD 0 / 2 ^ 54))
  let codes := ((f.sclA.toList ++ f.sclB.toList).zipIdx).foldl (fun n e => n + tileCode e.1 * 4 ^ e.2) 0
  let s := s.putArea t 0x1CC0 (matBytes f.mq ++ bytesOf 4 (kindBits f.kindI) ++ bytesOf 28 codes)
  let (lines, who) := s.heldLines core frm
  s.putArea t 0x1CF0 (bytesOf 8 lines ++ bytesOf 8 who)

/-! ## Queued-operation records (R253, R384) -/

/-- One queued-operation record: its capabilities, and its 224 further bytes. -/
def State.recordOf (s : State) (i : Nat) (q : QItem) : Cap × Cap × List Byte :=
  match q with
  | .fence _ c w => (0, 0, bytesOf 12 w.toNat ++ bytesOf 1 0 ++ bytesOf 1 i ++ bytesOf 1 0xFF ++ bytesOf 209 (match c with | some c => ctxNo c.kind | none => 0))
  | .op n k =>
    match s.ops.get n with
    | none => (0, 0, List.replicate 224 0)
    | some o =>
      match o.kind with
      | .copy c =>
        let hs := match s.heldCtx o.who with | some x => x.h.toList | none => []
        let h := (hs.findIdx? fun h => h.holds n).getD 0xFF
        (c.ca, c.cb, bytesOf 12 (encode c.instr).toNat ++ bytesOf 1 k ++ bytesOf 1 i ++ bytesOf 1 h ++ bytesOf 1 (ctxNo o.who.kind) ++
          bytesOf 8 c.ga.toNat ++ bytesOf 8 c.gc.toNat ++ bytesOf 128 c.vi.toNat ++ bytesOf 64 c.mask.toNat)
      | _ => (0, 0, List.replicate 224 0)

/-- A queued-operation record put into an area. -/
def State.putRecord (s : State) (t : Target) (i : Nat) (q : QItem) : State :=
  let off := 0x12000 + 256 * i
  let (a, b, bs) := s.recordOf i q
  ((s.putAreaCap t off a).putAreaCap t (off + 16) b).putArea t (off + 32) bs

/-- What a frame has in its core's engine order: its copies that have not begun, and its unsatisfied QFENCEs. -/
def State.queueOf (s : State) (core frm : Nat) : List QItem :=
  (s.engineOf core).filter fun q => match q with
    | .op n _ => (match s.ops.get n with
      | some o => ofFrame core frm o.who && (match o.kind with | .copy c => ! c.begun | _ => false)
      | none => false)
    | .fence _ c _ => c.any (ofFrame core frm)

/-- The slot that a copy takes of a buffer whose acquired slots name no operation yet. -/
def CircBuf.unowned (b : CircBuf) : Option Nat := (b.acq.find? fun e => e.2.1.isNone && e.2.2.1 == 0).map (·.1)

/-- The cause of a check. -/
def checkCause {α : Type} : Except Halt α → Except Cause α
  | .ok a => .ok a
  | .error (.trap c _ _) => .error c
  | .error (.trapIn _ c _ _) => .error c
  | .error (.kill c _) => .error c
  | .error (.wait _) => .error 0x14

/-- A device operand of a record, checked as at issue (R84). -/
def State.recordDev (s : State) (space : Word) (c : Cap) (g : Word) (n : Nat) (need : Needs) (al : Nat) : Except Cause Target :=
  match s.capCause space c (capOff g 0) n need al with
  | some e => .error e
  | none =>
    if (need.w || need.a) && (match s.objEntry (spaceSid space) (CapF.obj c) with | some e => e.derived | none => false) then .error 0x29
    else .ok (.dev (spaceSid space) (CapF.obj c) g.toNat)

/-- A scratch destination of a record: a slot that the copy's buffer has acquired for it, or an address. -/
def State.recordDest (s : State) (f : Fld) (fr : Frame) (ga : Word) (n al : Nat) :
    Except Cause (Target × Option (BitVec 3 × Nat) × Bool) :=
  match cbDest f.sa with
  | none => (checkCause (s.engineScratch ga n al)).map fun t => (t, none, false)
  | some k =>
    let b := fr.cb k
    match b.unowned with
    | some j => if b.slotBytes < n then .error 0x14 else .ok (.scr s.curCore (fr.slotOff b j), some (k, j), false)
    | none => .ok (.scr s.curCore (fr.slotOff b b.prodPos), none, true)

/-- A copy from its record (R254): what its operands name now, or the cause of the check that they fail; none when the word is no copy's.
`s.cur` is the context it belongs to. -/
def State.copyOfRecord (s : State) (space : Word) (fr : Frame) (w : BitVec 96) (ca cb : Cap) (ga gc : Word) (vi : Vec) (mask : BitVec 32)
    (q : Nat) : Option (CopyOp × Option Cause) :=
  match parse w with
  | none => none
  | some i =>
    let mk (f : Fld) (src dst : Target) (slot : Option (BitVec 3 × Nat)) (skip : Bool) : CopyOp :=
      { newCopy i f src dst with ca := ca, cb := cb, ga := ga, gc := gc, vi := vi, mask := mask, q := q, slot := slot, skip := skip }
    let fin (f : Fld) (r : Except Cause CopyOp) : Option (CopyOp × Option Cause) :=
      match r with
      | .ok c => some (c, none)
      | .error e => some (mk f (.scr s.curCore 0) (.scr s.curCore 0) none true, some e)
    let rows := takenRows mask vi
    let each (c : Cap) (g : Word) (rowb : Nat) (need : Needs) : Except Cause Unit :=
      rows.foldl (fun o r => match o with
        | .error e => .error e
        | .ok _ => (s.recordDev space c (g + BitVec.ofNat 64 (r * rowb)) rowb need (min rowb 128)).map fun _ => ()) (.ok ())
    let base (c : Cap) (g : Word) : Target := .dev (spaceSid space) (CapF.obj c) g.toNat
    match i with
    | .cpyScratchFromDevice f => fin f do
        let src ← s.recordDev space cb gc f.len { r := true } 16
        let (dst, slot, skip) ← s.recordDest f fr ga f.len 16
        .ok (mk f src dst slot skip)
    | .cpyDeviceFromScratch f => fin f do
        let dst ← s.recordDev space ca ga f.len { w := true } 16
        let src ← checkCause (s.engineScratch gc f.len 16)
        .ok (mk f src dst none false)
    | .cpyScratchFromScratch f => fin f do
        let (dst, slot, skip) ← s.recordDest f fr ga f.len 16
        let src ← checkCause (s.engineScratch gc f.len 16)
        .ok (mk f src dst slot skip)
    | .cpyDeviceFromDevice f => fin f do
        let dst ← s.recordDev space ca ga f.len { w := true } 16
        let src ← s.recordDev space cb gc f.len { r := true } 16
        .ok (mk f src dst none false)
    | .cpyx f => fin f do
        each cb gc f.rowb { r := true }
        let (dst, slot, skip) ← s.recordDest f fr ga (rows.length * f.rowb) 64
        .ok (mk f (base cb gc) dst slot skip)
    | .ebag f => fin f do
        each cb gc f.rowb { r := true }
        let (dst, slot, skip) ← s.recordDest f fr ga f.rowb 64
        .ok (mk f (base cb gc) dst slot skip)
    | .cpya f => fin f do
        each ca ga f.rowb { a := true }
        let src ← checkCause (s.engineScratch gc (rows.length * f.rowb) 64)
        .ok (mk f src (base ca ga) none false)
    | _ => none

/-! ## A member's area -/

/-- A member's whole area. -/
def State.putMember (s : State) (t : Target) (core frm : Nat) (f : Frame) : State :=
  let x (k : CtxKind) : Ctx := (s.ctxs.get (.ctx ⟨core, frm, k⟩)).getD Ctx.blank
  let sus := match f.trappedBy with | some k => 1 + 2 * ctxNo k | none => 0
  let queue := s.queueOf core frm
  let head := bytesOf 16 f.task.bytes.toNat ++ wordBytes [frameWord f ⟨core, frm, .computer⟩, (x .computer).space, corexy core] ++
    bytesOf 4 f.block ++ bytesOf 1 sus ++ bytesOf 1 queue.length ++ bytesOf 1 0 ++ bytesOf 1 1 ++
    wordBytes [s.jobWord f.task.job, f.task.parent] ++ pendBytes (x .loader).pend ++ pendBytes (x .computer).pend ++ pendBytes (x .storer).pend
  let s := s.putArea t 0 head
  let s := ((s.putCtxBlock t 0x100 (x .loader) queue).putCtxBlock t 0xA00 (x .computer) queue).putCtxBlock t 0x1300 (x .storer) queue
  let s := s.putFrameBlock t core frm f
  let s := s.putArea t 0x2000 ((x .computer).v.toList.flatMap fun v => bytesOf 128 v.toNat)
  let s := s.putArea t 0x3000 (f.sclA.toList.flatMap (tileBytes 64) ++ f.sclB.toList.flatMap (tileBytes 128))
  let s := s.putArea t 0x4000 (bytesOf 8192 f.latA.toNat)
  let s := s.putArea t 0x6000 (bytesOf 16384 f.latB.toNat)
  let s := s.putArea t 0xA000 (f.acc.toList.flatMap fun a => bytesOf 8192 a.toNat)
  let s := queue.zipIdx.foldl (fun s p => s.putRecord t p.2 p.1) s
  s.putArea t 0x1A000 (s.scrRead core (f.block * 4096) (f.blocks * 4096))

/-- The job that an area names (R253): the saved one where the word stands, else the active job of that word; none of them, 256. -/
def State.areaJob (s : State) (w : Word) (known : Option Nat) : Nat :=
  match known with
  | some j => if s.jobWord j = w then j else (s.jobs.find? fun p => Card.jobWord p.2.card == w).elim 256 (·.1)
  | none => (s.jobs.find? fun p => Card.jobWord p.2.card == w).elim 256 (·.1)

/-- What an area stands for: the saved frame, or a task of the area's record that starts anew where no save of the device is known. -/
def State.areaBase (s : State) (t : Target) (h : AreaHead) (bs : List Byte) (td : BitVec 512) : Saved :=
  match s.savedAt t with
  | some v => v
  | none =>
    let task : Task := { bytes := h.record, level := tdPrio td, index := 0xFFFFFFFF, job := s.areaJob (BitVec.ofNat 64 (leAt bs 48 8)) none,
                         parent := BitVec.ofNat 64 (leAt bs 56 8), kind := .spawned, b1 := 0, space := h.space }
    let f := Frame.bind task td none 0 0 (leAt bs 40 2)
    { area := t, core := h.core, frm := 3, frame := { f with started := true },
      ctxs := ctxKinds.map fun k => (k, s.startCtx h.core k f), npend := [0, 0, 0] }

/-- The core that an address with REL = 1 names at a new core, where it named `c` at the old one (R72, R76); none off the array. -/
def movedCore (old new c : Nat) : Option Nat :=
  let x : Int := (coreX c : Int) + coreX new - coreX old
  let y : Int := (coreY c : Int) + coreY new - coreY old
  if x < 0 ∨ 47 < x ∨ y < 0 ∨ 23 < y then none else some (48 * y.toNat + x.toNat)

/-- Scratch of a core at the restored frame's new core (R72): an address with REL = 1 moves with the frame, and the save-time allocation is served
there. -/
def rebaseCore (old new : Nat) (f : Frame) (rel : Bool) (c off : Nat) : Nat :=
  if rel then (movedCore old new c).getD c else if f.holds old (.scr c off) then new else c

/-- A scratch key, or a target, at the restored frame's new core. -/
def rebaseKey (old new : Nat) (f : Frame) (rel : Bool) (k : Nat) : Nat :=
  scrKey (rebaseCore old new f rel (k / 2 ^ 19) (k % 2 ^ 19)) (k % 2 ^ 19)
def rebaseTarget (old new : Nat) (f : Frame) (rel : Bool) (t : Target) : Target :=
  match t with
  | .scr c off => .scr (rebaseCore old new f rel c off) off
  | .dev .. => t

/-- A queued matrix instruction at the new core (R72). -/
def MatOp.rebase (old new : Nat) (f : Frame) (m : MatOp) : MatOp :=
  let k (n : Nat) : Nat := rebaseKey old new f (m.rels.contains n) n
  let cmd : MatCmd := match m.cmd with
    | .lda rows rowb => .lda (rows.map k) rowb
    | .ldb a len => .ldb (k a) len
    | .scl b tile a len => .scl b tile (k a) len
    | .mvb op n rows c u bar => .mvb op n (rows.map k) c u bar
    | .store n rows rowb tile => .store n (rows.map k) rowb (tile.map fun z => (k z.1, z.2))
    | c => c
  { m with cmd := cmd, rels := m.rels.map k }

/-- A stream's positions at the new core (R72, R96): a PTR or COL with REL = 0 that names the save-time core. -/
def Stream.rebase (old new : Nat) (st : Stream) : Stream :=
  match st.src with
  | .csr d =>
    let fix (d : BitVec 256) (at_ : Nat) : BitVec 256 :=
      let a : BitVec 32 := d.extractLsb' at_ 32
      match localTarget 0 a with
      | some (c, u, off) =>
        if ! a.getLsbD 31 && ! u && c == old then BitVec.ofNat 256 (d.toNat - a.toNat * 2 ^ at_ + absLocal new off * 2 ^ at_) else d
      | none => d
    { st with src := .csr (fix (fix d 128) 160) }
  | _ => st

/-- The frame of an area, with the fields that the area gives. -/
def State.readFrame (s : State) (t : Target) (v : Saved) (bs : List Byte) (new : Nat) : Frame :=
  let f := v.frame
  let raw (off len : Nat) : List Byte := s.bytesAt (t.plus off) len
  let n (off len : Nat) : Nat := leNat (raw off len)
  let sus := leAt bs 44 1
  let mat := raw 0x1CC0 48
  let code (i : Nat) : Nat := leAt mat 20 28 / 4 ^ i % 4
  let latA : BitVec 65536 := BitVec.ofNat 65536 (n 0x4000 8192)
  let latB : BitVec 131072 := BitVec.ofNat 131072 (n 0x6000 16384)
  let buf (i : Nat) (b : CircBuf) : CircBuf :=
    let r := raw (0x1C00 + 16 * i) 16
    let more := n (0x1C81 + 8 * i) 7
    if r = b.bytes ∧ more = b.owners / 2 ^ 54 then b else readBufBytes r more
  { f with
    task := { f.task with bytes := BitVec.ofNat 128 (leAt bs 0 16), job := s.areaJob (BitVec.ofNat 64 (leAt bs 48 8)) (some f.task.job),
                          parent := BitVec.ofNat 64 (leAt bs 56 8) },
    block := leAt bs 40 2, mq := (readMq f.mq (mat.take 16)).map (MatOp.rebase v.core new f),
    trappedBy := if sus % 2 = 1 then some (ctxOfNo (sus / 2 % 4)) else none, semq := [],
    cbs := Vector.ofFn fun i => buf i.val f.cbs[i.val],
    sems := Vector.ofFn fun i => BitVec.ofNat 8 (n (0x1C80 + 8 * i.val) 1),
    acc := Vector.ofFn fun i => BitVec.ofNat 65536 (n (0xA000 + 8192 * i.val) 8192),
    kindI := Vector.ofFn fun i => (leAt mat 16 1).testBit i.val,
    latA := latA, latB := latB, badA := if latA = f.latA then f.badA else [], badB := if latB = f.latB then f.badB else [],
    sclA := Vector.ofFn fun i => readTile 64 (code i.val) f.sclA[i.val] (raw (0x3000 + 128 * i.val) 128),
    sclB := Vector.ofFn fun i => readTile 128 (code (8 + i.val)) f.sclB[i.val] (raw (0x3400 + 256 * i.val) 256),
    homes := if new = v.core ∨ f.homes.contains v.core then f.homes else v.core :: f.homes }

end Sys2Proof.Machine
end

