-- ==== Sys2Proof/Machine/Preempt.lean ====
section
/-! DEFINITION. Pre-emption and restore of frames and domains: draining, saving, renaming what goes by the frame's number, abandonment, and
the binding of a restored frame (spec/04_scheduling.md R68 to R73; spec/14_faults.md R254; spec/12_sync.md R209, R218;
spec/23_ref_c_f.md R353 to R355, spec/25_ref_n_s.md R384). An event that is not enabled changes nothing (DESIGN CHOICE, LOG 20). -/

namespace Sys2Proof.Machine

/-! ## Who goes by which number -/

/-- Everything that names contexts of a frame, under a new frame number: operations, arrivals, releases, counted arrivals, tollgate
lines, frozen allocations' peers, group members, QFENCEs, decrements and records on their way. -/
def State.rename (s : State) (m : Nat × Nat → Nat × Nat) : State :=
  let f (c : CtxId) : CtxId := let k := m (c.core, c.frm); ⟨k.1, k.2, c.kind⟩
  let fo (c : Option CtxId) : Option CtxId := c.map f
  let line (k : Cluster) : Cluster := { k with
    bars := k.bars.map fun (p : Nat × BarLine) => (p.1, { p.2 with pending := p.2.pending.map f }),
    mutexes := k.mutexes.map fun (p : Nat × MutexLine) => (p.1, { p.2 with holder := fo p.2.holder }),
    arriving := k.arriving.map fun e => (fo e.1, e.2) }
  let item (q : QItem) : QItem := match q with | .fence x c w => .fence x (c.map f) w | q => q
  { s with
    engine := s.engine.map fun (p : Nat × List QItem) => (p.1, p.2.map item),
    saved := s.saved.map fun v => { v with queue := v.queue.map item },
    decs := s.decs.map fun d => { d with who := fo d.who },
    proxies := s.proxies.map fun (p : (Nat × ProxyDest) × List ProxyEntry) => (p.1, p.2.map fun e =>
      { e with who := fo e.who, dec := e.dec.map fun d => { d with who := fo d.who } }),
    lineBack := s.lineBack.map fun (p : CtxId × Ctx) => (f p.1, p.2),
    ops := s.ops.map fun (p : Nat × Op) => (p.1, { p.2 with who := f p.2.who }),
    arrivals := s.arrivals.map fun a => { a with who := fo a.who },
    releases := s.releases.map fun r => { r with who := f r.who },
    barriers := s.barriers.map fun (p : ObjKey × Barrier) => (p.1, { p.2 with counted := p.2.counted.map f }),
    clusters := s.clusters.map fun (p : Nat × Cluster) => (p.1, line p.2),
    frozen := s.frozen.map fun z => (z.1, z.2.1, z.2.2.1, z.2.2.2.1, z.2.2.2.2.map f),
    groups := s.groups.map fun (p : Nat × Group) => (p.1, { p.2 with members := p.2.members.map m }) }

/-- The group domain's object under another key: its state and all that waits on it (R71). -/
def State.rekey (s : State) (old new : ObjKey) : State :=
  if old = new then s else
  let f (k : ObjKey) : ObjKey := if k = old then new else k
  let cx (x : Ctx) : Ctx := { x with bara := x.bara.map fun r => { r with key := f r.key }, xch := x.xch.map fun e => { e with key := f e.key } }
  { s with
    barriers := s.barriers.map fun (p : ObjKey × Barrier) => (f p.1, p.2),
    arrivals := s.arrivals.map fun a => { a with key := f a.key },
    releases := s.releases.map fun r => { r with key := f r.key },
    leaseExts := s.leaseExts.map fun (p : Nat × LeaseExt) => (p.1, { p.2 with key := p.2.key.map f }),
    frozen := s.frozen.map fun z => (z.1, f z.2.1, z.2.2),
    groups := s.groups.map fun (p : Nat × Group) => (p.1, { p.2 with key := f p.2.key }),
    saved := s.saved.map fun v => { v with ctxs := v.ctxs.map fun p => (p.1, cx p.2) } }

/-! ## Draining (R68) -/

/-- The causes on their way to a context arrive before it is saved (R242, R250). -/
def State.settleComing (s : State) (c : CtxId) : State :=
  match s.ctxs.get (.ctx c) with
  | none => s
  | some x =>
    let ps : Sent := x.coming.map fun q => (c, x.arriving q)
    (s.setCtx (.ctx c) { x with coming := [] }).send ps

/-- One context's work performed as far as it can be: its tagged producers (R177) and its held stores. -/
def State.settleCtx (s : State) (c : CtxId) : State :=
  let s := s.completeTagged c
  let s := match s.drainHeld (.ctx c) fun _ => true with
    | some (s, ps) => s.send (ps.map fun p => (c, p))
    | none => s
  s.settleComing c

/-- A member's work performed as far as it can be (R68 steps 3 and 4); an owed trap entry is made first (R177). -/
def State.settleMember (s : State) (k : Nat × Nat) : State :=
  let s := (ctxsOf k.1 k.2).foldl State.settleCtx s
  let s := (ctxsOf k.1 k.2).foldl State.retryTrap s
  match s.drainFrame k.1 k.2 with
  | some s => s
  | none => s

/-- Is a member drained: nothing of its contexts under way, no begun copy on its scratch, no bank half running (R68)? -/
def State.drained (s : State) (k : Nat × Nat) : Bool :=
  let mine := ofFrame k.1 k.2
  match s.frames.get k with
  | none => false
  | some f =>
    f.started &&
    (ctxsOf k.1 k.2).all (fun c => match s.ctxs.get (.ctx c) with
      | some x => x.out.all Outst.isLine && x.held.isEmpty && x.coming.isEmpty && x.owed.isNone
      | none => false) &&
    ! (s.coreOf k.1).cmds.any (fun q => mine q.who) &&
    ! s.atoms.any (fun (p : Nat × AtomReq) => match p.2.who with | .ctx c => mine c | .handler _ => false) &&
    ! s.unitq.any (fun q => mine q.1) &&
    ! s.engineBusy [k] &&
    (match f.mq.head? with | some m => (match m.cmd with | .mvb .. => m.steps == 0 | _ => true) | none => true)

/-! ## FRAME_SAVE_COMPLETE (R68) -/

/-- Whoever asked for a pre-emption or a restore is answered: the handle, or the control message (R258). -/
def State.preemptDone (s : State) (n : Nat) (p : Preempt) (w : Word) : State :=
  let s := { s with preempts := s.preempts.del n }
  match p.op, p.page with
  | some op, _ => s.finishOp op w
  | none, some page => s.ctrlDone page ((w.extractLsb' 56 7).zeroExtend 8) (w.extractLsb' 0 56).toNat
  | none, none => s

/-- A register of `x` as it stands in `y`. -/
def Ctx.takeReg (x y : Ctx) (o : Operand) : Ctx :=
  match o with
  | .g n => x.writeW o (y.readG n)
  | .o n => x.writeW o (y.readO n)
  | .k n => x.writeW o (y.readK n)
  | .b n => x.writeCap o (y.readB n)
  | .v n => x.writeV n (y.readV n)
  | _ => x

/-- A context `x` taken back to the issue of a line load, where it stood as `z` (R209): what its pair partner wrote is undone; what earlier tagged
producers have written since stands (R177). -/
def Ctx.backTo (x z : Ctx) : Ctx :=
  let back := { x with pc := z.pc, g := z.g, o := z.o, k := z.k, b := z.b, v := z.v, st := z.st, pd := z.pd }
  (z.out.filter fun e => ! x.out.contains e).foldl (fun b e => b.takeReg x e.dst) back

/-- A waiting line load is withdrawn, and the context stands at it as it did when it issued the load, its pair partner included (R209). -/
def State.withdrawLoad (s : State) (c : CtxId) : State :=
  match s.ctxs.get (.ctx c) with
  | none => s
  | some x =>
    match x.out.find? Outst.isLine with
    | none => s
    | some e =>
      let back (x : Ctx) : Ctx := match s.lineBack.get c with
        | some z => x.backTo z
        | none => { x with pc := e.pc }
      ({ s.withdraw c with lineBack := s.lineBack.del c }).updCtx (.ctx c) fun x => back { x with out := x.out.filter fun e => ! e.isLine }

/-- A context as it is kept while saved: fetched-ahead elements dropped; waits that its instruction re-makes ended. -/
def Ctx.forSave (x : Ctx) : Ctx :=
  { x with st := x.st.map fun o => o.map fun st => { st with ahead := [] },
           wait := match x.wait with | .barrier => .barrier | .sent => .sent | .unitRel => .unitRel | _ => .none }

/-- One member is written and freed, and kept under its saved number (R68 step 5). -/
def State.saveMember (s : State) (num : Nat) (area : Target) (k : Nat × Nat) : State :=
  match s.frames.get k with
  | none => s
  | some f =>
    let s := (ctxsOf k.1 k.2).foldl State.withdrawLoad s
    let t := area.plus (f.gidx * areaBytes (tdSdem f.tdesc))
    let xs := ctxKinds.map fun c => (c, ((s.ctxs.get (.ctx ⟨k.1, k.2, c⟩)).getD Ctx.blank).forSave)
    let queue := s.queueOf k.1 k.2
    let s := s.putMember t k.1 k.2 f
    let v : Saved := { area := t, core := k.1, frm := num, frame := f, ctxs := xs, npend := xs.map fun p => p.2.pend.length, queue := queue }
    let s := { s with
      saved := s.saved ++ [v],
      engine := s.engine.map fun (p : Nat × List QItem) =>
        (p.1, if p.1 = k.1 then fenceSettle (p.2.filter fun q => ! queue.contains q) 0 else p.2) }
    let rs := s.releases
    { s.freeFrameAt k.1 k.2 with releases := rs }

/-- Was a pre-emption's step 3 finished more than 64 µs after its start, or has it not been finished by then (R69)? -/
def State.drainLate (s : State) (p : Preempt) : Bool :=
  decide (p.t0 + 64 * s.boot.mhz < p.step3.getD s.clock)

/-- FRAME_SAVE_COMPLETE (R68, R69, R354, R355). A member that is killed while it drains ends the pre-emption with F = 1 and cause 0x14 (DESIGN
CHOICE, LOG 110). -/
def execFrameSaveComplete (n : Nat) (s : State) : Host.Outcome State Fault Refusal :=
  match s.preempts.get n with
  | none => .next s
  | some p =>
    if ! p.save then .next s
    else
      let alive (s : State) : Bool := p.frames.all fun k => match s.frames.get k with | some f => f.killed.isNone | none => false
      if ! alive s then .next (s.preemptDone n p (faultWord 0x14 0)) else
      if p.step3.isNone || s.drainLate p then .next s else
      let s := p.frames.foldl State.settleMember s
      if ! (alive s && p.frames.all s.drained) then .next s else
      let sdem := match p.frames with
        | k :: _ => (match s.frames.get k with | some f => tdGw f.tdesc * areaBytes (tdSdem f.tdesc) | none => 64)
        | [] => 64
      match s.touch (match p.frames with | k :: _ => k.1 | [] => 0) p.area sdem false with
      | none => .next s
      | some s =>
        let s := s.toWrite p.area sdem
        let num := 4 + n
        let job := match p.frames.head?.bind s.frames.get with | some f => f.task.job | none => 0
        let s := p.frames.foldl (fun s k => s.saveMember num p.area k) s
        let s := s.rename fun k => if p.frames.contains k then (k.1, num) else k
        let s := s.jobSent job
        let s := s.preemptDone n p (okWord p.frames.length)
        .next (p.frames.foldl (fun s k => s.contsRetry (clusterOf k.1)) s)

/-- PREEMPT_ABANDON (R69): the engine operations' drain has taken more than 64 µs. -/
def execPreemptAbandon (n : Nat) (s : State) : Host.Outcome State Fault Refusal :=
  match s.preempts.get n with
  | none => .next s
  | some p =>
    if p.save ∧ s.drainLate p then .next (s.preemptDone n p (faultWord 0x30 0))
    else .next s

/-! ## FRAME_RESTORE_BIND (R71 to R73, R353, R354) -/

/-- The rank of a core within its cluster, row-major. -/
def clusterPos (core : Nat) : Nat × Nat := (coreX core % 8, coreY core % 6)

/-- The cores of a restored domain, in GIDX order, from its north-west core; none when they leave the cluster. -/
def domainCores (core : Nat) (td : BitVec 512) : Option (List Nat) :=
  let cols := tdGcols td
  let rows := tdGw td / cols
  let (x, y) := clusterPos core
  if tdGw td = 1 then some [core]
  else if x + cols ≤ 8 ∧ y + rows ≤ 6 then some ((List.range (tdGw td)).map fun i => core + i % cols + 48 * (i / cols))
  else none

/-- A free frame number of a core; which of them is the device's choice (DESIGN CHOICE, LOG 11). -/
def State.someFreeFrame (s : State) (core : Nat) : Option Nat :=
  let l := (List.range 4).filter fun n => (s.frames.get (core, n)).isNone
  l[(Config.freeValue (s.freeTick * 2 ^ 48 + 2 ^ 46 + core)).toNat % max 1 l.length]?

/-- Is a run of scratch blocks of a core free? -/
def State.runFree (s : State) (core block n : Nat) : Bool :=
  decide (block + n ≤ 128) && (List.range n).all fun i => ! s.blockUsed core (block + i)

/-- The mutex lines that a member holds, by the tollgate or by its area, forbid another cluster (R209). -/
def State.linesHeld (s : State) (t : Target) (v : Saved) : Bool :=
  decide ((s.heldLines v.core v.frm).1 ≠ 0) || decide (leNat (s.bytesAt (t.plus 0x1CF0) 4) ≠ 0)

/-- A member of a restored domain: its area, what it stands for, and where it goes. -/
structure Placing where
  area : Target
  saved : Saved
  core : Nat
  frm : Nat

/-- Where the members of an area's domain go; none when one does not fit (R71). -/
def State.placeDomain (s : State) (area : Target) (core : Nat) (td : BitVec 512) (h : AreaHead) (bs : List Byte) : Option (List Placing) :=
  match domainCores core td with
  | none => none
  | some cs =>
    let known := (s.savedAt area).isSome
    -- a member that ended before the save has no saved frame, and is not restored
    let ms := cs.zipIdx.filterMap fun p =>
      let t := area.plus (p.2 * areaBytes (tdSdem td))
      if known && (s.savedAt t).isNone then none
      else some (t, { s.areaBase t h bs td with frame := { (s.areaBase t h bs td).frame with gidx := p.2 } }, p.1)
    ms.foldr (fun m o => match o with
      | none => none
      | some ps =>
        let (t, v, c) := m
        if ! s.poolsFit c td || ! s.runFree c (leNat (s.bytesAt (t.plus 40) 2)) (tdescBlocks td) then none
        else if clusterOf c != clusterOf v.core && s.linesHeld t v then none
        else (s.someFreeFrame c).map fun n => { area := t, saved := v, core := c, frm := n } :: ps) (some [])

/-- A saved copy at its member's new core (R72): a scratch operand of the allocation, and one of an address with REL = 1, moves. -/
def CopyOp.rebase (old new : Nat) (f : Frame) (c : CopyOp) : CopyOp :=
  { c with src := rebaseTarget old new f (c.gc.getLsbD 31) c.src, dst := rebaseTarget old new f (c.slot.isNone && c.ga.getLsbD 31) c.dst }

/-- A record as an area holds it: its capabilities, and its 224 further bytes. -/
def State.areaRecord (s : State) (t : Target) (i : Nat) : Cap × Cap × List Byte :=
  let off := 0x12000 + 256 * i
  (s.areaCap t off, s.areaCap t (off + 16), s.bytesAt (t.plus (off + 32)) 224)

/-- A queued operation from a record that the supervisor changed, or of an area that no save stands behind (R254): a new operation, whose handle
is pending on it, and the cause of the check that it fails. None: the record is no operation. -/
def State.newFromRecord (s : State) (r : Cap × Cap × List Byte) (core frm job : Nat) : State × Option QItem × Option (Nat × Option Cause) :=
  let (a, b, bs) := r
  let who : CtxId := ⟨core, frm, ctxOfNo (leAt bs 15 1)⟩
  let w := leAt bs 0 12
  match s.ctxs.get (.ctx who), s.frames.get (core, frm) with
  | some x, some fr =>
    match parse (BitVec.ofNat 96 w) with
    | some (.qfence f) => (s, some (.fence (f.imm.extractLsb' 0 4) (some who) (BitVec.ofNat 96 w)), none)
    | _ =>
    let q := leAt bs 12 1 % 4
    let word (i : Nat) : Word := BitVec.ofNat 64 (leAt bs i 8)
    match ({ s with cur := .ctx who, pairView := none }).copyOfRecord x.space fr (BitVec.ofNat 96 w) a b (word 16) (word 24)
        (BitVec.ofNat 1024 (leAt bs 32 128)) (BitVec.ofNat 32 (leAt bs 160 4)) q with
    | none => (s, none, none)
    | some (c, cause) =>
      let (n, s) := s.newOp { who := who, space := x.space, job := job, kind := .copy c, pc := x.pc, seq := x.issued }
      let hand (x : Ctx) : Ctx := if leAt bs 14 1 < 16 then { x with h := x.h.setIfInBounds (leAt bs 14 1) (.pending n) } else x
      let s := s.updCtx (.ctx who) hand
      match cause with
      | some e => (s, none, some (n, some e))
      | none =>
        let own (e : Nat × Option CtxKind × Nat × Bool) : Nat × Option CtxKind × Nat × Bool :=
          match c.slot with
          | some (_, j) => if e.1 = j ∧ e.2.1.isNone ∧ e.2.2.1 = 0 then (e.1, e.2.1, n, e.2.2.2) else e
          | none => e
        let s := match c.slot with
          | some (k, _) => s.updFrame core frm fun f => f.setCb k { f.cb k with acq := (f.cb k).acq.map own }
          | none => s
        (s, some (.op n q), some (n, none))
  | _, _ => (s, none, none)

/-- Does a restored copy reach what it names: an address with REL = 1 on the array and in its cluster (R76, R79)? -/
def CopyOp.reaches (old new : Nat) (c : CopyOp) : Bool :=
  let ok (rel : Bool) (t : Target) : Bool := match t with
    | .scr k _ => ! rel || (match movedCore old new k with | some m => clusterOf m == clusterOf new | none => false)
    | .dev .. => true
  ok (c.gc.getLsbD 31) c.src && ok (c.slot.isNone && c.ga.getLsbD 31) c.dst

/-- Reissued so far: the state, the queue's items, and of each record its operation, with the cause of a check that it fails. -/
abbrev Reissued := State × List QItem × List (Option (Nat × Option Cause))

/-- One record reissued: a saved operation or QFENCE where the record stands as it was saved (R73, R384). -/
def State.reissueOne (v : Saved) (t : Target) (core frm job : Nat) (acc : Reissued) (i : Nat) : Reissued :=
  let (s, items, made) := acc
  let r := s.areaRecord t i
  let anew : Reissued := let z := s.newFromRecord r core frm job; (z.1, items ++ z.2.1.toList, made ++ [z.2.2])
  match v.queue[i]? with
  | some q =>
    if r = s.recordOf i q then
      match q with
      | .fence m c w => (s, items ++ [.fence m (c.map fun c => ⟨core, frm, c.kind⟩) w], made ++ [none])
      | .op n k =>
        match s.ops.get n with
        | some o =>
          (match o.kind with
           | .copy c =>
             let s := { s with ops := s.ops.set n { o with who := ⟨core, frm, o.who.kind⟩, kind := .copy (c.rebase v.core core v.frame) } }
             if c.reaches v.core core then (s, items ++ [.op n k], made ++ [some (n, none)]) else (s, items, made ++ [some (n, some 0x14)])
           | _ => (s, items, made ++ [none]))
        | none => (s, items, made ++ [none])
    else anew
  | none => anew

/-- The handles of a restored member that its area binds to a record (R253): pending on the record's operation. -/
def State.bindHandles (s : State) (t : Target) (core frm : Nat) (made : List (Option (Nat × Option Cause))) : State :=
  ctxKinds.foldl (fun s k => s.updCtx (.ctx ⟨core, frm, k⟩) fun x =>
    (List.range 16).foldl (fun x i =>
      let bs := s.bytesAt (t.plus (0x100 + 0x900 * ctxNo k + 0x400 + 16 * i)) 2
      match (if leAt bs 0 1 = 0 ∨ leAt bs 0 1 = 2 then none else (made[leAt bs 1 1]?).join), x.h[i]? with
      | some (n, _), some h => if h.holds n then x else { x with h := x.h.setIfInBounds i (.pending n) }
      | _, _ => x) x) s

/-- The queued operations of a restored member, reissued in their saved order (R73, R254, R384): the area's NQ records; a saved operation whose
record is gone is gone, and one that fails its checks completes at once with the cause (DESIGN CHOICE, LOG 73). -/
def State.reissue (s : State) (v : Saved) (t : Target) (core frm nq job : Nat) : State :=
  let (s, items, made) := (List.range nq).foldl (State.reissueOne v t core frm job) (s, [], [])
  let lost := v.queue.filterMap fun q => match q with
    | .op n _ => if made.any fun e => e.any fun p => p.1 == n then none else some n
    | .fence .. => none
  let s := lost.foldl (fun s n => { s with ops := s.ops.del n }) s
  let s := s.bindHandles t core frm made
  let s := made.foldl (fun s e => match e with | some (n, some k) => s.finishOp n (faultWord k 0) | _ => s) s
  if items.isEmpty then s else { s with engine := s.engine.set core (fenceSettle (s.engineOf core ++ items) 0) }

/-- The mutex lines of a restored member as its area gives them (R209, R254): lines it held whose bit was cleared are freed, and a free line
whose bit was set is its own. -/
def State.restoreLines (s : State) (t : Target) (core frm : Nat) : State :=
  let bs := s.bytesAt (t.plus 0x1CF0) 16
  let (lines, who) := (leAt bs 0 4, leAt bs 8 8)
  let cl := clusterOf core
  (List.range 32).foldl (fun s n =>
    let c := s.clusterAt cl
    let mine := match (c.mutex n).holder with | some h => h.core == core && h.frm == frm | none => false
    let set (s : State) : State :=
      s.setCluster cl { c with mutexes := c.mutexes.set n { c.mutex n with holder := some ⟨core, frm, ctxOfNo (who / 4 ^ n % 4)⟩ } }
    if lines.testBit n then (if mine || (c.mutex n).holder.isNone then set s else s)
    else if mine then s.mutexGrant cl n else s) s

/-- One member bound and filled from its area. -/
def State.restoreMember (s : State) (p : Placing) : State :=
  let v := p.saved
  let t := p.area
  let bs := s.bytesAt t 256
  let f := s.readFrame t v bs p.core
  let space : Word := BitVec.ofNat 64 (leAt bs 24 8) &&& 0xFFFFF
  let was := match v.ctxs.find? fun q => q.1 == CtxKind.computer with | some q => q.2.space | none => 0
  let vs : Vector Vec 32 := Vector.ofFn fun i => leVec (s.bytesAt (t.plus (0x2000 + 128 * i.val)) 128)
  let one (s : State) (q : (CtxKind × Ctx) × Nat) : State :=
    let x := q.1.2
    let late := x.pend.drop (v.npend.getD q.2 0)
    let x := { x with space := if space = was then x.space else space }
    let y := s.readCtxBlock t (0x100 + 0x900 * q.2) p.core x (headPend bs q.2 ++ late)
    let y := if q.1.1 = .computer then { y with v := vs } else y
    s.setCtx (.ctx ⟨p.core, p.frm, q.1.1⟩) { y with st := y.st.map fun o => o.map (Stream.rebase v.core p.core) }
  let s := v.ctxs.zipIdx.foldl one (s.setFrame p.core p.frm f)
  let s := (s.mend (.scr p.core (f.block * 4096)) (f.blocks * 4096)).scrWrite p.core (f.block * 4096) (s.bytesAt (t.plus 0x1A000) (f.blocks * 4096))
  let s := s.reissue v t p.core p.frm (leAt bs 45 1) f.task.job
  let s := { s with saved := s.saved.filter fun z => z.area != t }
  let excess := v.ctxs.zipIdx.find? fun q => decide (4 < (headPend bs q.2).length + (q.1.2.pend.drop (v.npend.getD q.2 0)).length)
  match f.killed, excess with
  | some k, _ => { s with frames := s.frames.set (p.core, p.frm) { f with killed := none } }.kill p.core p.frm k
  | none, some q => s.kill p.core p.frm ⟨match q.1.2.pend.getLast? with | some c => c.cause | none => 0, q.2, 0, q.1.2.pc⟩
  | none, none => s

/-- The members of an area that no save of the device stands behind form a group of their own, as at a bind (R31, R254). -/
def State.newDomain (s : State) (ps : List Placing) : State :=
  match ps with
  | p :: _ :: _ =>
    if (s.savedAt p.area).isSome then s else
    let gbar := s.freeDomain (spaceSid p.saved.frame.task.space) p.core
    let k := objKey (spaceSid p.saved.frame.task.space) p.core gbar
    let g := s.nextId
    { s with nextId := g + 1, groups := s.groups.set g { members := ps.map fun p => (p.core, p.frm), key := k, ended := 0, killed := false },
             barriers := s.barriers.set k { phase := 0, sum := 0, extra := 0, doneCtr := none, groupCount := some ps.length, counted := [],
                                            extWord := none } }
  | _ => s

/-- The group that `newDomain` made, given to the members. -/
def State.joinDomain (s : State) (g : Nat) (ps : List Placing) : State :=
  match s.groups.get g with
  | none => s
  | some grp => ps.foldl (fun s p => s.updFrame p.core p.frm fun f => { f with group := some g, gbar := grp.key.id }) s

/-- FRAME_RESTORE_BIND (R71, R353); an area that reads uncorrectably ends it with 0x41 and restores nothing (R247). -/
def execFrameRestoreBind (n : Nat) (s : State) : Host.Outcome State Fault Refusal :=
  match s.preempts.get n with
  | none => .next s
  | some p =>
    if p.save then .next s else
    match s.touch p.target p.area 256 true with
    | none => .next s
    | some s =>
      let bs := s.bytesAt p.area 256
      let h := areaHead bs
      let td := s.areaType p.area h
      match s.placeDomain p.area p.target td h bs with
      | none => .next (s.preemptDone n p (faultWord 0x14 0))
      | some ps =>
        match s.touch p.target p.area (tdGw td * areaBytes (tdSdem td)) true with
        | none => .next s
        | some s =>
          if s.badAt p.area (tdGw td * areaBytes (tdSdem td)) then
            .next ((s.unc p.area (tdGw td * areaBytes (tdSdem td))).1.preemptDone n p (faultWord 0x41 0)) else
          let v0 := (ps.head?).map (·.saved)
          let job := match v0 with | some v => v.frame.task.job | none => 256
          -- the group domain moves with the restored frames
          let moved := match v0 with
            | some v => (v.frame.domain v.core).map fun k => (k, objKey k.sid p.target k.id)
            | none => none
          let clash := match moved with
            | some (a, b) => a != b && s.groups.any fun g => g.2.key == b
            | none => false
          if clash then .next (s.preemptDone n p (faultWord 0x14 0)) else
          let s := match moved with | some (a, b) => s.rekey a b | none => s
          let ps := ps.map fun q => { q with saved := (s.savedAt q.area).getD q.saved }
          let g := s.nextId
          let fresh := (s.newDomain ps).nextId != g
          let s := ps.foldl State.restoreMember (s.newDomain ps)
          let s := if fresh then s.joinDomain g ps else s
          let s := s.rename fun k => match ps.find? fun q => (q.saved.core, q.saved.frm) == k && decide (4 ≤ k.2) with
            | some q => (q.core, q.frm)
            | none => k
          let s := ps.foldl (fun s q => s.restoreLines q.area q.core q.frm) s
          let s := s.jobReceived job
          let w := coreX p.target * 2 ^ 25 + coreY p.target * 2 ^ 20 + (match ps.head? with | some q => q.frm | none => 0)
          .next (s.preemptDone n p (okWord w))

end Sys2Proof.Machine
end

