-- ==== Sys2Proof/Machine/Host.lean ====
section
/-! DEFINITION. The function's address space, starts, the feature lock, mailboxes and control messages (spec/15_host_pod.md R255 to R264,
R415 to R418, R268; spec/05_memory.md R93; spec/13_near_memory.md R222, R228, R233). An event that is not enabled changes nothing
(DESIGN CHOICE, LOG 20). -/

namespace Sys2Proof.Machine

/-! ## Starting (R260, R261, R268) -/

/-- All work stopped, as a start begins (R261): spaces, bindings, launch pages, link settings and the lock cleared; `keep`: memory and its
tags stay. Queued mailbox messages stay. -/
def State.stopAll (s : State) (keep : Bool) : State :=
  let b := s.boot
  { State.reset with
    clock := s.clock, completion := s.completion, links := s.links.map fun l => { l with state := 0, peer := 0 },
    mail := s.mail.map fun (p : Nat × Mailbox) => (p.1, { p.2 with sid := none }),
    hostMem := s.hostMem, interrupts := s.interrupts,
    mem := if keep then s.mem else [], tags := if keep then s.tags else [], bad := if keep then s.bad else [],
    pool := if keep then s.pool else [], lent := if keep then s.lent else [], slabHome := if keep then s.slabHome else [],
    nextId := s.nextId, agenda := s.agenda, pace := s.pace, focus := s.focus, cur := s.cur, pairView := s.pairView, last := s.last,
    freeTick := s.freeTick,
    boot := { b with accept := Vector.replicate 4 0, locked := false, tokEpoch := 0, tokPasses := 0, token := [], tokTime := s.clock,
                     epoch := s.clock, ownPkg := 0, podSize := 1, successor := 0, replies := [], coldIdle := 0, errlog := 0 } }

/-- The step that a failure's CODE names (R260, R261). -/
def failStep (code : BitVec 8) : Nat :=
  if code = 0x82 then 2 else if code = 0x83 then 3 else if code = 0x84 then 4 else if code = 0x85 then 5 else 0

/-- Is a step run on a path (R261)? -/
def stepRuns (cold keep : Bool) (n : Nat) : Bool :=
  match n with
  | 2 => cold
  | 3 => ! keep
  | 4 => true
  | 5 => true
  | _ => false

/-- The handler ROM in every slice's store (R222; DESIGN CHOICE, LOG 9). The store is one for all slices, which hold the same lines. -/
def romStore : Assoc Nat (BitVec 512) := (List.range 32).map fun n => (n, Config.handlerRom n)

/-- A start of a value, run to its end (R261). -/
def State.runStart (s : State) (value : Nat) (e : StartEnv) : State :=
  let cold := value == 1 || s.boot.coldNext
  let keep := ! cold && value == 3
  let verify := cold || s.boot.hash != some e.hash
  let base : Boot := { s.boot with coldNext := false, unit := 0, path := if cold then 1 else 2, code := 0x01 }
  let fails : Option (BitVec 8 × Nat × BitVec 3) :=
    if verify && ! e.sigOk then some (0x81, 1, 0)
    else match e.fail with
      | some (c, u) => if failStep c != 0 && stepRuns cold keep (failStep c) then some (c, failStep c, u) else none
      | none => none
  match fails with
  | some (c, n, u) =>
    -- a step that fails leaves memory as the steps before it left it
    let s := s.stopAll (keep || decide (n ≤ 3))
    { s with boot := { s.boot with coldNext := true, code := c, stepNo := BitVec.ofNat 8 n, unit := u, path := base.path,
                                   hash := if n = 1 then s.boot.hash else some e.hash } }
  | none =>
    let s := s.stopAll keep
    { s with handlerStore := romStore,
             boot := { s.boot with coldNext := false, code := 0x02, stepNo := 6, unit := 0, path := base.path, starts := s.boot.starts + 1,
                                   hash := some e.hash } }

/-- A start has ended: a START held meanwhile runs at once, so CODE reads "starting" until it has (R261). -/
def State.startEnded (s : State) : State :=
  if s.boot.heldStart.isSome then { s with boot := { s.boot with code := 0x01 } } else s

/-- POWER_ON (R261): the machine as `State.reset` has it, on which no start has run: PATH is still 0. -/
def execPowerOn (e : StartEnv) (s : State) : Host.Outcome State Fault Refusal :=
  .next (if s.boot.code = 0x01 ∧ s.boot.path = 0 then (s.runStart 1 e).startEnded else s)

/-- A write to START: held while a start runs, the last value kept, else run (R261). -/
def State.writeStart (s : State) (value : Nat) (e : StartEnv) : State :=
  if s.boot.code = 0x01 then { s with boot := { s.boot with heldStart := some value } } else s.runStart value e

def execStartCold (e : StartEnv) (s : State) : Host.Outcome State Fault Refusal := .next (s.writeStart 1 e)
def execStartWarm (e : StartEnv) (s : State) : Host.Outcome State Fault Refusal := .next (s.writeStart 2 e)
def execStartWarmPreserving (e : StartEnv) (s : State) : Host.Outcome State Fault Refusal := .next (s.writeStart 3 e)

/-- HELD_START_RUN (R261): the start that ran has ended. -/
def execHeldStartRun (e : StartEnv) (s : State) : Host.Outcome State Fault Refusal :=
  match s.boot.heldStart with
  | some v => .next (if s.boot.path = 0 then s else ({ s with boot := { s.boot with heldStart := none } }).runStart v e)
  | none => .next s

/-- The accepted set that a lock keeps (R262). -/
def lockSet (accept : Word) : Word :=
  let a := accept &&& offered 0
  let a := if a.getLsbD 0 then a else setBit a 2 false
  if a.getLsbD 5 then a else setBit a 6 false

/-- LOCK_FEATURES (R262): ignored while CODE is not 0x02. -/
def execLockFeatures (s : State) : Host.Outcome State Fault Refusal :=
  .next (if s.boot.code = 0x02 then
    { s with boot := { s.boot with accept := #v[lockSet s.boot.accept[0], 0, 0, 0], locked := true, code := 0x00 } } else s)

/-- REGISTER_WRITE (R260, R228). -/
def execRegisterWrite (r : HostReg) (v : BitVec 64) (s : State) : Host.Outcome State Fault Refusal :=
  match r with
  | .accept n => .next (if s.boot.locked then s else { s with boot := { s.boot with accept := s.boot.accept.set n.toNat v n.isLt } })
  | .fwaddr => .next { s with boot := { s.boot with fwaddr := v } }
  | .fwlen => .next { s with boot := { s.boot with fwlen := v } }
  | .argp p => .next (s.pageWrite p 8 v false)
  | .sel p => .next (s.pageWrite p 16 v false)

/-! ## Reads of the function's pages (R255, R260, R265, R267, R418) -/

/-- BOOTSTAT (R260). -/
def Boot.stat (b : Boot) : Word :=
  BitVec.ofNat 64 (b.path.toNat + b.unit.toNat * 2 ^ 8 + b.stepNo.toNat * 2 ^ 16 + b.code.toNat * 2 ^ 24 + b.starts.toNat * 2 ^ 32 +
    b.badw.toNat * 2 ^ 48)

/-- LINKSTn (R265). -/
def Link.stat (l : Link) : Word := BitVec.ofNat 64 (l.retry.toNat + l.peer.toNat * 2 ^ 48 + l.state.toNat * 2 ^ 62)

/-- TOKST (R267). -/
def Boot.tokst (b : Boot) : Word := BitVec.ofNat 64 (b.tokEpoch.toNat + b.tokPasses.toNat * 2 ^ 16)

/-- A register of the boot page (R260); the write-only ones, what the table leaves out and the reserved bits of ACCEPT (R262) read zero (R6). -/
def Boot.reg (b : Boot) (off : Nat) : Word :=
  if off = 0 then b.stat
  else if off = 0x08 then offered 0 else if off = 0x10 then offered 1 else if off = 0x18 then offered 2 else if off = 0x20 then offered 3
  else if off = 0x28 then b.accept[0] &&& 0x7FF
  else if off = 0x58 then b.fwaddr else if off = 0x60 then b.fwlen else 0

/-- A register of the status page (R255). -/
def State.statusReg (s : State) (off : Nat) : Word :=
  if off < 0x80 then (match s.links.toList[off / 8]? with | some l => l.stat | none => 0)
  else if off = 0x80 then s.boot.tokst
  else if 0x100 ≤ off ∧ off < 0x500 then
    ((s.boot.replies.get ((off - 0x100) / 16)).getD 0).extractLsb' (64 * ((off - 0x100) / 8 % 2)) 64
  else 0

/-- What an 8-byte read at an offset of the function returns; none where the function decodes nothing (R255). A mailbox page's words are not
stated (DESIGN CHOICE, LOG 11). -/
def State.hostWord (s : State) (off : Nat) : Option Word :=
  let o := off / 8 * 8
  if o < 0x1000 then some (s.boot.reg o)
  else if o < 0x2000 then some (s.statusReg (o - 0x1000))
  else if 0x10000 ≤ o ∧ o < 0x50000 then some (Config.freeValue (s.freeTick * 2 ^ 48 + 2 ^ 44 + 1))
  else none

/-- UNSUPPORTED_REQUEST (R255): a request completes with unsupported-request status, and changes nothing. Where the function decodes the offset
it is a read of 8 bytes, which completes with data: the table has no row for it. -/
def execUnsupportedRequest (off : Nat) (s : State) : Host.Outcome State Fault Refusal :=
  .next { s with completion := some (s.hostWord off) }

/-- An event entry on every installed space's outbound page (R265, R268). -/
def State.toSpaces (s : State) (kind : Nat) (body : BitVec 256) : State := s.spaces.foldl (fun s p => s.outbound p.1 kind body) s

/-- A change of the clock (R268): the new value in MHz, and the die or 0xFF. -/
def State.setClock (s : State) (mhz who : Nat) : State :=
  ({ s with boot := { s.boot with mhz := mhz } }).toSpaces 5 (BitVec.ofNat 256 (mhz + who % 256 * 2 ^ 16))

/-- THERMAL_CLOCK_LOWER (R268): 50 MHz a step, down to 550. -/
def execThermalClockLower (die : Nat) (s : State) : Host.Outcome State Fault Refusal :=
  .next (if 550 < s.boot.mhz then s.setClock (s.boot.mhz - 50) die else s)

/-- THERMAL_CLOCK_RAISE (R268): 50 MHz a step, up to 1,050. -/
def execThermalClockRaise (s : State) : Host.Outcome State Fault Refusal :=
  .next (if s.boot.mhz < 1050 then s.setClock (s.boot.mhz + 50) 0xFF else s)

/-- THERMAL_SHUTDOWN (R268): all work stops; the next START is cold. -/
def execThermalShutdown (die : Nat) (s : State) : Host.Outcome State Fault Refusal :=
  let s := s.stopAll true
  .next { s with boot := { s.boot with code := 0x86, unit := BitVec.ofNat 3 die, coldNext := true } }

/-! ## Mailboxes (R256) -/

/-- MAILBOX_MESSAGE: not acknowledged, and so kept outside, while the page's queue of 32 is full. -/
def execMailboxMessage (page : Nat) (msg : List Byte) (s : State) : Host.Outcome State Fault Refusal :=
  let m := (s.mail.get page).getD { sid := none, queue := [] }
  .next (if page < 64 ∧ msg.length = 128 ∧ m.queue.length < 32 then { s with mail := s.mail.set page { m with queue := m.queue ++ [msg] } } else s)

def execBadMailboxWrite (page : Nat) (s : State) : Host.Outcome State Fault Refusal :=
  .next (if page < 64 then { s with boot := s.boot.countBad } else s)

/-! ## Control messages (R258, R417) -/

/-- A value that the spec does not state (DESIGN CHOICE, LOG 11). -/
def State.openValue (s : State) : Nat := (Config.freeValue (s.freeTick * 2 ^ 48 + 2 ^ 44)).toNat

/-- A control event: what the message of this kind at the head of the page's queue does; nothing without one. -/
def State.control (s : State) (page kind : Nat) (k : List Byte → State) : Host.Outcome State Fault Refusal :=
  match s.ctrlMsg page kind with
  | some m => .next (k m)
  | none => .next s

/-- A message refused with a cause; its reply's VALUE is not stated (DESIGN CHOICE, LOG 11). -/
def State.refuse (s : State) (page : Nat) (c : Cause) : State := s.ctrlDone page c s.openValue
/-- A message performed; its reply's VALUE is not stated (DESIGN CHOICE, LOG 11). -/
def State.performed (s : State) (page : Nat) : State := s.ctrlDone page 0 s.openValue

/-- A table's device address (R417). -/
def deviceAddrOk (a : Nat) : Bool := a % 64 == 0 && decide (a < 512 * 2 ^ 30)

/-- CTRL_SPACE. -/
def execCtrlSpace (page : Nat) (s : State) : Host.Outcome State Fault Refusal :=
  s.control page 0x01 fun m =>
    let sid := msgAt m 8 2 % 4096
    let a (i : Nat) : Nat := msgAt m (16 + 8 * i) 8
    let out := msgAt m 72 8
    let nobj := msgAt m 12 4
    if (s.spaces.get sid).isSome ∨ nobj = 0 ∨ 2 ^ 24 < nobj ∨ ! ((List.range 7).all fun i => deviceAddrOk (a i)) ∨ out % 4096 ≠ 0 then
      s.refuse page 0x02
    else
      let sp : Space := { gen := BitVec.ofNat 8 (msgAt m 10 1), nobj := nobj, objTab := a 0, taskTab := a 1, barTab := #v[a 2, a 3, a 4, a 5],
                          hdlTab := a 6, outPage := out, seq := 0, unacked := 0, heldOut := [], lost := false }
      ({ s with spaces := s.spaces.set sid sp }).performed page

/-- Every frame that a test on its task selects is killed by the host, live or saved (R40). -/
def State.killTasks (s : State) (sel : Task → Bool) : State :=
  let live := (s.frames.filter fun (p : (Nat × Nat) × Frame) => sel p.2.task).map (·.1)
  let kept := (s.saved.filter fun v => sel v.frame.task).map fun v => (v.core, v.frm)
  let s := live.foldl (fun s k => s.kill k.1 k.2 s.hostKill) s
  kept.foldl (fun s k => s.killSaved k.1 k.2 s.hostKill) s

/-- Every object-cache, extent-cache and walk-record entry of a space invalidated (R93). -/
def State.forgetSpace (s : State) (sid : Nat) : State :=
  let s := s.evict fun e => e.sid == sid
  { s with walks := s.walks.filter (fun w => w.sid != sid),
           objCache := s.objCache.map fun (p : Nat × List ObjLine) => (p.1, p.2.filter fun e => e.sid != sid) }

/-- CTRL_RETIRE (R93): frames of the space are killed; once they have ended, the space stays installed with its next generation. -/
def execCtrlRetire (page : Nat) (s : State) : Host.Outcome State Fault Refusal :=
  s.control page 0x02 fun m =>
    let sid := msgAt m 8 2 % 4096
    match s.spaces.get sid with
    | none => s.refuse page 0x02
    | some sp =>
      let mine (t : Task) : Bool := spaceSid t.space == sid
      let s := s.killTasks mine
      let s := (s.saved.filter fun v => mine v.frame.task).foldl (fun s v => s.endSaved v.core v.frm) s
      if s.frames.any fun (p : (Nat × Nat) × Frame) => mine p.2.task then s
      else
        let gen := sp.gen + 1
        let s := { s with spaces := s.spaces.map fun (p : Nat × Space) => if p.1 = sid then (p.1, { p.2 with gen := gen }) else p }
        let s := if gen = 0 then s.forgetSpace sid else s
        s.performed page

/-- CTRL_BINDPAGE: the three refusals are told apart by VALUE (R258). -/
def execCtrlBindpage (page : Nat) (s : State) : Host.Outcome State Fault Refusal :=
  s.control page 0x03 fun m =>
    let p := msgAt m 8 1
    let sid := msgAt m 10 2 % 4096
    let box := (s.mail.get p).getD { sid := none, queue := [] }
    if 64 ≤ p then s.ctrlDone page 0x02 3
    else if box.queue.any (fun q => ! isControl q) then s.ctrlDone page 0x02 1
    else if sid ≠ 0xFFF ∧ (s.spaces.get sid).isNone then s.ctrlDone page 0x02 2
    else ({ s with mail := s.mail.set p { box with sid := if sid = 0xFFF then none else some sid } }).performed page

/-- The check of a host access to an object's bytes: R84's object and bounds. -/
def State.hostRange (s : State) (sid obj off n : Nat) : Option Cause :=
  if (s.objEntry sid obj).isNone then some 0x10
  else if s.objSize sid obj < off + n ∨ (granuleStarts off n).any (fun o => (s.place sid obj o).isNone) then some 0x11
  else none

/-- CTRL_HCOPY (R258). -/
def execCtrlHcopy (page : Nat) (s : State) : Host.Outcome State Fault Refusal :=
  s.control page 0x04 fun m =>
    let sid := msgAt m 8 2 % 4096
    let dir := msgAt m 10 1
    let obj := msgAt m 12 3
    let off := msgAt m 16 8
    let host := msgAt m 24 8
    let n := msgAt m 32 4
    if n < 64 ∨ 2 ^ 30 < n ∨ n % 64 ≠ 0 ∨ 2 ≤ dir ∨ off % 64 ≠ 0 ∨ host % 64 ≠ 0 then s.refuse page 0x02 else
    match s.hostRange sid obj off n with
    | some c => s.refuse page c
    | none =>
      if dir = 0 ∧ s.derivedObj sid obj off then s.refuse page 0x29 else
      match s.devTouch 0 sid obj off n (dir == 1) with
      | none => s
      | some s1 =>
        let t : Target := .dev sid obj off
        if dir = 0 then
          if s1.markHeld [(sid, obj, off, n)] then s else
          ((((s1.markStep [(sid, obj, off, n)]).toWrite t n).mend t n).put t (memRead s1.hostMem host n)).performed page
        else if s1.readBad sid obj off n then (s1.unc t n).1.refuse page 0x41
        else (s1.hostWrite host (s1.devRead sid obj off n)).performed page

/-- Store lines loaded from an image. -/
def loadLines (m : Assoc Nat (BitVec 512)) (first : Nat) (lines : List (BitVec 512)) : Assoc Nat (BitVec 512) :=
  lines.zipIdx.foldl (fun m p => Assoc.set m (first + p.2) p.1) m

/-- The cores that a mask in host memory names, in rising order (R417). -/
def State.coreMask (s : State) (host : Nat) : List Nat :=
  let w := leNat (memRead s.hostMem host 144)
  (List.range 1152).filter fun c => w.testBit c

/-- CTRL_LOADSTORE (R258, R417). -/
def execCtrlLoadstore (page : Nat) (s : State) : Host.Outcome State Fault Refusal :=
  s.control page 0x05 fun m =>
    let sid := msgAt m 8 2 % 4096
    let target := msgAt m 10 1
    let obj := msgAt m 12 3
    let off := msgAt m 16 8
    let first := msgAt m 24 2
    let n := msgAt m 26 2
    let tv := msgAt m 28 2
    let host := msgAt m 40 8
    let size := if target = 2 then 4096 else 256
    if 4 ≤ target ∨ off % 64 ≠ 0 ∨ n = 0 ∨ size < first + n ∨ (target = 3 ∧ first < 32) ∨ (target < 2 ∧ host % 64 ≠ 0) then s.refuse page 0x02 else
    match s.hostRange sid obj off (64 * n) with
    | some c => s.refuse page c
    | none =>
      match s.devTouch 0 sid obj off (64 * n) true with
      | none => s
      | some s1 =>
        if s1.readBad sid obj off (64 * n) then (s1.unc (.dev sid obj off) (64 * n)).1.refuse page 0x41 else
        let lines := (List.range n).map fun i => leLine (s1.devRead sid obj (off + 64 * i) 64)
        let tvec (old : BitVec 12) : BitVec 12 := if 2 ^ 15 ≤ tv then old else BitVec.ofNat 12 tv
        let s2 := match target with
          | 0 => (s1.coreMask host).foldl (fun (s : State) c =>
              let k := s.coreOf c
              s.setCore c { k with lstore := loadLines k.lstore first lines, ltvec := tvec k.ltvec }) s1
          | 1 => (s1.coreMask host).foldl (fun (s : State) c =>
              let k := s.coreOf c
              s.setCore c { k with sstore := loadLines k.sstore first lines, stvec := tvec k.stvec }) s1
          | 2 => ((List.range 24).filter fun c => (msgAt m 32 4).testBit c).foldl (fun (s : State) c =>
              let k := s.clusterAt c
              s.setCluster c { k with store := loadLines k.store first lines, tvec := tvec k.tvec }) s1
          | _ => { s1 with handlerStore := loadLines s1.handlerStore first lines }
        s2.performed page

/-! ## KILL (R40, R415) -/

/-- One discarded item of a job that had been counted as sent (R415 step 3). -/
def Job.discard (j : Job) (n : Nat) : Job := { j with received := j.received + n, failed := j.failed + n }

/-- The records of a job that wait in a cluster, discarded: their number. -/
def State.discardQueued (s : State) (n cl : Nat) : State × Nat :=
  let c := s.clusterAt cl
  let mine (t : Task) : Bool := t.job == n
  let seqs := c.levels.toList.zipIdx.flatMap fun l => (l.1.entries.filter fun e => mine e.task).map fun e => (l.2, e.seq)
  let s := seqs.foldl (fun s q => s.takeEntry cl q.1 q.2) s
  let c := s.clusterAt cl
  let flying := (c.arriving.filter fun t => mine t.2).length
  let ready := (c.conts.filter fun (p : Nat × Cont) => p.2.ready && (match p.2.live with | some (_, _, _, j) => j == n | none => false)).map (·.1)
  let s := s.setCluster cl { c with arriving := c.arriving.filter fun t => ! mine t.2,
                                    reserved := match c.reserved with
                                      | some r => if seqs.contains r then none else some r
                                      | none => none }
  (ready.foldl (fun s k => s.dropCont cl k) s, seqs.length + flying + ready.length)

/-- The records of a job in the proxy shadows, discarded: their number, and of it those that a link's peer owed. -/
def State.discardShadows (s : State) (n : Nat) : State × Nat :=
  let mine (e : ProxyEntry) : Bool := match e.task with | some t => t.job == n | none => false
  let count := (s.proxies.map fun (p : (Nat × ProxyDest) × List ProxyEntry) => (p.2.filter mine).length).sum
  let owed (j : Job) : Job := s.proxies.foldl (fun (j : Job) (p : (Nat × ProxyDest) × List ProxyEntry) => match p.1.2 with
    | .link k => { j with owed := j.owed.set (2 * k) ((j.owed.get (2 * k)).getD 0 - (p.2.filter mine).length) }
    | .die _ => j) j
  (({ s with proxies := s.proxies.map fun (p : (Nat × ProxyDest) × List ProxyEntry) => (p.1, p.2.filter fun e => ! mine e) }).updJob n owed, count)

/-- What peers still owe a job over links that a test selects is taken as received, its records as failed (R266, R415 step 5). -/
def Job.writeOff (j : Job) (sel : Nat → Bool) : Job :=
  let mine := j.owed.filter fun (p : Nat × Nat) => sel (p.1 / 2)
  { j with received := j.received + (mine.map (·.2)).sum, failed := j.failed + ((mine.filter fun (p : Nat × Nat) => p.1 % 2 == 0).map (·.2)).sum,
           owed := j.owed.filter fun (p : Nat × Nat) => ! sel (p.1 / 2) }

/-- One job ended by the host (R415). -/
def State.killJob (s : State) (n : Nat) : State :=
  match s.jobs.get n with
  | none => s
  | some j =>
    let left := Card.count j.card - j.dealt
    let s := s.updJob n fun x => { x with killed := true, sweep := none }
    let s := s.killTasks fun t => t.job == n
    let s := (s.saved.filter fun v => v.frame.task.job == n).foldl (fun s v => s.endSaved v.core v.frm) s
    let r := (List.range 24).foldl (fun (acc : State × Nat) cl => let q := acc.1.discardQueued n cl; (q.1, acc.2 + q.2)) (s, 0)
    let q := r.1.discardShadows n
    let gone := r.2 + q.2 + (j.chunks.map fun c => c.2.2).sum
    -- a waiting continuation has not been sent: it counts as failed alone
    let conts := q.1.jobConts n
    let s := conts.foldl (fun s k => s.dropCont k.1 k.2.1) q.1
    let unsent := left + conts.length
    let s := s.updJob n fun x => let y := x.discard gone; { y with failed := y.failed + unsent, chunks := [] }
    let s := if gone + unsent = 0 then s else
      s.errorRecord (spaceSid j.space) { cause := 0x00, addr := BitVec.ofNat 64 (gone + unsent), job := Card.jobWord j.card }
    s.updJob n fun x => x.writeOff fun _ => true

/-- CTRL_KILL_JOB (R258, R415). A WHAT of 3 and above is refused. -/
def execCtrlKillJob (page : Nat) (s : State) : Host.Outcome State Fault Refusal :=
  s.control page 0x06 fun m =>
    if 3 ≤ msgAt m 8 1 then s.refuse page 0x02
    else if msgAt m 8 1 ≠ 0 then s
    else
      let hit (j : Job) : Bool := j.mirror.isNone && spaceSid j.space == msgAt m 10 2 % 4096 && CapF.obj (Card.doneword j.card) == msgAt m 12 3 &&
        CapF.base (Card.doneword j.card) == msgAt m 16 8
      (((s.jobs.filter fun (p : Nat × Job) => hit p.2).map (·.1)).foldl State.killJob s).performed page

/-- CTRL_KILL_FRAME (R40). -/
def execCtrlKillFrame (page : Nat) (s : State) : Host.Outcome State Fault Refusal :=
  s.control page 0x06 fun m =>
    if msgAt m 8 1 ≠ 1 then s
    else
      let (core, frm) := (msgAt m 24 2, msgAt m 26 1)
      if 1152 ≤ core ∨ 4 ≤ frm then s.refuse page 0x02
      else (s.kill core frm s.hostKill).performed page

/-- CTRL_KILL_SID (R258). -/
def execCtrlKillSid (page : Nat) (s : State) : Host.Outcome State Fault Refusal :=
  s.control page 0x06 fun m =>
    if msgAt m 8 1 ≠ 2 then s
    else (s.killTasks fun t => spaceSid t.space == msgAt m 10 2 % 4096).performed page

/-! ## PREEMPT and RESTORE (R258) -/

/-- A save-area check's outcome, by R352's order. -/
def State.areaOr (s : State) (sid : Nat) (cap : Cap) (off n : Nat) (need : Needs) : Cause ⊕ Target :=
  match s.areaChk (s.spaceValue sid) cap (.b 0) (BitVec.ofNat 64 off) n need with
  | .ok t => .inr t
  | .error (.trap c _ _) => .inl c
  | .error _ => .inl 0x02

/-- A capability that a message carries is read as tagged (R417). -/
def msgCap (m : List Byte) (i : Nat) : Cap := capOf (m.drop i |>.take 16) true

/-- Has a pre-emption or a restore been begun for the page's message? -/
def State.pageBusy (s : State) (page : Nat) : Bool := s.preempts.any fun (p : Nat × Preempt) => p.2.page == some page

/-- CTRL_PREEMPT: as FSAVE; the message is performed when the save is (FRAME_SAVE_COMPLETE, PREEMPT_ABANDON). -/
def execCtrlPreempt (page : Nat) (s : State) : Host.Outcome State Fault Refusal :=
  s.control page 0x07 fun m =>
    if s.pageBusy page then s else
    let sid := msgAt m 8 2 % 4096
    let (core, frm) := (msgAt m 10 2, msgAt m 12 1)
    if 1152 ≤ core ∨ 4 ≤ frm then s.refuse page 0x02 else
    let size := match s.frames.get (core, frm) with
      | some fr => tdGw fr.tdesc * areaBytes (tdSdem fr.tdesc)
      | none => 64
    match s.areaOr sid (msgCap m 16) (msgAt m 32 8) size { w := true, l := true } with
    | .inl c => s.refuse page c
    | .inr area =>
      match s.frames.get (core, frm) with
      | none => s.ctrlDone page 0x14 0
      | some fr =>
        let fs := s.domainFrames fr core frm
        if fs.any s.saving then s.ctrlDone page 0x14 0 else
        let p : Preempt := { op := none, page := some page, save := true, frames := fs, target := core, area := area, t0 := s.clock }
        State.noteDrained { s with preempts := s.preempts.set s.nextId p, nextId := s.nextId + 1 }

/-- CTRL_RESTORE: as FREST; the message is performed when the restore is (FRAME_RESTORE_BIND). -/
def execCtrlRestore (page : Nat) (s : State) : Host.Outcome State Fault Refusal :=
  s.control page 0x08 fun m =>
    if s.pageBusy page then s else
    let sid := msgAt m 8 2 % 4096
    let core := msgAt m 10 2
    let (cap, off) := (msgCap m 16, msgAt m 32 8)
    let need : Needs := { r := true, l := true }
    if 1152 ≤ core then s.refuse page 0x02 else
    match s.areaOr sid cap off 256 need with
    | .inl c => s.refuse page c
    | .inr t =>
      match s.touch 0 t 256 true with
      | none => s
      | some s1 =>
        if s1.badAt t 256 then (s1.unc t 256).1.refuse page 0x41 else
        let h := areaHead (s1.bytesAt t 256)
        match s1.headCause t h core with
        | some c => s1.refuse page c
        | none =>
          let td := s1.areaType t h
          match s1.areaOr sid cap off (tdGw td * areaBytes (tdSdem td)) need with
          | .inl c => s1.refuse page c
          | .inr _ =>
            let p : Preempt := { op := none, page := some page, save := false, frames := [], target := core, area := t, t0 := s1.clock }
            { s1 with preempts := s1.preempts.set s1.nextId p, nextId := s1.nextId + 1 }

/-! ## The remaining kinds -/

/-- CTRL_LAUNCHPAGE_REGISTER (R228). A stack, page or OP outside R417 is refused. -/
def execCtrlLaunchpageRegister (page : Nat) (s : State) : Host.Outcome State Fault Refusal :=
  s.control page 0x09 fun m =>
    if 8 ≤ msgAt m 8 1 ∨ 8 ≤ msgAt m 9 1 ∨ 2 ≤ msgAt m 10 1 then s.refuse page 0x02
    else if msgAt m 10 1 = 0 then s
    else
      let p : LaunchPage := { sid := msgAt m 12 2 % 4096, obj := msgAt m 16 3, cap := msgCap m 32, argp := 0, sel := 0, lstat := 0, fault := none }
      ({ s with pages := s.pages.set (8 * msgAt m 8 1 + msgAt m 9 1) p }).performed page

/-- CTRL_LAUNCHPAGE_REMOVE (R228). -/
def execCtrlLaunchpageRemove (page : Nat) (s : State) : Host.Outcome State Fault Refusal :=
  s.control page 0x09 fun m =>
    if 8 ≤ msgAt m 8 1 ∨ 8 ≤ msgAt m 9 1 ∨ msgAt m 10 1 ≠ 0 then s
    else ({ s with pages := s.pages.del (8 * msgAt m 8 1 + msgAt m 9 1) }).performed page

/-- CTRL_COLDIDLE (R233). -/
def execCtrlColdidle (page : Nat) (s : State) : Host.Outcome State Fault Refusal :=
  s.control page 0x0A fun m => ({ s with boot := { s.boot with coldIdle := BitVec.ofNat 32 (msgAt m 8 4) } }).performed page

/-- Held entries go to the ring while it has room (R259). -/
def State.outFill : Nat → State → Nat → State
  | 0, s, _ => s
  | n + 1, s, sid =>
    match s.spaces.get sid with
    | none => s
    | some sp =>
      match sp.heldOut with
      | e :: es => if sp.unacked < 64 then State.outFill n (s.outWrite sid { sp with heldOut := es } e) sid else s
      | [] => s

/-- CTRL_ACKOUT (R259). -/
def execCtrlAckout (page : Nat) (s : State) : Host.Outcome State Fault Refusal :=
  s.control page 0x0B fun m =>
    let sid := msgAt m 8 2 % 4096
    let n := msgAt m 12 4
    match s.spaces.get sid with
    | none => s.refuse page 0x02
    | some sp =>
      if n = 0 ∨ 64 < n then s.refuse page 0x02 else
      let sp := { sp with unacked := sp.unacked - n }
      let s := { s with spaces := s.spaces.set sid sp, interrupts := if sp.unacked = 0 then s.interrupts else s.interrupts ++ [sid % 64] }
      (State.outFill 64 s sid).performed page

/-- CTRL_LINK (R258, R265): without feature bit 8 the links stay down. -/
def execCtrlLink (page : Nat) (s : State) : Host.Outcome State Fault Refusal :=
  s.control page 0x0C fun m =>
    let own := msgAt m 8 1
    let size := msgAt m 9 1
    if 64 ≤ own ∨ size = 0 ∨ 64 < size then s.refuse page 0x02 else
    let links := Vector.ofFn (n := 16) fun i =>
      let on := (msgAt m 12 2).testBit i.val && s.feature 8
      { s.links[i.val] with state := if on then 1 else 0, peer := BitVec.ofNat 8 (msgAt m (16 + i.val) 1) }
    ({ s with links := links, boot := { s.boot with ownPkg := BitVec.ofNat 8 own, podSize := BitVec.ofNat 8 size,
                                                    successor := BitVec.ofNat 8 (msgAt m 10 1), tokTime := s.clock } }).performed page

/-- Bytes of a big-endian value. -/
def beBytes (n v : Nat) : List Byte := (bytesOf n v).reverse

/-- The report's first 128 bytes (R264). The two digests stand most significant byte first (DESIGN CHOICE, LOG 103). -/
def State.report (s : State) (nonce : List Byte) : List Byte :=
  let fw := s.boot.hash.getD 0
  let rom := Config.sha256 ((List.range 32).flatMap fun n => bytesOf 64 ((s.handlerStore.get n).getD 0).toNat)
  bytesOf 2 1 ++ bytesOf 2 0 ++ bytesOf 4 s.boot.starts.toNat ++ nonce ++ beBytes 32 fw.toNat ++ beBytes 32 rom.toNat ++
    bytesOf 8 (s.boot.accept[0]).toNat ++ bytesOf 8 Config.serial.toNat ++ bytesOf 8 s.boot.path.toNat

/-- CTRL_ATTEST (R264). -/
def execCtrlAttest (page : Nat) (s : State) : Host.Outcome State Fault Refusal :=
  s.control page 0x0D fun m =>
    let host := msgAt m 40 8
    if host % 64 ≠ 0 then s.refuse page 0x02 else
    let body := s.report (m.drop 8 |>.take 32)
    let sig := beBytes 64 (Config.ecdsaSign (Config.sha256 body)).toNat
    (s.hostWrite host (body ++ sig ++ List.replicate 64 0)).ctrlDone page 0 256

/-- CTRL_UNKNOWN_KIND (R258). -/
def execCtrlUnknownKind (page : Nat) (s : State) : Host.Outcome State Fault Refusal :=
  match s.boot.locked, s.pageHead page with
  | true, some m => .next (if isControl m ∧ (msgKind m = 0 ∨ 0x0D < msgKind m) then s.refuse page 0x01 else s)
  | _, _ => .next s

end Sys2Proof.Machine
end

