-- ==== Sys2Proof/Machine/Pod.lean ====
section
/-! DEFINITION. Gleit links, mirror jobs and the milestone token (spec/15_host_pod.md R265 to R267; spec/11_ordering.md R202;
spec/04_scheduling.md R67). Entries and tokens that come from other packages are the events' arguments. An event that is not enabled
changes nothing (DESIGN CHOICE, LOG 20). -/

namespace Sys2Proof.Machine

/-! ## Links (R265, R202) -/

def State.setLink (s : State) (n : Nat) (l : Link) : State := { s with links := s.links.set! n l }

/-- A link event's body (R259). -/
def linkEvent (n : Nat) (st : BitVec 2) : BitVec 256 := BitVec.ofNat 256 (n % 256 + st.toNat * 2 ^ 8)

/-- LINK_TRAINING_COMPLETE (R265). -/
def execLinkTrainingComplete (link : Nat) (s : State) : Host.Outcome State Fault Refusal :=
  match s.links.toList[link]? with
  | some l => .next (if l.state = 1 then (s.setLink link { l with state := 2 }).toSpaces 4 (linkEvent link 2) else s)
  | none => .next s

/-- The home's replay filter answers a request that it has applied (R202): with the reply it returned, and with no second application. -/
def State.replayAnswer (s : State) (req : Nat) (r : AtomReq) : State :=
  match s.replay.find? fun e => e.home == s.homeOf r.t && e.source == r.source && e.id == r.rid with
  | some e => if r.applied then s else s.endAtom req r (some e.reply)
  | none => s

/-- LINK_REPLAY (R202, R265): a request or reply that crosses the link goes again under its id; RETRY saturates. -/
def execLinkReplay (link : Nat) (req : Nat) (s : State) : Host.Outcome State Fault Refusal :=
  match s.links.toList[link]? with
  | some l =>
    if l.state ≠ 2 then .next s else
    let s := s.setLink link { l with retry := if l.retry = 0xFFFFFFFF then l.retry else l.retry + 1 }
    .next (match s.atoms.get req with
      | some r => if r.link = some link then s.replayAnswer req r else s
      | none => s)
  | none => .next s

/-- A request whose link has failed (R202): its outcome is unknown, its destination is not written, and its context receives 0x42. -/
def State.loseAtom (s : State) (link n : Nat) : State :=
  match s.atoms.get n with
  | none => s
  | some r =>
    let s := s.endAtom n r none
    match r.who with
    | .ctx c => s.send [(c, ⟨0x42, r.t.eaddr, BitVec.ofNat 32 link⟩)]
    | .handler _ => s

/-- Every atomic outstanding across a link, those merged into it with it (R202). -/
def State.linkAtoms (s : State) (link : Nat) : List Nat :=
  (s.atoms.filter fun p => p.2.link == some link).flatMap fun p => p.2.record p.1

/-- What one job loses when a link fails (R266): one error record for the records written off. -/
def State.linkLoss (s : State) (link n : Nat) (j : Job) : State :=
  let recs := (j.owed.get (2 * link)).getD 0
  let s := s.updJob n fun x => x.writeOff fun k => k == link
  if recs = 0 then s else
  s.errorRecord (spaceSid j.space) { cause := 0x42, addr := BitVec.ofNat 64 recs, job := s.jobWord n }

/-- LINK_FAILURE (R202, R251, R265, R266): counted and logged; its atomics complete with 0x42; what crossed the link and is owed is written
off, and a mirror of its peer returns to no link. -/
def execLinkFailure (link : Nat) (s : State) : Host.Outcome State Fault Refusal :=
  match s.links.toList[link]? with
  | none => .next s
  | some l =>
    if l.state ≠ 2 then .next s else
    let s := (s.setLink link { l with state := 3 }).countUnc 0x42 (0x6000 + link) l.seqNo
    let s := s.toSpaces 4 (linkEvent link 3)
    let s := (s.linkAtoms link).foldl (fun s n => s.loseAtom link n) s
    let s := s.jobs.foldl (fun (s : State) (p : Nat × Job) => s.linkLoss link p.1 p.2) s
    let mirror (j : Job) : Job := match j.mirror with
      | some (a, b, k) => if k = link then { j with mirror := some (a, b, 16) } else j
      | none => j
    .next { s with jobs := s.jobs.map fun (p : Nat × Job) => (p.1, mirror p.2),
                   decs := s.decs.filter fun d => match d.stuck with | some q => q.2 != .link link | none => true,
                   proxies := s.proxies.filter fun (p : (Nat × ProxyDest) × List ProxyEntry) => p.1.2 != .link link }

/-! ## Mirror jobs (R266) -/

/-- The fields of an entry that came over a link (R67). -/
def entRec (e : BitVec 256) : BitVec 128 := e.extractLsb' 0 128
def entCid (e : BitVec 256) : Word := e.extractLsb' 128 64
def entKind (e : BitVec 256) : Nat := (e.extractLsb' 192 8).toNat
def entLevel (e : BitVec 256) : Nat := (e.extractLsb' 200 3).toNat
def entDef (e : BitVec 256) : Bool := e.getLsbD 203
def entCluster (e : BitVec 256) : Nat := (e.extractLsb' 208 8).toNat
def entJob (e : BitVec 256) : Nat := (e.extractLsb' 216 8).toNat
def entPkg (e : BitVec 256) : Nat := (e.extractLsb' 224 8).toNat

/-- The space of a mirror's tasks: an entry carries none, so its SPACE is a free value (DESIGN CHOICE, LOG 11). -/
def State.mirrorSpace (s : State) : Word := (Config.freeValue (s.freeTick * 2 ^ 48 + 2 ^ 42)) &&& 0xFFFFF

/-- The mirror job of a sender's job, matched by JOB and SRCPKG, made when its first entry arrives. None while every job slot is taken. -/
def State.mirrorOf (s : State) (link : Nat) (e : BitVec 256) : Option (Nat × State) :=
  match s.jobs.find? fun (p : Nat × Job) => (p.2.mirror.map fun m => (m.1, m.2.1)) == some (entPkg e, entJob e) with
  | some p => some (p.1, s)
  | none =>
    s.freeJob.map fun n =>
      let j : Job := { card := 0, space := s.mirrorSpace, stage := .running, lease := [], dealt := 0, sent := 0, received := 0, done := 0,
                       failed := 0, sweep := none, killed := false, mirror := some (entPkg e, entJob e, link), owed := [], touched := [],
                       extNo := 0 }
      (n, { s with jobs := s.jobs.set n j })

/-- MIRROR_ENTRY_ARRIVAL (R266): a record goes on to its cluster, a decrement to its continuation's; the mirror counts it as sent. -/
def execMirrorEntryArrival (link : Nat) (entry : BitVec 256) (s : State) : Host.Outcome State Fault Refusal :=
  match s.links.toList[link]? with
  | none => .next s
  | some l =>
    if l.state ≠ 2 ∨ 3 ≤ entKind entry ∨ 24 ≤ entCluster entry then .next s else
    match s.mirrorOf link entry with
    | none => .next s
    | some (n, s) =>
      let space := match s.jobs.get n with | some j => j.space | none => 0
      let s := s.updJob n fun j => { j with dealt := j.dealt + 1, sent := j.sent + 1, sweep := none }
      if entKind entry = 1 then
        .next { s with decs := s.decs ++ [{ cid := entCid entry, job := some n, sid := spaceSid space, jobWord := s.jobWord n }] }
      else
        let stolen := entKind entry == 2
        let free (k : Nat) : Word := Config.freeValue (s.freeTick * 2 ^ 48 + 2 ^ 42 + k)
        let level := if entDef entry then tdPrio (s.taskEntry space (recType (entRec entry))) else entLevel entry
        let t : Task :=
          { bytes := entRec entry, level := level % 8, index := if stolen then (free 1).extractLsb' 0 32 else 0xFFFFFFFF, job := n,
            parent := entCid entry, kind := if stolen then .job else .spawned,
            b1 := if stolen then BitVec.ofNat 128 ((free 2).toNat + (free 3).toNat * 2 ^ 64) else 0, space := space }
        let c := s.clusterAt (entCluster entry)
        .next (s.setCluster (entCluster entry) { c with arriving := c.arriving ++ [(none, t)] })

/-- MIRROR_RETURN (R266): counts still owed over the link are received, and the mirror's done and failed counts added; a return that nothing is
owed for is discarded. -/
def execMirrorReturn (link : Nat) (entry : BitVec 256) (s : State) : Host.Outcome State Fault Refusal :=
  if entKind entry ≠ 3 then .next s else
  match s.jobs.get (entJob entry) with
  | none => .next s
  | some j =>
    let a := leAt (bytesOf 16 (entRec entry).toNat) 0 4
    let done := leAt (bytesOf 16 (entRec entry).toNat) 4 4
    let failed := leAt (bytesOf 16 (entRec entry).toNat) 8 4
    let recs := (j.owed.get (2 * link)).getD 0
    let decs := (j.owed.get (2 * link + 1)).getD 0
    if recs + decs = 0 then .next s else
    let owed := (j.owed.set (2 * link) (recs - a)).set (2 * link + 1) (decs - (a - recs))
    .next (s.updJob (entJob entry) fun x =>
      { x with received := x.received + min a (recs + decs), done := x.done + done, failed := x.failed + failed, owed := owed })

/-! ## The milestone token (R267) -/

def tokNpkg (t : List Byte) : Nat := leAt t 0 2
def tokEpochOf (t : List Byte) : BitVec 16 := BitVec.ofNat 16 (leAt t 2 2)
def tokQueued (t : List Byte) (i : Nat) : Nat := leAt t (16 + 8 * i) 4
def tokFree (t : List Byte) (i : Nat) : Nat := leAt t (20 + 8 * i) 2
def tokSteal (t : List Byte) (i : Nat) : Nat := leAt t (22 + 8 * i) 1

/-- Bytes of a token replaced. -/
def tokPut (t : List Byte) (i : Nat) (bs : List Byte) : List Byte := t.take i ++ bs ++ t.drop (i + bs.length)

/-- The records held at all levels, on chip and spilled. -/
def State.queuedAll (s : State) : Nat := ((List.range 24).map fun c => ((s.clusterAt c).levels.toList.map Level.size).sum).sum

/-- The free frames of the package. -/
def State.freeFrames (s : State) : Nat := 4 * 1152 - s.frames.length

/-- May a record be stolen: not PINNED, nor of a card with FLAGS[1]? -/
def State.stealable (s : State) (e : QEntry) : Bool :=
  ! recPinned e.task.bytes && (match s.jobs.get e.task.job with | some j => ! Card.pinned j.card | none => true)

/-- The next record to steal: dealer sources, the highest level first, of the dies whose shadow of the link has room (R67). -/
def State.stealNext (s : State) (d : ProxyDest) : Option (Nat × Nat × QEntry) :=
  [7, 6, 5, 4, 3, 2, 1, 0].findSome? fun n => (List.range 24).findSome? fun c =>
    if ! s.shadowRoom (dieOfCluster c, d) then none else (((s.clusterAt c).level n).dealer.find? s.stealable).map fun e => (c, n, e)

/-- Up to k records forwarded to a package (R267, R67). -/
def State.steal (s : State) (pkg : Nat) : Nat → State
  | 0 => s
  | k + 1 =>
    let d := ProxyDest.link (s.linkTo pkg)
    match s.stealNext d with
    | none => s
    | some (c, n, e) =>
      let t := e.task
      let s := s.takeEntry c n e.seq
      let x := s.clusterAt c
      let s := s.setCluster c { x with reserved := if x.reserved = some (n, e.seq) then none else x.reserved }
      let img := proxyImage t.bytes t.parent 2 n false c t.job s.boot.ownPkg.toNat
      State.steal ((s.oweLink t.job d true).pushShadow (dieOfCluster c) d { bytes := img, task := some t, dec := none }) pkg k

/-- What a package does on a pass, in order (R267): the state, and the token as it goes on. -/
def State.passToken (s : State) (tok : List Byte) : State × List Byte :=
  let s := (List.range 24).foldl State.readRings s
  let own := s.boot.ownPkg.toNat
  let n := tokNpkg tok
  let q := min s.queuedAll (2 ^ 32 - 1)
  let tok := tokPut tok (16 + 8 * own) (bytesOf 4 q ++ bytesOf 2 s.freeFrames)
  let one (acc : State × List Byte) (i : Nat) : State × List Byte :=
    if i = own ∨ tokSteal acc.2 i ≠ own then acc
    else (acc.1.steal i (min (q / 2) (tokFree acc.2 i)), tokPut acc.2 (22 + 8 * i) (bytesOf 1 0xFF))
  let (s, tok) := (List.range n).foldl one (s, tok)
  let best := ((List.range n).filter fun i => i != own && decide (256 ≤ tokQueued tok i)).foldl (fun (b : Option Nat) i => match b with
    | none => some i
    | some k => if tokQueued tok k < tokQueued tok i then some i else some k) none
  let tok := if q * 4 < s.freeFrames ∧ tokSteal tok own = 0xFF then
      (match best with | some i => tokPut tok (22 + 8 * own) (bytesOf 1 i) | none => tok) else tok
  (s, tok)

/-- A token seen: EPOCH and the passes in TOKST, and the token as sent on. -/
def State.holdToken (s : State) (tok : List Byte) : State :=
  let r := s.passToken tok
  { r.1 with boot := { r.1.boot with tokEpoch := tokEpochOf tok, tokPasses := r.1.boot.tokPasses + 1, token := r.2, tokTime := s.clock } }

/-- TOKEN_PASS (R267): a token of an older EPOCH is discarded. -/
def execTokenPass (tok : List Byte) (s : State) : Host.Outcome State Fault Refusal :=
  if ! s.boot.locked ∨ s.boot.podSize.toNat < 2 ∨ tokNpkg tok < 2 ∨ 64 < tokNpkg tok ∨ tokNpkg tok ≤ s.boot.ownPkg.toNat ∨
      tok.length < 16 + 8 * tokNpkg tok ∨ tokEpochOf tok < s.boot.tokEpoch then .next s
  else .next (s.holdToken tok)

/-- A new token (R267). -/
def freshToken (n : Nat) (epoch : BitVec 16) : List Byte :=
  bytesOf 2 n ++ bytesOf 2 epoch.toNat ++ List.replicate 12 0 ++ (List.range n).flatMap fun _ => bytesOf 6 0 ++ bytesOf 1 0xFF ++ bytesOf 1 0

/-- TOKEN_TIMEOUT (R267): package 0 makes a new token after 1 ms without one, and passes it. -/
def execTokenTimeout (s : State) : Host.Outcome State Fault Refusal :=
  let b := s.boot
  if ! b.locked ∨ b.ownPkg ≠ 0 ∨ b.podSize.toNat < 2 ∨ s.clock < b.tokTime + 1000 * b.mhz then .next s
  else .next (s.holdToken (freshToken b.podSize.toNat (b.tokEpoch + 1)))

end Sys2Proof.Machine
end

