-- ==== Sys2Proof/Machine/Scalar.lean ====
section
/-! DEFINITION. Groups 0x0 and 0x1 but LDC and STC: the scalar ALU, moves, masks and capability fields (spec/10_encoding.md R187 to
R189, spec/22_ref_a_b.md R310, R319, spec/23_ref_c_f.md R333 to R335, R342, spec/24_ref_g_m.md R367, R377). -/

namespace Sys2Proof.Machine

/-- A two-source instruction (R310): gd ← f(w, a, b). -/
def alu2 (f : Fld) (g : Nat → Word → Word → Word) : Body := fun y s =>
  let pair := s.pairView.isSome
  .ok (scalarResult s f.dst (g f.width (srcW y f pair f.sa) (srcW y f pair f.sb)))

/-- A one-source instruction: gd ← f(w, a). -/
def alu1 (f : Fld) (g : Nat → Word → Word) : Body := fun y s =>
  .ok (scalarResult s f.dst (g f.width (srcW y f s.pairView.isSome f.sa)))

/-- ACTL[4]: unsigned operation (R187). -/
def Fld.u (f : Fld) : Bool := f.imm.getLsbD 28

def execAdd (f : Fld) (s : State) : Host.Outcome State Fault Refusal := issue (.add f) {} (alu2 f aluAdd) s
def execSub (f : Fld) (s : State) : Host.Outcome State Fault Refusal := issue (.sub f) {} (alu2 f aluSub) s
def execMul (f : Fld) (s : State) : Host.Outcome State Fault Refusal := issue (.mul f) {} (alu2 f aluMul) s
def execMulh (f : Fld) (s : State) : Host.Outcome State Fault Refusal := issue (.mulh f) {} (alu2 f (aluMulh (Fld.u f))) s
def execDiv (f : Fld) (s : State) : Host.Outcome State Fault Refusal := issue (.div f) {} (alu2 f (aluDiv (Fld.u f))) s
def execRem (f : Fld) (s : State) : Host.Outcome State Fault Refusal := issue (.rem f) {} (alu2 f (aluRem (Fld.u f))) s
def execAnd (f : Fld) (s : State) : Host.Outcome State Fault Refusal := issue (.and f) {} (alu2 f aluAnd) s
def execOr (f : Fld) (s : State) : Host.Outcome State Fault Refusal := issue (.or f) {} (alu2 f aluOr) s
def execXor (f : Fld) (s : State) : Host.Outcome State Fault Refusal := issue (.xor f) {} (alu2 f aluXor) s
def execShl (f : Fld) (s : State) : Host.Outcome State Fault Refusal := issue (.shl f) {} (alu2 f aluShl) s
def execShr (f : Fld) (s : State) : Host.Outcome State Fault Refusal := issue (.shr f) {} (alu2 f aluShr) s
def execSar (f : Fld) (s : State) : Host.Outcome State Fault Refusal := issue (.sar f) {} (alu2 f aluSar) s
def execMin (f : Fld) (s : State) : Host.Outcome State Fault Refusal := issue (.min f) {} (alu2 f (aluMin (Fld.u f))) s
def execMax (f : Fld) (s : State) : Host.Outcome State Fault Refusal := issue (.max f) {} (alu2 f (aluMax (Fld.u f))) s

/-- CMP's result: 1 or 0, or every bit of a k destination (R16, R335). -/
def cmpWord (dst : Operand) (b : Bool) : Word := if b then (if dst.isK then 0xFFFFFFFFFFFFFFFF else 1) else 0

def execCmp (f : Fld) (s : State) : Host.Outcome State Fault Refusal :=
  issue (.cmp f) {} (alu2 f fun w a b => cmpWord f.dst (aluCond f.actl.toNat w a b)) s

/-- SEL (R188): a when kc[0] = 1, else b. -/
def execSel (f : Fld) (s : State) : Host.Outcome State Fault Refusal :=
  issue (.sel f) {} (fun y s => alu2 f (fun w a b =>
    zextW w (lowBits w (if (srcW y f s.pairView.isSome f.sc).getLsbD 0 then a else b))) y s) s

/-- MOVI (R188). -/
def execMovi (f : Fld) (s : State) : Host.Outcome State Fault Refusal :=
  issue (.movi f) {} (fun _ s => .ok (scalarResult s f.dst (movImm f.mod f.imm))) s

def execExt (f : Fld) (s : State) : Host.Outcome State Fault Refusal :=
  issue (.ext f) {} (alu1 f fun w a => wrapInt 64 (aluInt false w a)) s
def execClz (f : Fld) (s : State) : Host.Outcome State Fault Refusal :=
  issue (.clz f) {} (alu1 f fun w a => BitVec.ofNat 64 (clzNat w (lowBits w a))) s
def execPopc (f : Fld) (s : State) : Host.Outcome State Fault Refusal :=
  issue (.popc f) {} (alu1 f fun w a => BitVec.ofNat 64 (popNat w (lowBits w a))) s
def execBfx (f : Fld) (s : State) : Host.Outcome State Fault Refusal :=
  issue (.bfx f) {} (alu1 f fun _ a => aluBfx a f.bfPos f.bfLen) s
/-- BFI reads gd as well (R319). -/
def execBfi (f : Fld) (s : State) : Host.Outcome State Fault Refusal :=
  issue (.bfi f) {} (fun y s => alu1 f (fun w a => aluBfi w (srcW y f s.pairView.isSome f.dst) a f.bfPos f.bfLen) y s) s

/-- MOV (R377), by the classes of its operands. -/
def execMov (f : Fld) (s : State) : Host.Outcome State Fault Refusal :=
  issue (.mov f) { dyn07 := fun _ y => unbound f.sa y } (fun y s =>
    match f.dst, f.sa with
    | .b _, _ => .ok { s := s.me fun x => x.writeCap f.dst (srcC y f.sa) }
    | .h _, _ => .ok { s := s.me fun x => (x.writeHandle f.sa .empty).writeHandle f.dst (srcH y f.sa) }
    | _, .h n => do
      let w ← readHandle s (y.readH n)
      .ok (scalarResult (s.observe (y.readH n)) f.dst w)
    | _, .s n =>
      (match y.readS n with
       | none => .ok { s := s }
       | some st => do
         let (s, w, st') ← s.streamRead y st
         .ok (scalarResult (s.putStream n st st') f.dst w))
    | _, _ => .ok (scalarResult s f.dst (srcW y f s.pairView.isSome f.sa))) s

/-- KLOG (R367). -/
def execKlog (f : Fld) (s : State) : Host.Outcome State Fault Refusal :=
  issue (.klog f) {} (fun y s =>
    .ok (scalarResult s f.dst (klogOp f.imm.toNat (srcW y f s.pairView.isSome f.sa) (srcW y f s.pairView.isSome f.sb)))) s

/-- KMOV copies all 64 bits (R367). -/
def execKmov (f : Fld) (s : State) : Host.Outcome State Fault Refusal :=
  issue (.kmov f) {} (fun y s => .ok (scalarResult s f.dst (srcW y f s.pairView.isSome f.sa))) s

/-- A capability with its rights replaced (R333). -/
def capRights (c : Cap) (r : BitVec 7) : Cap := BitVec.ofBool (CapF.tag c) ++ r ++ c.extractLsb' 0 120
/-- A capability with its bounds replaced (R333). -/
def capBounds (c : Cap) (base limit : BitVec 40) : Cap := c.extractLsb' 88 40 ++ base ++ limit ++ c.extractLsb' 0 8

/-- CDROP (R333): rights cleared, TAG as it stands. -/
def execCdrop (f : Fld) (s : State) : Host.Outcome State Fault Refusal :=
  issue (.cdrop f) {} (fun y s =>
    let c := srcC y f.sa
    .ok { s := s.me fun x => x.writeCap f.dst (capRights c (CapF.rights c &&& ~~~(f.imm.extractLsb' 0 7))) }) s

/-- CNARROW's result (R333): none where 0x12 applies. -/
def narrow (c : Cap) (gb gl : Word) (rights : BitVec 7) : Option Cap :=
  if gl < gb ∨ gb.toNat < CapF.base c ∨ CapF.limit c < gl.toNat ∨ rights &&& ~~~CapF.rights c ≠ 0 then none
  else some (capRights (capBounds c (gb.extractLsb' 0 40) (gl.extractLsb' 0 40)) rights)

def execCnarrow (f : Fld) (s : State) : Host.Outcome State Fault Refusal :=
  issue (.cnarrow f) {} (fun y s =>
    let pair := s.pairView.isSome
    let c := srcC y f.sa
    if ! CapF.tag c then trap 0x10 0 (bIndex f.sa) else
    match narrow c (srcW y f pair f.sb) (srcW y f pair f.sc) (f.imm.extractLsb' 0 7) with
    | none => trap 0x12 0 (bIndex f.sa)
    | some d => .ok { s := s.me fun x => x.writeCap f.dst d }) s

/-- CGET's fields (R333). -/
def cgetField (c : Cap) (n : Nat) : Word :=
  match n with
  | 0 => BitVec.ofNat 64 (CapF.base c)
  | 1 => BitVec.ofNat 64 (CapF.limit c)
  | 2 => BitVec.ofNat 64 (CapF.obj c)
  | 3 => (CapF.rights c).zeroExtend 64
  | 4 => if CapF.tag c then 1 else 0
  | 5 => c.extractLsb' 0 64
  | _ => c.extractLsb' 64 64

def execCget (f : Fld) (s : State) : Host.Outcome State Fault Refusal :=
  issue (.cget f) {} (fun y s => .ok (scalarResult s f.dst (cgetField (srcC y f.sa) f.imm.toNat))) s

end Sys2Proof.Machine
end

