-- ==== Sys2Proof/Machine/StreamInstr.lean ====
section
/-! DEFINITION. The stream instructions of group 0x7 (spec/05_memory.md R95, R96, spec/25_ref_n_s.md R387 to R389). -/

namespace Sys2Proof.Machine

/-- A descriptor whose reserved bytes, MODE or counts are not legal (R95). -/
def descReserved (d : BitVec 256) : Bool :=
  let m := descField d 14 1
  decide (1 < m) || descField d 15 1 != 0 || descField d 28 4 != 0 ||
  (if m = 0 then descField d 8 2 == 0 || descField d 10 2 == 0 || descField d 12 2 == 0
   else descField d 10 2 == 0 || descField d 12 2 != 0)

/-- Does a local address name a core outside the issuer's cluster (R95)? -/
def State.outOfCluster (s : State) (a : Nat) : Bool :=
  match localTarget s.curCore (BitVec.ofNat 32 a) with
  | none => true
  | some (c, _, _) => clusterOf c != clusterOf s.curCore

/-- The stream of a descriptor, not yet read. -/
def Stream.ofDesc (d : BitVec 256) : Stream :=
  if descField d 14 1 = 0 then
    { src := .strided d, count := descField d 8 2 * descField d 10 2 * descField d 12 2, run := 0, pos := 0, flags := 0, ahead := [] }
  else { src := .csr d, count := 0, run := 0, pos := 0, flags := 0, ahead := [] }

/-- SBIND (R388). -/
def execSbind (f : Fld) (s : State) : Host.Outcome State Fault Refusal :=
  issue (.sbind f) {} (fun y s => do
    let (core, off) ← s.scrChk (srcW y f s.pairView.isSome f.sa) f.off24.toInt 32
    let (s, bs) ← s.loadNow y (.scr core off) 32
    let d : BitVec 256 := BitVec.ofNat 256 (leNat bs)
    if descReserved d then .error (.trapIn s 0x02 0 0x1C0)
    else if descField d 14 1 = 1 && s.outOfCluster (descField d 16 4) then .error (.trapIn s 0x14 (BitVec.ofNat 64 (descField d 16 4)) 0)
    else if descField d 14 1 = 1 && s.outOfCluster (descField d 20 4) then .error (.trapIn s 0x14 (BitVec.ofNat 64 (descField d 20 4)) 0)
    else .ok { s := s.me fun x => x.bindStream (sIndex f.dst) (Stream.ofDesc d) }) s

/-- SSKIP (R389). -/
def execSskip (f : Fld) (s : State) : Host.Outcome State Fault Refusal :=
  issue (.sskip f) { dyn07 := fun _ y => unbound f.sa y } (fun y s =>
    match srcS y f.sa with
    | none => .ok { s := s }
    | some st => do
      let n := (srcW y f s.pairView.isSome f.sb).toNat
      if n = 0 then .ok { s := s }
      else
        let (s, st') ← s.streamMove y st (st.pos + n)
        .ok { s := if st'.pos = st.pos then s else s.putStream (sIndex f.sa) st st' }) s

/-- SPOS that reads (R389). -/
def execSposRead (f : Fld) (s : State) : Host.Outcome State Fault Refusal :=
  issue (.sposRead f) { dyn07 := fun _ y => unbound f.sa y } (fun y s =>
    .ok (scalarResult s f.dst (match srcS y f.sa with | some st => BitVec.ofNat 64 st.pos | none => 0))) s

/-- SPOS that sets (R389). -/
def execSposSet (f : Fld) (s : State) : Host.Outcome State Fault Refusal :=
  issue (.sposSet f) { dyn07 := fun _ y => unbound f.sa y } (fun y s =>
    match srcS y f.sa with
    | none => .ok { s := s }
    | some st => do
      let (s, st') ← s.streamMove y st (srcW y f s.pairView.isSome f.sb).toNat
      .ok { s := s.putStream (sIndex f.sa) st st' }) s

/-- SFREE (R389). -/
def execSfree (f : Fld) (s : State) : Host.Outcome State Fault Refusal :=
  issue (.sfree f) {} (fun _ s => .ok { s := s.me fun x => x.writeS (sIndex f.sa) none }) s

end Sys2Proof.Machine
end

