-- ==== Sys2Proof/Machine/Dispatch.lean ====
section
/-! DEFINITION. The dispatch of every row of the opcode table to its meaning. -/

namespace Sys2Proof.Machine

def exec (i : Instr) (s : State) : Host.Outcome State Fault Refusal :=
  match i with
  | .acas f => Sys2Proof.Machine.execAcas f s
  | .add f => Sys2Proof.Machine.execAdd f s
  | .and f => Sys2Proof.Machine.execAnd f s
  | .ared f => Sys2Proof.Machine.execAred f s
  | .atom f => Sys2Proof.Machine.execAtom f s
  | .badd f => Sys2Proof.Machine.execBadd f s
  | .bar f => Sys2Proof.Machine.execBar f s
  | .bara f => Sys2Proof.Machine.execBara f s
  | .barw f => Sys2Proof.Machine.execBarw f s
  | .bcnt f => Sys2Proof.Machine.execBcnt f s
  | .bcvt f => Sys2Proof.Machine.execBcvt f s
  | .bfi f => Sys2Proof.Machine.execBfi f s
  | .bfill f => Sys2Proof.Machine.execBfill f s
  | .bfma f => Sys2Proof.Machine.execBfma f s
  | .bfx f => Sys2Proof.Machine.execBfx f s
  | .bmax f => Sys2Proof.Machine.execBmax f s
  | .bmin f => Sys2Proof.Machine.execBmin f s
  | .br f => Sys2Proof.Machine.execBr f s
  | .bred f => Sys2Proof.Machine.execBred f s
  | .brk f => Sys2Proof.Machine.execBrk f s
  | .brx f => Sys2Proof.Machine.execBrx f s
  | .bscl f => Sys2Proof.Machine.execBscl f s
  | .bse f => Sys2Proof.Machine.execBse f s
  | .bsmx f => Sys2Proof.Machine.execBsmx f s
  | .bsync f => Sys2Proof.Machine.execBsync f s
  | .call f => Sys2Proof.Machine.execCall f s
  | .cbacq f => Sys2Proof.Machine.execCbacq f s
  | .cbclose f => Sys2Proof.Machine.execCbclose f s
  | .cbpub f => Sys2Proof.Machine.execCbpub f s
  | .cbrel f => Sys2Proof.Machine.execCbrel f s
  | .cbwait f => Sys2Proof.Machine.execCbwait f s
  | .cdrop f => Sys2Proof.Machine.execCdrop f s
  | .cget f => Sys2Proof.Machine.execCget f s
  | .clz f => Sys2Proof.Machine.execClz f s
  | .cmp f => Sys2Proof.Machine.execCmp f s
  | .cnarrow f => Sys2Proof.Machine.execCnarrow f s
  | .cont f => Sys2Proof.Machine.execCont f s
  | .cpyScratchFromDevice f => Sys2Proof.Machine.execCpyScratchFromDevice f s
  | .cpyDeviceFromScratch f => Sys2Proof.Machine.execCpyDeviceFromScratch f s
  | .cpyScratchFromScratch f => Sys2Proof.Machine.execCpyScratchFromScratch f s
  | .cpyDeviceFromDevice f => Sys2Proof.Machine.execCpyDeviceFromDevice f s
  | .cpya f => Sys2Proof.Machine.execCpya f s
  | .cpyx f => Sys2Proof.Machine.execCpyx f s
  | .ddrop f => Sys2Proof.Machine.execDdrop f s
  | .div f => Sys2Proof.Machine.execDiv f s
  | .done f => Sys2Proof.Machine.execDone f s
  | .dreg f => Sys2Proof.Machine.execDreg f s
  | .dstat f => Sys2Proof.Machine.execDstat f s
  | .dsync f => Sys2Proof.Machine.execDsync f s
  | .ebag f => Sys2Proof.Machine.execEbag f s
  | .endCtx f => Sys2Proof.Machine.execEndCtx f s
  | .eret f => Sys2Proof.Machine.execEret f s
  | .evsig f => Sys2Proof.Machine.execEvsig f s
  | .ext f => Sys2Proof.Machine.execExt f s
  | .fcancel f => Sys2Proof.Machine.execFcancel f s
  | .feat f => Sys2Proof.Machine.execFeat f s
  | .fence f => Sys2Proof.Machine.execFence f s
  | .fenceWin f => Sys2Proof.Machine.execFenceWin f s
  | .fjoin f => Sys2Proof.Machine.execFjoin f s
  | .fmtp f => Sys2Proof.Machine.execFmtp f s
  | .frest f => Sys2Proof.Machine.execFrest f s
  | .fsave f => Sys2Proof.Machine.execFsave f s
  | .ftest f => Sys2Proof.Machine.execFtest f s
  | .fwait f => Sys2Proof.Machine.execFwait f s
  | .gets f => Sys2Proof.Machine.execGets f s
  | .idle f => Sys2Proof.Machine.execIdle f s
  | .jbind f => Sys2Proof.Machine.execJbind f s
  | .job f => Sys2Proof.Machine.execJob f s
  | .join f => Sys2Proof.Machine.execJoin f s
  | .jtabScratch f => Sys2Proof.Machine.execJtabScratch f s
  | .jtabDevice f => Sys2Proof.Machine.execJtabDevice f s
  | .kacc f => Sys2Proof.Machine.execKacc f s
  | .kcnt f => Sys2Proof.Machine.execKcnt f s
  | .kisect f => Sys2Proof.Machine.execKisect f s
  | .klook f => Sys2Proof.Machine.execKlook f s
  | .kseek f => Sys2Proof.Machine.execKseek f s
  | .klog f => Sys2Proof.Machine.execKlog f s
  | .kmov f => Sys2Proof.Machine.execKmov f s
  | .ld f => Sys2Proof.Machine.execLd f s
  | .ldg f => Sys2Proof.Machine.execLdg f s
  | .ldc f => Sys2Proof.Machine.execLdc f s
  | .lease f => Sys2Proof.Machine.execLease f s
  | .lfree f => Sys2Proof.Machine.execLfree f s
  | .max f => Sys2Proof.Machine.execMax f s
  | .min f => Sys2Proof.Machine.execMin f s
  | .mlda f => Sys2Proof.Machine.execMlda f s
  | .mldb f => Sys2Proof.Machine.execMldb f s
  | .mmac f => Sys2Proof.Machine.execMmac f s
  | .mmacg f => Sys2Proof.Machine.execMmacg f s
  | .mmvb f => Sys2Proof.Machine.execMmvb f s
  | .mov f => Sys2Proof.Machine.execMov f s
  | .movi f => Sys2Proof.Machine.execMovi f s
  | .mscl f => Sys2Proof.Machine.execMscl f s
  | .msgScratch f => Sys2Proof.Machine.execMsgScratch f s
  | .msgHandler f => Sys2Proof.Machine.execMsgHandler f s
  | .mst f => Sys2Proof.Machine.execMst f s
  | .mul f => Sys2Proof.Machine.execMul f s
  | .mulh f => Sys2Proof.Machine.execMulh f s
  | .mzero f => Sys2Proof.Machine.execMzero f s
  | .nop f => Sys2Proof.Machine.execNop f s
  | .or f => Sys2Proof.Machine.execOr f s
  | .phase f => Sys2Proof.Machine.execPhase f s
  | .popc f => Sys2Proof.Machine.execPopc f s
  | .qfence f => Sys2Proof.Machine.execQfence f s
  | .rally f => Sys2Proof.Machine.execRally f s
  | .rem f => Sys2Proof.Machine.execRem f s
  | .ret f => Sys2Proof.Machine.execRet f s
  | .sar f => Sys2Proof.Machine.execSar f s
  | .shl f => Sys2Proof.Machine.execShl f s
  | .shr f => Sys2Proof.Machine.execShr f s
  | .sbind f => Sys2Proof.Machine.execSbind f s
  | .sskip f => Sys2Proof.Machine.execSskip f s
  | .sposRead f => Sys2Proof.Machine.execSposRead f s
  | .sposSet f => Sys2Proof.Machine.execSposSet f s
  | .sfree f => Sys2Proof.Machine.execSfree f s
  | .sel f => Sys2Proof.Machine.execSel f s
  | .sems f => Sys2Proof.Machine.execSems f s
  | .semw f => Sys2Proof.Machine.execSemw f s
  | .sets f => Sys2Proof.Machine.execSets f s
  | .sheat f => Sys2Proof.Machine.execSheat f s
  | .shipHandler f => Sys2Proof.Machine.execShipHandler f s
  | .shipRed f => Sys2Proof.Machine.execShipRed f s
  | .slotset f => Sys2Proof.Machine.execSlotset f s
  | .spawn f => Sys2Proof.Machine.execSpawn f s
  | .st f => Sys2Proof.Machine.execSt f s
  | .stg f => Sys2Proof.Machine.execStg f s
  | .stc f => Sys2Proof.Machine.execStc f s
  | .sub f => Sys2Proof.Machine.execSub f s
  | .svc f => Sys2Proof.Machine.execSvc f s
  | .vabs f => Sys2Proof.Machine.execVabs f s
  | .vadd f => Sys2Proof.Machine.execVadd f s
  | .vsub f => Sys2Proof.Machine.execVsub f s
  | .vmul f => Sys2Proof.Machine.execVmul f s
  | .vfma f => Sys2Proof.Machine.execVfma f s
  | .vmin f => Sys2Proof.Machine.execVmin f s
  | .vmax f => Sys2Proof.Machine.execVmax f s
  | .vand f => Sys2Proof.Machine.execVand f s
  | .vor f => Sys2Proof.Machine.execVor f s
  | .vxor f => Sys2Proof.Machine.execVxor f s
  | .vshl f => Sys2Proof.Machine.execVshl f s
  | .vshr f => Sys2Proof.Machine.execVshr f s
  | .vrcp f => Sys2Proof.Machine.execVrcp f s
  | .vrsq f => Sys2Proof.Machine.execVrsq f s
  | .vexp f => Sys2Proof.Machine.execVexp f s
  | .vsel f => Sys2Proof.Machine.execVsel f s
  | .vbcst f => Sys2Proof.Machine.execVbcst f s
  | .vgetl f => Sys2Proof.Machine.execVgetl f s
  | .viota f => Sys2Proof.Machine.execViota f s
  | .vperm f => Sys2Proof.Machine.execVperm f s
  | .vsetl f => Sys2Proof.Machine.execVsetl f s
  | .vcmp f => Sys2Proof.Machine.execVcmp f s
  | .vcvt f => Sys2Proof.Machine.execVcvt f s
  | .vred f => Sys2Proof.Machine.execVred f s
  | .vscan f => Sys2Proof.Machine.execVscan f s
  | .vared f => Sys2Proof.Machine.execVared f s
  | .vgath f => Sys2Proof.Machine.execVgath f s
  | .vscat f => Sys2Proof.Machine.execVscat f s
  | .vld f => Sys2Proof.Machine.execVld f s
  | .vst f => Sys2Proof.Machine.execVst f s
  | .vldg f => Sys2Proof.Machine.execVldg f s
  | .vstg f => Sys2Proof.Machine.execVstg f s
  | .xbegin f => Sys2Proof.Machine.execXbegin f s
  | .xsend f => Sys2Proof.Machine.execXsend f s
  | .xend f => Sys2Proof.Machine.execXend f s
  | .xflush f => Sys2Proof.Machine.execXflush f s
  | .xmig f => Sys2Proof.Machine.execXmig f s
  | .xor f => Sys2Proof.Machine.execXor f s
  | .yield f => Sys2Proof.Machine.execYield f s
  | .unassignedOpcode opc => Sys2Proof.Machine.execUnassignedOpcode opc s
  | .jobCardAccept page => Sys2Proof.Machine.execJobCardAccept page s
  | .leaseGrant job => Sys2Proof.Machine.execLeaseGrant job s
  | .ctrlSpace page => Sys2Proof.Machine.execCtrlSpace page s
  | .ctrlRetire page => Sys2Proof.Machine.execCtrlRetire page s
  | .ctrlBindpage page => Sys2Proof.Machine.execCtrlBindpage page s
  | .ctrlHcopy page => Sys2Proof.Machine.execCtrlHcopy page s
  | .ctrlLoadstore page => Sys2Proof.Machine.execCtrlLoadstore page s
  | .ctrlKillJob page => Sys2Proof.Machine.execCtrlKillJob page s
  | .ctrlKillFrame page => Sys2Proof.Machine.execCtrlKillFrame page s
  | .ctrlLaunchpageRegister page => Sys2Proof.Machine.execCtrlLaunchpageRegister page s
  | .ctrlLaunchpageRemove page => Sys2Proof.Machine.execCtrlLaunchpageRemove page s
  | .ctrlColdidle page => Sys2Proof.Machine.execCtrlColdidle page s
  | .chunkDeal job => Sys2Proof.Machine.execChunkDeal job s
  | .spawnEntryArrival cluster => Sys2Proof.Machine.execSpawnEntryArrival cluster s
  | .dispatchBind cluster => Sys2Proof.Machine.execDispatchBind cluster s
  | .ageGuard cluster => Sys2Proof.Machine.execAgeGuard cluster s
  | .recordReserved cluster level => Sys2Proof.Machine.execRecordReserved cluster level s
  | .dctlWrite cluster v => Sys2Proof.Machine.execDctlWrite cluster v s
  | .spillWrite cluster v => Sys2Proof.Machine.execSpillWrite cluster v s
  | .taskStart core frm => Sys2Proof.Machine.execTaskStart core frm s
  | .taskEnd core frm => Sys2Proof.Machine.execTaskEnd core frm s
  | .jobSweep job => Sys2Proof.Machine.execJobSweep job s
  | .decrementApply cluster => Sys2Proof.Machine.execDecrementApply cluster s
  | .proxyForwardWrite die dest => Sys2Proof.Machine.execProxyForwardWrite die dest s
  | .taggedDataArrival c n => Sys2Proof.Machine.execTaggedDataArrival c n s
  | .storeHomePerform a n => Sys2Proof.Machine.execStoreHomePerform a n s
  | .atomicHomeApply req => Sys2Proof.Machine.execAtomicHomeApply req s
  | .atomicReply req => Sys2Proof.Machine.execAtomicReply req s
  | .bankCommandPerform core n => Sys2Proof.Machine.execBankCommandPerform core n s
  | .copyBegin core q units => Sys2Proof.Machine.execCopyBegin core q units s
  | .copyComplete core q => Sys2Proof.Machine.execCopyComplete core q s
  | .matrixQueuePerform core frm => Sys2Proof.Machine.execMatrixQueuePerform core frm s
  | .matrixStep core => Sys2Proof.Machine.execMatrixStep core s
  | .impreciseDelivery c => Sys2Proof.Machine.execImpreciseDelivery c s
  | .tollgateBarrierArrive cluster line who => Sys2Proof.Machine.execTollgateBarrierArrive cluster line who s
  | .tollgateBarrierLoad c n => Sys2Proof.Machine.execTollgateBarrierLoad c n s
  | .tollgateBarrierConfig cluster line v => Sys2Proof.Machine.execTollgateBarrierConfig cluster line v s
  | .tollgateMutexAcquire c n => Sys2Proof.Machine.execTollgateMutexAcquire c n s
  | .tollgateMutexFree cluster line who => Sys2Proof.Machine.execTollgateMutexFree cluster line who s
  | .tollgateEventWait c n => Sys2Proof.Machine.execTollgateEventWait c n s
  | .tollgateEventSignal cluster line => Sys2Proof.Machine.execTollgateEventSignal cluster line s
  | .tollgateEventClear cluster line => Sys2Proof.Machine.execTollgateEventClear cluster line s
  | .routerArrivalForward o => Sys2Proof.Machine.execRouterArrivalForward o s
  | .barrierRootArrival o => Sys2Proof.Machine.execBarrierRootArrival o s
  | .barrierReleaseArrival c => Sys2Proof.Machine.execBarrierReleaseArrival c s
  | .xbeginRelease o => Sys2Proof.Machine.execXbeginRelease o s
  | .xsendSlotSend c => Sys2Proof.Machine.execXsendSlotSend c s
  | .frameSaveComplete n => Sys2Proof.Machine.execFrameSaveComplete n s
  | .preemptAbandon n => Sys2Proof.Machine.execPreemptAbandon n s
  | .frameRestoreBind n => Sys2Proof.Machine.execFrameRestoreBind n s
  | .leaseExtensionPinned n => Sys2Proof.Machine.execLeaseExtensionPinned n s
  | .staleReadHold d tile => Sys2Proof.Machine.execStaleReadHold d tile s
  | .tileRecompute d tile => Sys2Proof.Machine.execTileRecompute d tile s
  | .slabCompress sid obj slab => Sys2Proof.Machine.execSlabCompress sid obj slab s
  | .slabDecode sid obj slab => Sys2Proof.Machine.execSlabDecode sid obj slab s
  | .migrationCopyComplete n => Sys2Proof.Machine.execMigrationCopyComplete n s
  | .translationWalkReply n => Sys2Proof.Machine.execTranslationWalkReply n s
  | .handlerRunStart slice => Sys2Proof.Machine.execHandlerRunStart slice s
  | .handlerRunEnd slice => Sys2Proof.Machine.execHandlerRunEnd slice s
  | .launchNotify page v rel => Sys2Proof.Machine.execLaunchNotify page v rel s
  | .launchComplete page => Sys2Proof.Machine.execLaunchComplete page s
  | .reductionBlockStart stack => Sys2Proof.Machine.execReductionBlockStart stack s
  | .reductionClimbPair node => Sys2Proof.Machine.execReductionClimbPair node s
  | .reductionClimbDiscard node => Sys2Proof.Machine.execReductionClimbDiscard node s
  | .idleTimeout c => Sys2Proof.Machine.execIdleTimeout c s
  | .rallyTimeout c => Sys2Proof.Machine.execRallyTimeout c s
  | .yieldWaitEnd c => Sys2Proof.Machine.execYieldWaitEnd c s
  | .ctrlKillSid page => Sys2Proof.Machine.execCtrlKillSid page s
  | .ctrlPreempt page => Sys2Proof.Machine.execCtrlPreempt page s
  | .ctrlRestore page => Sys2Proof.Machine.execCtrlRestore page s
  | .ctrlAckout page => Sys2Proof.Machine.execCtrlAckout page s
  | .ctrlLink page => Sys2Proof.Machine.execCtrlLink page s
  | .ctrlAttest page => Sys2Proof.Machine.execCtrlAttest page s
  | .ctrlUnknownKind page => Sys2Proof.Machine.execCtrlUnknownKind page s
  | .causeArrival c p => Sys2Proof.Machine.execCauseArrival c p s
  | .refreshSubarrayEnd channel bank => Sys2Proof.Machine.execRefreshSubarrayEnd channel bank s
  | .lockFeatures => Sys2Proof.Machine.execLockFeatures s
  | .tokenTimeout => Sys2Proof.Machine.execTokenTimeout s
  | .thermalClockRaise => Sys2Proof.Machine.execThermalClockRaise s
  | .routerAtomicForward first second => Sys2Proof.Machine.execRouterAtomicForward first second s
  | .streamElementFetch c n => Sys2Proof.Machine.execStreamElementFetch c n s
  | .linkTrainingComplete link => Sys2Proof.Machine.execLinkTrainingComplete link s
  | .powerOn e => Sys2Proof.Machine.execPowerOn e s
  | .startCold e => Sys2Proof.Machine.execStartCold e s
  | .startWarm e => Sys2Proof.Machine.execStartWarm e s
  | .startWarmPreserving e => Sys2Proof.Machine.execStartWarmPreserving e s
  | .heldStartRun e => Sys2Proof.Machine.execHeldStartRun e s
  | .registerWrite r v => Sys2Proof.Machine.execRegisterWrite r v s
  | .unsupportedRequest off => Sys2Proof.Machine.execUnsupportedRequest off s
  | .mailboxMessage page msg => Sys2Proof.Machine.execMailboxMessage page msg s
  | .badMailboxWrite page => Sys2Proof.Machine.execBadMailboxWrite page s
  | .mirrorEntryArrival link entry => Sys2Proof.Machine.execMirrorEntryArrival link entry s
  | .mirrorReturn link entry => Sys2Proof.Machine.execMirrorReturn link entry s
  | .tokenPass tok => Sys2Proof.Machine.execTokenPass tok s
  | .linkReplay link req => Sys2Proof.Machine.execLinkReplay link req s
  | .linkFailure link => Sys2Proof.Machine.execLinkFailure link s
  | .thermalClockLower die => Sys2Proof.Machine.execThermalClockLower die s
  | .thermalShutdown die => Sys2Proof.Machine.execThermalShutdown die s
  | .refreshSubarrayStart channel bank => Sys2Proof.Machine.execRefreshSubarrayStart channel bank s

end Sys2Proof.Machine
end

