-- ==== Sys2Proof/Machine/Fetch.lean ====
section
/-! DEFINITION. What a sequencer does at its turn: the delivery of a pending cause, the fetch and its line checks, the issue of one
instruction or one pair, and which context issues (spec/10_encoding.md R166 to R170, R179, R180; spec/04_scheduling.md R64;
spec/14_faults.md R237, R242). -/

namespace Sys2Proof.Machine

/-- Does the context wait for a tollgate line (R64, R205)? -/
def Ctx.lineWait (x : Ctx) : Bool :=
  x.out.any fun o => match o.what with
    | .unit u => u.isLine
    | _ => false

/-- Does a wait still hold the context back? A YIELD's time may be over (R414), and a pending cause ends an IDLE (R360). -/
def Ctx.heldBack (x : Ctx) (now : Nat) : Bool :=
  match x.wait with
  | .none => false
  | .barrier => false
  | .yield t => decide (now < t)
  | .idle _ => x.pend.isEmpty
  | .rally _ => true
  | .xsend .. => true
  | .sent => false
  | .unitRel => false

/-- Can the context be offered issue (R64): started, not ended, not suspended (R39), not being saved, and not in a timed wait? -/
def State.ready (s : State) (c : CtxId) : Bool :=
  match s.ctxs.get (.ctx c), s.frameOf c with
  | some x, some f =>
    f.started && ! x.ended && f.killed.isNone && (match f.trappedBy with | some k => k == c.kind | none => true) &&
    ! x.lineWait && (! x.heldBack s.clock || s.rallyMet c x) &&
    ! s.saving (c.core, c.frm)
  | _, _ => false

/-- Does the predicate of an opcode gate it as a whole (R16, R175)? -/
def gatedOpcode (opc : BitVec 10) : Bool :=
  let n := opc.toNat
  ! (n / 64 == 3 || (0x104 ≤ n && n ≤ 0x109) || n == 0x143 || (0x201 ≤ n && n ≤ 0x203) || n == 0x348)

/-- The issue of a word that has an unreadable specifier (R173, R184): suppressed by its predicate, or 0x01, 0x08 or 0x02. -/
def State.badWord (s : State) (w : BitVec 96) : State :=
  match s.ctxs.get s.cur with
  | none => s
  | some x =>
    let opc := opcodeOf w
    let k := (s.view x).readK (w.extractLsb' 83 3)
    let s1 := s.setCtx s.cur (if x.pp then x.consumePrefix else x)
    let held (t : BitVec 4) : Bool := t != 0 && (s.view x).out.any fun o => o.tag == t
    if held (w.extractLsb' 38 4) || held (w.extractLsb' 34 4) || held (w.extractLsb' 42 4) then { s with last := .waited }
    else if gatedOpcode opc && (k.getLsbD 0 == w.getLsbD 82) then Eff.retire { s := s1 } x.pc
    else if ! inProfile s.cur x.sv opc || (featuresOf opc (immOf w)).any (fun n => ! s.feature n) then
      s1.raise 0x01 0 (opc.zeroExtend 32)
    else match privilegeFault x.sv opc (immOf w) with
      | some e => s1.raise 0x08 0 e
      | none => s1.raise 0x02 0 (opc.zeroExtend 32)

/-- Issue the word of one slot. -/
def State.issueWord (s : State) (w : BitVec 96) : Host.Outcome State Fault Refusal :=
  match parse w with
  | some i => exec i s
  | none => .next (s.badWord w)

/-- A destination register that both members of a pair name (R179): its specifier. -/
def pairDest (w1 w2 : BitVec 96) : Option (BitVec 32) :=
  match parse w1, parse w2 with
  | some i, some j =>
    match i.shape, j.shape with
    | some (p, f), some (q, g) =>
      if ! p.dst.isEmpty && ! q.dst.isEmpty && f.dst == g.dst then some (specInfo f.dst) else none
    | _, _ => none
  | _, _ => none

/-- A 0x02 of the lower member that depends on the context, at the instructions that can share a destination with a pair partner. -/
def State.pairDyn02 (s : State) (x : Ctx) (i : Instr) : Bool :=
  match i with
  | .vcvt f => x.pp && (f.mod != 0 || f.imm != 0)
  | .vbcst f => pdScalar x false f.sa && f.imm != 0
  | .mmvb f => s.badDomain f.id
  | _ => false

/-- Does its predicate suppress a word as a whole (R16)? -/
def wordSuppressed (x : Ctx) (w : BitVec 96) : Bool :=
  gatedOpcode (opcodeOf w) && ((x.readK (w.extractLsb' 83 3)).getLsbD 0 == w.getLsbD 82)

/-- What a pair raises at its lower slot (R176, R179): 0x02 for one tag allocated twice, 0x07 for one destination; not before what the
lower member raises by itself at an earlier rank (R184, R186), and nothing where a member is suppressed (R16; DEDUCED, LOG 24). -/
def State.pairFault (s : State) (x : Ctx) (w1 w2 : BitVec 96) : Option (Cause × BitVec 32) :=
  let opc := opcodeOf w1
  if wordSuppressed x w1 || wordSuppressed x w2 then none
  else match parse w1 with
  | none => none
  | some (.unassignedOpcode _) => none
  | some i =>
    if ! inProfile s.cur x.sv opc || (featuresOf opc (immOf w1)).any (fun n => ! s.feature n) ||
        (privilegeFault x.sv opc (immOf w1)).isSome then none
    else if w1.extractLsb' 42 4 != 0 && w1.extractLsb' 42 4 == w2.extractLsb' 42 4 then some (0x02, opc.zeroExtend 32)
    else if (match i.shape with | some (p, f) => ! p.reservedOk f | none => false) || s.pairDyn02 x i then none
    else (pairDest w1 w2).map fun e => (0x07, e)

/-- Does a word wait at issue for a tag or a destination (R15, R177)? -/
def wordWaits (x : Ctx) (w : BitVec 96) : Bool := match parse w with | some i => waitsForTag x i | none => false

/-- The higher member of a pair tried for itself, on the registers as they stand (R179): what a wait of its own brings about, none when it
does not wait. -/
def State.higherWaits (s : State) (x : Ctx) (w2 : BitVec 96) : Option State :=
  match ({ s with pairView := some x }.me fun y => y.pushPd .none).issueWord w2 with
  | .next s' => if (match s'.last with | .waited => true | _ => false) then some ({ s' with pairView := none }.me fun y => { y with pd := x.pd }) else none
  | _ => none

/-- Issue a pair (R179, R180): both wait or neither; the lower first, the higher on the registers as they stood. -/
def State.issuePair (s : State) (w1 w2 : BitVec 96) : Host.Outcome State Fault Refusal :=
  match s.ctxs.get s.cur with
  | none => .fault .noIssuer
  | some x =>
    if wordWaits x w1 || wordWaits x w2 then .next { s with last := .waited } else
    match s.higherWaits x w2 with
    | some s' => .next s'
    | none =>
      match s.issueWord w1 with
      | .next s1 =>
        (match s1.last with
         | .waited => .next s1
         | l =>
           match s.pairFault x w1 w2 with
           | some (c, e) => .next ((s.setCtx s.cur x.consumePrefix).raise c 0 e)
           | none =>
             match l with
             | .retired =>
               (match ({ s1 with pairView := some x }).issueWord w2 with
                | .next s2 =>
                  (match s2.last with
                   | .waited => .next { s with last := .waited }
                   | _ => .next { s2 with pairView := none })
                | r => r)
             | _ => .next s1)
      | r => r

/-- A context or a handler at its turn: a pending cause is delivered, else its next instruction is fetched, checked and issued. -/
def State.attempt (s : State) (a : Agent) : Host.Outcome State Fault Refusal :=
  let s := { s with cur := a, via := (match a with | .ctx c => some c.core | .handler _ => none), trans := {}, pairView := none }
  match s.ctxs.get a with
  | none => .fault .noIssuer
  | some x =>
    match x.owed, a with
    | some _, .ctx c => .next (s.retryTrap c)
    | _, _ =>
    match (if x.deliverable then (match a with | .ctx c => some c | .handler _ => none) else none) with
    | some c => .next (s.deliverPending c)
    | none =>
      -- a fault of the slot is a fault of the prefix's target (R154)
      let spent := s.setCtx a (if x.pp then x.consumePrefix else x)
      if 4 < pcSlot x.pc ∨ storeLines a ≤ pcLine x.pc then .next (spent.raise 0x04 ((pcForm x.pc).zeroExtend 64) 0)
      else
        let ln := s.line a (pcLine x.pc)
        let slot := pcSlot x.pc
        let began (x : Ctx) : Ctx := { x with fresh := false, wait := match x.wait with | .yield _ => .none | w => w }
        let s := s.setCtx a (began x)
        let spent := s.setCtx a (began (if x.pp then x.consumePrefix else x))
        let ls := match a with | .ctx c => c.kind != .computer | .handler _ => true
        match lineFault ln ls with
        | some (c, e) =>
          let s := if c = 0x40 then
              match a with
              | .ctx k => (match k.kind with
                | .loader => spent.countUnc 0x40 (0x6100 + 2 * k.core) (pcLine x.pc)
                | .storer => spent.countUnc 0x40 (0x6101 + 2 * k.core) (pcLine x.pc)
                | .computer => spent.countUnc 0x40 (0x6020 + clusterOf k.core) (pcLine x.pc))
              | .handler _ => spent
            else spent
          .next (s.raise c (if c = 0x40 then x.pc.zeroExtend 64 else 0) (BitVec.ofNat 32 e))
        | none =>
          if x.fresh && ! tgtBit ln slot then .next (spent.raise 0x04 (x.pc.zeroExtend 64) 0)
          else
            match a with
            | .handler n =>
              (match s.runs.get n with
               | some r => if 256 ≤ r.count then .next (s.raise 0x32 0 0) else s.issueWord (slotWord ln slot)
               | none => .fault .noIssuer)
            | .ctx _ =>
              if pairBit ln slot then s.issuePair (slotWord ln slot) (slotWord ln (slot + 1))
              else s.issueWord (slotWord ln slot)

def Last.isWait : Last → Bool | .waited => true | _ => false

/-- The frames of a core in a sequencer's cyclic order, from the one after the last that issued (R64). -/
def frameOrder (last : BitVec 2) : List Nat := (List.range 4).map fun i => (last.toNat + 1 + i) % 4

/-- A sequencer's turn (R64): the first ready context of its core that can issue. The flag says that one did. A turn that only delivers a pending
cause counts as the context's issue for the cyclic order (DESIGN CHOICE, LOG 115). -/
def State.sequence (s : State) (core : Nat) (kind : CtxKind) : List Nat → Host.Outcome (State × Bool) Fault Refusal
  | [] => .next (s, false)
  | f :: fs =>
    if s.ready ⟨core, f, kind⟩ then
      match s.attempt (.ctx ⟨core, f, kind⟩) with
      | .next s' =>
        if s'.last.isWait then State.sequence s' core kind fs
        else
          let k := s'.coreOf core
          .next (s'.setCore core { k with lastIssue := k.lastIssue.set! (ctxNo kind) (BitVec.ofNat 2 f) }, true)
      | .fault r => .fault r
      | .refused r => .refused r
    else State.sequence s core kind fs

end Sys2Proof.Machine
end

