-- ==== Sys2Proof/Machine/Pending.lean ====
section
/-! DEFINITION. The turns that the device's own units could take now: what a free turn chooses among (DESIGN CHOICE, LOG 2). Every turn listed is checked
again by the event's own meaning, so a list that names too much changes nothing. -/

namespace Sys2Proof.Machine

/-- The events of one context. -/
def ctxEvents (a : Agent) (x : Ctx) : List Instr :=
  let held := (List.range x.held.length).map fun n => Instr.storeHomePerform a n
  match a with
  | .handler _ => held
  | .ctx c =>
    let outs := (List.range x.out.length).flatMap fun n =>
      match (x.out[n]?).map fun (o : Outst) => o.what with
      | some (Pending.unit (.barrier ..)) => [Instr.tollgateBarrierLoad c n]
      | some (Pending.unit (.mutex ..)) => [Instr.tollgateMutexAcquire c n]
      | some (Pending.unit (.event ..)) => [Instr.tollgateEventWait c n]
      | some (Pending.atomic ..) => []
      | some _ => [Instr.taggedDataArrival c n]
      | none => []
    let waits := match x.wait with
      | .yield _ => [Instr.yieldWaitEnd c]
      | .rally _ => [Instr.rallyTimeout c]
      | .idle _ => [Instr.idleTimeout c]
      | .xsend .. => [Instr.xsendSlotSend c]
      | _ => []
    let pend := if x.pend.isEmpty then [] else [Instr.impreciseDelivery c]
    held ++ outs ++ waits ++ pend ++ x.coming.map fun q => Instr.causeArrival c q.1

/-- The event of a unit-space store on its way (R57, R206 to R208). -/
def unitEvents (q : CtxId × UnitWord × Word) : List Instr :=
  match q.2.1 with
  | .barrier cl n => [.tollgateBarrierArrive cl n q.1]
  | .mutex cl n => [.tollgateMutexFree cl n q.1]
  | .event cl n => if q.2.2 = 0 then [.tollgateEventClear cl n] else [.tollgateEventSignal cl n]
  | .config cl n => [.tollgateBarrierConfig cl n q.2.2]
  | .dctl cl => [.dctlWrite cl q.2.2]
  | .spill cl => [.spillWrite cl q.2.2]
  | _ => []

/-- The events of a core's queues and of its frames. -/
def State.coreEvents (s : State) : List Instr :=
  (s.cores.flatMap fun (p : Nat × Core) => (List.range p.2.cmds.length).map fun n => Instr.bankCommandPerform p.1 n) ++
  (s.engine.flatMap fun (p : Nat × List QItem) => p.2.flatMap fun i => match i with
    | .op _ q => [Instr.copyBegin p.1 q 1, Instr.copyComplete p.1 q]
    | .fence .. => []) ++
  (s.frames.flatMap fun (p : (Nat × Nat) × Frame) =>
    (if p.2.started then [Instr.taskEnd p.1.1 p.1.2] else [Instr.taskStart p.1.1 p.1.2, Instr.taskEnd p.1.1 p.1.2]) ++
    (if p.2.mq.isEmpty then [] else [Instr.matrixQueuePerform p.1.1 p.1.2, Instr.matrixStep p.1.1]))

/-- The events of the dispatchers, jobs, mailboxes and proxy queues. -/
def State.workEvents (s : State) : List Instr :=
  (s.mail.flatMap fun (p : Nat × Mailbox) => if p.2.queue.isEmpty then [] else
    [Instr.jobCardAccept p.1, .ctrlSpace p.1, .ctrlRetire p.1, .ctrlBindpage p.1, .ctrlHcopy p.1, .ctrlLoadstore p.1, .ctrlKillJob p.1,
     .ctrlKillFrame p.1, .ctrlKillSid p.1, .ctrlPreempt p.1, .ctrlRestore p.1, .ctrlLaunchpageRegister p.1, .ctrlLaunchpageRemove p.1,
     .ctrlColdidle p.1, .ctrlAckout p.1, .ctrlLink p.1, .ctrlAttest p.1, .ctrlUnknownKind p.1]) ++
  (s.jobs.flatMap fun (p : Nat × Job) => [Instr.leaseGrant p.1, .chunkDeal p.1, .jobSweep p.1]) ++
  (s.clusters.flatMap fun (p : Nat × Cluster) => [Instr.spawnEntryArrival p.1, .dispatchBind p.1, .ageGuard p.1, .decrementApply p.1] ++
    (List.range 8).map fun n => Instr.recordReserved p.1 n) ++
  (s.decs.map fun d => Instr.decrementApply (cidCluster d.cid)) ++
  (s.proxies.map fun (p : (Nat × ProxyDest) × List ProxyEntry) => Instr.proxyForwardWrite p.1.1 p.1.2) ++
  (s.preempts.flatMap fun (p : Nat × Preempt) =>
    if p.2.save then [Instr.frameSaveComplete p.1, .preemptAbandon p.1] else [.frameRestoreBind p.1]) ++
  (s.saved.map fun v => Instr.taskEnd v.core v.frm) ++
  (s.leaseExts.map fun (p : Nat × LeaseExt) => Instr.leaseExtensionPinned p.1)

/-- What the world decides about a start, when nothing says so (DESIGN CHOICE, LOG 2). -/
def State.someStart (s : State) : StartEnv :=
  let free (k : Nat) : Nat := (Config.freeValue (s.freeTick * 2 ^ 48 + 2 ^ 42 + 8 + k)).toNat
  { sigOk := free 0 % 2 == 0,
    hash := BitVec.ofNat 256 (free 1 + free 2 * 2 ^ 64 + free 3 * 2 ^ 128 + free 4 * 2 ^ 192),
    fail := if free 5 % 2 = 0 then none else some (BitVec.ofNat 8 (free 6), BitVec.ofNat 3 (free 7)) }

/-- The events of barriers, atomics, derived tensors, slabs, handlers and reductions. -/
def State.memoryEvents (s : State) : List Instr :=
  (s.arrivals.flatMap fun a => [Instr.routerArrivalForward a.key, .barrierRootArrival a.key]) ++
  (s.releases.flatMap fun r => if r.xch then [Instr.xbeginRelease r.key] else [.barrierReleaseArrival r.who]) ++
  (s.atoms.flatMap fun (p : Nat × AtomReq) => if p.2.applied then [Instr.atomicReply p.1] else [.atomicHomeApply p.1]) ++
  (s.tiles.flatMap fun (p : (Nat × Nat) × Tile) => if p.2.busy.isSome then [Instr.tileRecompute p.1.1 p.1.2] else
    if p.2.stale then [.staleReadHold p.1.1 p.1.2, .tileRecompute p.1.1 p.1.2] else []) ++
  (s.ops.flatMap fun (p : Nat × Op) => match p.2.kind with | .dsync d .. => [Instr.tileRecompute d 0] | _ => []) ++
  (s.extents.map fun e => Instr.slabCompress e.sid e.obj e.slab) ++
  (s.waitingReads.flatMap fun r => match r.1 with
    | .dev sid obj off => (granuleStarts off r.2).flatMap fun o => match s.place sid obj o with
        | some p => [Instr.slabDecode sid p.obj p.slab]
        | none => []
    | .scr .. => []) ++
  (s.migrations.map fun (p : Nat × Migration) => Instr.migrationCopyComplete p.1) ++
  ((List.range s.walks.length).map Instr.translationWalkReply) ++
  (s.trigq.map fun (p : Nat × List Trigger) => Instr.handlerRunStart p.1) ++
  (s.runs.map fun (p : Nat × Run) => Instr.handlerRunEnd p.1) ++
  (s.notes.map fun n => Instr.launchNotify n.1 n.2.1 n.2.2.1) ++
  (s.pages.map fun (p : Nat × LaunchPage) => Instr.launchComplete p.1) ++
  (s.redq.map fun (p : Nat × List RedReq) => Instr.reductionBlockStart p.1) ++
  (s.climbs.flatMap fun c => [Instr.reductionClimbPair c.node, .reductionClimbDiscard c.node]) ++
  (if s.boot.locked then [Instr.tokenTimeout] else [])

/-- Every turn that the device could take by itself: events, the sequencers of cores with a frame, and the waystations that run. -/
def State.pendingTurns (s : State) : List Turn :=
  ((s.ctxs.flatMap fun (p : Agent × Ctx) => ctxEvents p.1 p.2) ++ s.unitq.flatMap unitEvents ++ s.coreEvents ++ s.workEvents ++
    s.memoryEvents).map Turn.event ++
  (s.frames.flatMap fun (p : (Nat × Nat) × Frame) => ctxKinds.map fun k => Turn.issue p.1.1 k) ++
  (s.runs.map fun (p : Nat × Run) => Turn.way p.1) ++ (if s.boot.heldStart.isSome then [Turn.start s.someStart] else [])

end Sys2Proof.Machine
end

