-- ==== Sys2Proof/Machine/Drain.lean ====
section
/-! DEFINITION. Turns: what moves at one step, and the default order when the agenda says nothing (DESIGN CHOICE, LOG 2). The hardware moves all of
its units at once; the model moves one at a time, in an order that `agenda` names. -/

namespace Sys2Proof.Machine

/-- A device event: a row with no word (spec/opcode_table.json). -/
def Instr.isEvent (i : Instr) : Bool :=
  match i with
  | .unassignedOpcode _ => false
  | i => i.shape.isNone

/-- A sequencer of a core takes its turn; the flag says that something issued. -/
def State.coreTurn (s : State) (core : Nat) (kind : CtxKind) : Host.Outcome (State × Bool) Fault Refusal :=
  s.sequence core kind (frameOrder ((s.coreOf core).lastIssue.toList.getD (ctxNo kind) 3))

/-- Does work of a context's own on an aligned 8 bytes, not yet performed, come before a read of them (R109, R192)? -/
def State.ownWork (s : State) (c : CtxId) (x : Ctx) (u : Target) : Bool :=
  x.held.any (fun h => s.storeMeets h u 8) ||
  (x.out.any fun o => match o.what with | .cap t .. => s.meets t 16 u 8 | _ => false) ||
  ((s.coreOf c.core).cmds.any fun q => q.who == c && q.cmd.rows.any fun r => (rowTarget r).meets 64 u 8) ||
  s.matrixMeets c u 8 ||
  (s.atoms.any fun p => p.2.who == .ctx c && ! p.2.applied && s.meets p.2.t p.2.bytes u 8)

/-- The home of an aligned 8 bytes reads for a context before the load that will use them is issued (R193): no acquire waits, and no work of
the context's own on them. It counts no heat: the load that uses it does (R128). Bytes that read uncorrectably, or that wait, are left to the
load. -/
def State.earlyRead (s : State) (c : CtxId) (t : Target) : State :=
  let u := t.unit
  let given := match u with | .dev sid obj off => (s.place sid obj off).isSome && (s.pageAt sid obj).isNone | .scr .. => true
  match s.ctxs.get (.ctx c) with
  | none => s
  | some x =>
    if ! given || x.ended || x.acqPending || s.ownWork c x u then s else
    match s.touch (agentPort (.ctx c)) u 8 true with
    | none => s
    | some s1 =>
      if s1.badAt u 8 then s else
      (s.uncounted s1).setCtx (.ctx c) { x with early := (u, s1.bytesAt u 8) :: x.early.filter fun e => e.1 != u }

/-- One named turn (DESIGN CHOICE, LOG 2). -/
def State.takeTurn (s : State) (t : Turn) : Host.Outcome State Fault Refusal :=
  let s := { s with via := none, trans := {} }
  match t with
  | .early c t => .next (s.earlyRead c t)
  | .upset u => .next (s.upset u)
  | .start e => execHeldStartRun e s
  | .event i => if Instr.isEvent i then exec i s else .next s
  | .issue core kind =>
    (match s.coreTurn core kind with
     | .next (s', _) => .next s'
     | .fault r => .fault r
     | .refused r => .refused r)
  | .way slice => if (s.runs.get slice).isSome && (s.ctxs.get (.handler slice)).isSome then s.attempt (.handler slice) else .next s

/-- One of the turns that the device could take by itself: which one is a free choice (DESIGN CHOICE, LOG 2). -/
def State.anyTurn (s : State) : Host.Outcome State Fault Refusal :=
  let l := s.pendingTurns
  match l[(Config.freeValue s.freeTick).toNat % max 1 l.length]? with
  | some t => s.takeTurn t
  | none => .next s

/-- A turn with no agenda: the sequencer in focus, or where it issues nothing any pending turn (DESIGN CHOICE, LOG 2). -/
def State.freeTurn (s : State) : Host.Outcome State Fault Refusal :=
  match s.coreTurn s.focus.1 s.focus.2 with
  | .next (s', true) => .next s'
  | .next (s', false) => s'.anyTurn
  | .fault r => .fault r
  | .refused r => .refused r

/-- One step: the agenda's next turn, or a free one. -/
def State.move (s : State) : Host.Outcome State Fault Refusal :=
  match s.agenda with
  | [] => s.freeTurn
  | t :: ts => ({ s with agenda := ts }).takeTurn t

/-- Time passes by the next pace, one cycle with none (DESIGN CHOICE, LOG 3). -/
def State.tick (s : State) : State :=
  { s with clock := s.clock + s.pace.headD 1, pace := s.pace.tail, freeTick := s.freeTick + 1 }

/-! ## A machine ready to fetch one word -/

/-- A context as it starts (R28), with every demand at its largest. -/
def Ctx.started : Ctx := { Ctx.blank with status := 2, fresh := true }

/-- An empty buffer of a disabled descriptor. -/
def CircBuf.off : CircBuf :=
  { desc := 0, free := 1, filled := 0, prodPos := 0, consPos := 0, acq := [], waited := [], fifo := [], closed := false,
    abandoned := false }

/-- A started frame of the whole core: 512 KiB of scratch, four accumulators (R23, R28). -/
def Frame.whole : Frame :=
  { task := { bytes := 0, level := 0, index := 0xFFFFFFFF, job := 0, parent := 0, kind := .spawned, b1 := 0, space := 0 },
    tdesc := BitVec.ofNat 512 (64 * 2 ^ 48 + 64 * 2 ^ 56 + 64 * 2 ^ 64 + 32 * 2 ^ 72 + 512 * 2 ^ 80 + 4 * 2 ^ 96 + 2 ^ 104 + 2 ^ 112),
    group := none, gbar := 0, gidx := 0, block := 0, started := true, cbs := Vector.replicate 8 CircBuf.off,
    sems := Vector.replicate 8 0, acc := Vector.replicate 4 0, kindI := Vector.replicate 4 false, latA := 0, latB := 0, badA := [], badB := [],
    sclA := Vector.replicate 8 none, sclB := Vector.replicate 8 none, mq := [], operrxy := 0, semq := [], trappedBy := none, homes := [],
    killed := none }

/-- A machine whose next step issues the word: a started computer context on frame 0 of core 0, the word in slot 0 of line 0 of its
cluster's shared store, every feature locked in, and the agenda empty. It stands for the loading of R28, R258 and R262. -/
def State.placeWord (s : State) (w : BitVec 96) : State :=
  let c : CtxId := ⟨0, 0, .computer⟩
  let x := match s.ctxs.get (.ctx c) with
    | some x => { x with pc := 0, pend := [], wait := .none, out := [], owed := none, ended := false }
    | none => Ctx.started
  let f := match s.frames.get (0, 0) with
    | some f => { f with started := true, killed := none, trappedBy := none }
    | none => Frame.whole
  let k := s.clusterAt 0
  let b := s.boot
  { s with ctxs := s.ctxs.set (.ctx c) x, frames := s.frames.set (0, 0) f,
           clusters := s.clusters.set 0 { k with store := k.store.set 0 (lineOfWord w) },
           cores := s.cores.set 0 { s.coreOf 0 with lastIssue := Vector.replicate 3 3 },
           boot := { b with locked := true, accept := b.accept.set 0 (b.accept[0] ||| 0x7FF) },
           preempts := [], agenda := [], focus := (0, .computer), cur := .ctx c, pairView := none }

end Sys2Proof.Machine
end

