-- ==== Sys2Proof/Machine/Step.lean ====
section
/-! DEFINITION. The step of the machine and the placing of one word to be fetched. -/

namespace Sys2Proof.Machine

/-- One step: one turn of one unit of the package, and then time passes (DESIGN CHOICE, LOG 2, DESIGN CHOICE, LOG 3). -/
def step (s : State) : Host.Outcome State Fault Refusal :=
  match s.move with
  | .next s' => .next s'.tick
  | .fault r => .fault r
  | .refused r => .refused r

/-- `s` with the word whose table bits are `w` placed where the next step fetches (DESIGN CHOICE, LOG 17). -/
def State.withFetchWord (s : State) (nbits w : Nat) : State := s.placeWord (BitVec.ofNat 96 (w % 2 ^ nbits))

end Sys2Proof.Machine
end

