-- ==== Sys2Proof/Safety.lean ====
section
/-! DEFINITION. The terms that claims use: a safe state, the conditions under which an instruction issues (R184), and what an
instruction leaves unchanged, shape by shape (spec/10_encoding.md R179, R184; spec/02_tutorial.md R16, R17; spec/05_memory.md R74,
R75). -/

namespace Sys2Proof.Machine

/-- The byte stores hold their canonical form (DESIGN CHOICE, LOG 6). -/
def State.CanonicalMemory (s : State) : Prop :=
  Memory.wf s.mem = true ∧ Memory.wf s.scr = true ∧ Memory.wf s.hostMem = true

/-! ## When an instruction issues (R184) -/

/-- The issuing agent, whose registers are `x`, issues `i` and no check of R184 fails. `p` is what the entry of `i` adds to the
common checks (its own reserved fields, its further registers, the prefix it takes). -/
structure State.Issues (s : State) (i : Instr) (p : Pre) (x : Ctx) : Prop where
  /-- the agent is live -/
  live : s.ctxs.get s.cur = some x
  /-- no tag in TWAIT0, TWAIT1 or TALLOC is outstanding, and no producer still owes the destination (R15, R177) -/
  free : waitsForTag (s.view x) i = false
  /-- it has a word, which passes every static check of ranks 0x02 and 0x07 -/
  formed : i.WellFormed = true
  /-- a gated instruction's predicate lets it run (R16) -/
  runs : p.gated = true → ∀ sh f, i.shape = some (sh, f) → (s.view x).executes f = true
  /-- rank 0x01: profile and features (R181, R183) -/
  allowed : ∀ sh f, i.shape = some (sh, f) →
    inProfile s.cur x.sv sh.opc = true ∧ ∀ n ∈ featuresOf sh.opc f.imm, s.feature n = true
  /-- rank 0x08: privilege (R182) -/
  privileged : ∀ sh f, i.shape = some (sh, f) → privilegeFault x.sv sh.opc f.imm = none
  /-- rank 0x02: what only the context shows reserved -/
  own02 : p.dyn02 s (s.view x) = false
  /-- rank 0x07: the classes that this agent has (R75, R223) -/
  open_ : ∀ o ∈ usedFields i ++ p.regs, classOpen s.cur o = true
  /-- rank 0x07: every pd source names a result that its field takes (R17) -/
  pds : badPd (s.view x) s.pairView.isSome i = none
  /-- rank 0x07: what only the context shows misused -/
  own07 : p.dyn07 s (s.view x) = none
  /-- rank 0x06: demands (R26) -/
  demand : ∀ o ∈ usedFields i ++ p.regs, inDemand s.cur x o = true
  accs : ∀ n ∈ p.accs, n < x.adem
  /-- rank 0x05: a payload the instruction does not take, or its own (R154) -/
  own05 : p.own05 = false
  prefixOk : x.pp = true → ∃ ok, p.pfx = some ok ∧ ok (s.view x) = true

/-- The scalar value of a source at issue: the registers as a pair's member sees them (R173, R179). -/
def State.src (s : State) (x : Ctx) (f : Fld) (o : Operand) : Word := srcW (s.view x) f s.pairView.isSome o

/-- The w-bit integer that a register holds: unsigned under U, else two's complement (R187). -/
def readAs (u : Bool) (w : Nat) (a : Word) : Int := if u then ((a.setWidth w).toNat : Int) else (a.setWidth w).toInt

/-- The test of a COND code (R189). -/
def condHolds {w : Nat} (c : Nat) (a b : BitVec w) : Bool :=
  match c with
  | 0 => a == b | 1 => a != b | 2 => a.slt b | 3 => b.sle a | 4 => a.ult b | 5 => b.ule a | 6 => a.sle b | 7 => b.slt a
  | 8 => a.ule b | 9 => b.ult a | _ => false

/-! ## What an issued instruction leaves (R17, R154, R169) -/

/-- The issuing context with only what every issued instruction changes: the pc, pd, PP consumed, and the count of instructions, in SKID of a
pending 0x39 too (R250). -/
def Ctx.past (x : Ctx) (e : PdEntry) : Ctx :=
  { x with pc := pcNext x.pc, pd := (e :: x.pd).take 4, status := x.status &&& ~~~4#64, issued := x.issued + 1,
           pend := x.pend.map PendCause.bump }

/-- The run counts with one more instruction of the issuing handler (R223). -/
def State.counted (s : State) : Assoc Nat Run :=
  match s.cur with
  | .handler n => (match s.runs.get n with
    | some r => s.runs.set n { r with count := r.count + 1 }
    | none => s.runs)
  | .ctx _ => s.runs

/-- The machine with the issuing context's registers replaced, an issue done, and nothing else changed. -/
def State.afterIssue (s : State) (x' : Ctx) : State :=
  { s with ctxs := s.ctxs.set s.cur x', runs := s.counted, last := .retired }

/-- `x'` is `x` after an instruction that writes the scalar `w` to `dst`, and nothing else (R74, R75). -/
structure Ctx.ScalarResult (x x' : Ctx) (dst : Operand) (w : Word) : Prop where
  g : ∀ n, x'.readG n = if dst = .g n ∧ n ≠ 0 then w else x.readG n
  o : ∀ n, x'.readO n = if dst = .o n then w else x.readO n
  k : ∀ n, x'.readK n = if dst = .k n ∧ n ≠ 0 then w else x.readK n
  rest : x' = { x.past (.scalar w) with g := x'.g, o := x'.o, k := x'.k }

/-- `x'` is `x` after an instruction that writes the vector `v` to `dst` and makes the flags `fl` sticky (R151), and nothing else. -/
structure Ctx.VectorResult (x x' : Ctx) (dst : Operand) (v : Vec) (fl : Flags) : Prop where
  reg : ∀ n, x'.readV n = if dst = .v n then v else x.readV n
  rest : x' = { x.past (.vector v) with v := x'.v, status := (x.status &&& ~~~4#64) ||| fl.bits }

/-- `x'` is `x` after an instruction that writes the capability `c` to `dst`, and nothing else. -/
structure Ctx.CapResult (x x' : Ctx) (dst : Operand) (c : Cap) : Prop where
  reg : ∀ n, x'.readB n = if dst = .b n then c else x.readB n
  rest : x' = { x.past .none with b := x'.b }

/-- `i` completes in `s`: the issuing context becomes `x'`, and no other context, no memory and no other unit changes. -/
def State.Leaves (s : State) (i : Instr) (x' : Ctx) : Prop := exec i s = .next (s.afterIssue x')

/-- `i` completes in `s`: the scalar `w` reaches `dst`, and no other register, no memory and no other unit changes. -/
def State.GivesScalar (s : State) (i : Instr) (x : Ctx) (dst : Operand) (w : Word) : Prop :=
  ∃ x', s.Leaves i x' ∧ x.ScalarResult x' dst w

/-- `i` completes in `s`: the vector `v` reaches `dst` and the flags STATUS, and nothing else changes. -/
def State.GivesVector (s : State) (i : Instr) (x : Ctx) (dst : Operand) (v : Vec) (fl : Flags) : Prop :=
  ∃ x', s.Leaves i x' ∧ x.VectorResult x' dst v fl

/-- `i` completes in `s`: the capability `c` reaches `dst`, and nothing else changes. -/
def State.GivesCap (s : State) (i : Instr) (x : Ctx) (dst : Operand) (c : Cap) : Prop :=
  ∃ x', s.Leaves i x' ∧ x.CapResult x' dst c

/-- `i` raises a precise fault in `s`, with no effect of its own but a consumed prefix (R184, R237). -/
def State.Faults (s : State) (i : Instr) (x : Ctx) (cause : Cause) (eaddr : Word) (einfo : BitVec 32) : Prop :=
  exec i s = .next ((s.setCtx s.cur { x with status := x.status &&& ~~~4#64 }).raise cause eaddr einfo)

/-- A transfer to `p` completes (R170): the pc is `p` and the context otherwise `x'`; an illegal target raises 0x04 with the target in EADDR. -/
def State.JumpsTo (s : State) (i : Instr) (x x' : Ctx) (p : Pc) : Prop :=
  (s.targetOk s.cur p = true → s.Leaves i { x' with pc := p }) ∧
  (s.targetOk s.cur p = false → s.Faults i x 0x04 (p.zeroExtend 64) 0)

/-- Nothing that the issuing context has on its way meets the ranges `ts` (R109, R193): no load, held store, bank command, atomic or
queued matrix instruction, and nothing read of them early; none of them is a launch page, and no .ACQ is pending. -/
structure State.Clear (s : State) (x : Ctx) (ts : List (Target × Nat)) : Prop where
  acq : x.acqPending = false
  acqView : (s.view x).acqPending = false
  page : ∀ t ∈ ts, s.targetPage t.1 = none
  loads : ∀ o ∈ x.out, ∀ r ∈ o.what.ranges, ∀ t ∈ ts, s.meets t.1 t.2 r.1 r.2 = false
  stores : ∀ h ∈ x.held, ∀ p ∈ h.parts, ∀ t ∈ ts, s.meets t.1 t.2 p.1 p.2.length = false
  commands : ∀ c, s.cur = .ctx c → ∀ q ∈ (s.coreOf c.core).cmds, q.who = c → ∀ r ∈ q.cmd.rows, ∀ t ∈ ts, s.meets t.1 t.2 (rowTarget r) 64 = false
  atomics : ∀ p ∈ s.atoms, p.2.who = s.cur → ∀ t ∈ ts, s.meets t.1 t.2 p.2.t p.2.bytes = false
  matrix : ∀ c, s.cur = .ctx c → ∀ t ∈ ts, s.matrixMeets c t.1 t.2 = false
  early : ∀ e ∈ x.early, ∀ t ∈ ts, s.meets t.1 t.2 e.1 8 = false

/-- An issued load, outstanding under its tag (R176). -/
def loadOutst (f : Fld) (x : Ctx) (acq : Bool) (p : Pending) (ea : Word) (tr : Trans := {}) : Outst := ⟨f.talloc, f.dst, acq, p, ea, x.pc, x.issued, tr⟩

/-- `i` completes in `s`: the issuing context becomes `x'`, its core's object cache has the entries that an access to `ts` is translated with (R92),
and nothing else changes. -/
def State.LeavesCache (s : State) (i : Instr) (x' : Ctx) (ts : List (Target × Nat)) : Prop :=
  exec i s = .next { s.afterIssue x' with objCache := (s.cacheFor ts).objCache }

/-- The load `p` is on its way: the issuing context holds it as outstanding, with its translation (R92), and nothing else changes. -/
def State.LoadSent (s : State) (i : Instr) (x : Ctx) (f : Fld) (acq : Bool) (p : Pending) (ea : Word) : Prop :=
  s.LeavesCache i { x.past .none with out := x.out ++ [loadOutst f x acq p ea (s.translate p.ranges)] } p.ranges

/-- The plain store `h` is held by the issuing context, with its translation (R92), until its home performs it (R193); nothing else changes. -/
def State.StoreHeld (s : State) (i : Instr) (x : Ctx) (h : HeldStore) : Prop :=
  s.LeavesCache i { x.past .none with held := x.held ++ [{ h with pc := x.pc, trans := s.translate h.ranges }] } h.ranges

/-- `i` completes in `s`: the issuing context becomes `x'`, the frame of `c` becomes `fr`, and nothing else changes. -/
def State.LeavesFrame (s : State) (i : Instr) (c : CtxId) (x' : Ctx) (fr : Frame) : Prop :=
  exec i s = .next { s.afterIssue x' with frames := s.frames.set (c.core, c.frm) fr }

/-- The bank command `cmd` is queued at the core of `c` (R106, R107), and nothing else changes. -/
def State.CommandQueued (s : State) (i : Instr) (x : Ctx) (c : CtxId) (index : Nat) (cmd : BankCmd) : Prop :=
  exec i s = .next { s.afterIssue (x.past .none) with
    cores := s.cores.set c.core { s.coreOf c.core with
      cmds := (s.coreOf c.core).cmds ++ [{ who := c, index := index, cmd := cmd, seq := x.issued, ws := (s.coreOf c.core).watches }] } }

/-- The rows of a command as byte ranges. -/
def BankCmd.ranges (cmd : BankCmd) : List (Target × Nat) := cmd.rows.map fun r => (rowTarget r, 64)

/-- A command has room (R106), and nothing of the context's own meets its rows. -/
structure State.RoomFor (s : State) (x : Ctx) (c : CtxId) (cmd : BankCmd) : Prop where
  clear : s.Clear x cmd.ranges
  unwatched : s.watch c.core .st cmd.ranges = none
  room : (s.coreOf c.core).cmds.length + s.pendingHalves c.core < 256

/-- A range of scratch that an access can read and write: no byte frozen (R214), none of its 8-byte units uncorrectable (R246, R399). -/
def State.ScratchUsable (s : State) (core off n : Nat) : Prop :=
  s.scrBad core (off / 8 * 8) ((off + n + 7) / 8 * 8 - off / 8 * 8) = false ∧ ∀ j, j < n → s.frozenAt core (off + j) = false

/-- Scratch of `t` is that of `s` but for the bytes `bs` at an offset of a core. -/
def State.ScratchWritten (s t : State) (core off : Nat) (bs : List Byte) : Prop :=
  ∀ key, memGet t.scr key = if h : scrKey core off ≤ key ∧ key - scrKey core off < bs.length then bs[key - scrKey core off] else memGet s.scr key

/-- A context has nothing left to perform or publish (R193, R194): no held store, no load out, no marking owed, no bank command, atomic or
queued matrix write, and no store on its way to unit space. -/
structure State.Settled (s : State) (x : Ctx) (c : CtxId) : Prop where
  held : x.held = []
  out : x.out = []
  unmarked : x.unmarked = []
  commands : ∀ q ∈ (s.coreOf c.core).cmds, q.who ≠ c
  atomics : ∀ p ∈ s.atoms, p.2.who ≠ .ctx c
  matrix : s.matrixWrites c = false
  units : ∀ q ∈ s.unitq, q.1 ≠ c

/-- No watchpoint of a core is enabled (R248). -/
def State.Unwatched (s : State) (core : Nat) : Prop := ∀ n (h : n < 4), ((s.coreOf core).wctl[n]).getLsbD 63 = false

/-- A copy is queued as a new operation of `c`, pending in the destination handle, at the end of its queue (R32, R97); a [cbn] form takes the
buffer's next slot (R18). Nothing else changes. -/
def State.CopyQueued (s : State) (i : Instr) (x : Ctx) (f : Fld) (c : CtxId) (fr : Frame) (mk : CopyOp) : Prop :=
  exec i s = .next { s.afterIssue ((x.past .none).writeHandle f.dst (.pending s.nextId)) with
    nextId := s.nextId + 1,
    ops := s.ops.set s.nextId { who := c, space := x.space, job := fr.task.job, kind := .copy mk, pc := x.pc, seq := x.issued },
    frames := (match mk.slot with
      | some (k, _) => s.frames.set (c.core, c.frm) (fr.setCb k ((fr.cb k).take none s.nextId))
      | none => s.frames),
    engine := s.engine.set c.core (s.engineOf c.core ++ [QItem.op s.nextId mk.q]) }

/-- What a new copy holds: its places, its form, its queue, nothing done yet. -/
structure CopyOp.Fresh (mk : CopyOp) (i : Instr) (src dst : Target) (form : CopyForm) (q : Nat) : Prop where
  instr : mk.instr = i
  src : mk.src = src
  dst : mk.dst = dst
  form : mk.form = form
  q : mk.q = q
  units : mk.units = 0
  begun : mk.begun = false
  cancelled : mk.cancelled = false
  merged : mk.merged = false

/-! ## Streams (R95, R96) -/

/-- Element p of a strided descriptor copy (R95, R96): BASE + i0 x S0 + i1 x S1 + i2 x S2, with i0 innermost. -/
def stridedWord (d : BitVec 256) (p : Nat) : Word :=
  let n0 := (d.extractLsb' 64 16).toNat
  let n1 := (d.extractLsb' 80 16).toNat
  (d.extractLsb' 0 64) + BitVec.ofNat 64 (p % n0) * (d.extractLsb' 128 32).signExtend 64 +
    BitVec.ofNat 64 (p / n0 % n1) * (d.extractLsb' 160 32).signExtend 64 + BitVec.ofNat 64 (p / n0 / n1) * (d.extractLsb' 192 32).signExtend 64

/-- The flags of element p of a strided descriptor copy (R96): E0 at the end of a row, E1 at the end of a plane, E2 at the last element. -/
def stridedFlags (d : BitVec 256) (p : Nat) : BitVec 3 :=
  let n0 := (d.extractLsb' 64 16).toNat
  let n1 := (d.extractLsb' 80 16).toNat
  let n2 := (d.extractLsb' 96 16).toNat
  if (p + 1) % n0 ≠ 0 then 0 else if (p + 1) / n0 % n1 ≠ 0 then 1 else if (p + 1) / n0 / n1 ≠ n2 then 3 else 7

/-- The element count of a strided descriptor. -/
def stridedCount (d : BitVec 256) : Nat := (d.extractLsb' 64 16).toNat * (d.extractLsb' 80 16).toNat * (d.extractLsb' 96 16).toNat

/-- A strided stream with nothing fetched ahead of its position but what its descriptor gives (R96). -/
structure Stream.Strided (st : Stream) (d : BitVec 256) : Prop where
  src : st.src = .strided d
  count : st.count = stridedCount d
  counted : 0 < stridedCount d
  ahead : ∀ k (h : k < st.ahead.length), st.ahead[k] = (stridedWord d (st.pos + k), stridedFlags d (st.pos + k))
  inside : st.pos + st.ahead.length ≤ st.count ∨ st.ahead = []

/-! ## Lanes (R175, R402) -/

/-- Lane j of a source in w-bit lanes, as the instruction reads it (R402). -/
def State.lane (s : State) (x : Ctx) (f : Fld) (o : Operand) (w j : Nat) : Nat :=
  laneOf w (srcV (s.view x) f s.pairView.isSome w o).toNat j

/-- The flags of the lanes that a mask performs (R151). -/
def takenFlags (m : Word) (n : Nat) (g : Nat → Flags) : Flags :=
  (List.range n).foldl (fun acc j => acc.or (if m.getLsbD j then g j else {})) {}

/-- `i` completes lane by lane over `n` lanes of `w` bits (R175, R403): a performed lane j takes `g j`, another keeps its value, and the
flags of the performed lanes become sticky. -/
def State.GivesLanes (s : State) (i : Instr) (x : Ctx) (f : Fld) (w n : Nat) (g : Nat → Nat × Flags) : Prop :=
  let m := (s.view x).mask f
  ∃ v, s.GivesVector i x f.dst v (takenFlags m n fun j => (g j).2) ∧
    ∀ j, j < n → laneOf w v.toNat j = if m.getLsbD j then (g j).1 % 2 ^ w else s.lane x f f.dst w j

/-! ## Reads at issue, and events -/

/-- A device range that a read takes as its home holds it: no slab of it is cold or migrating (R234, R235), no tile of it stale (R142), no
byte of it uncorrectable (R247), and its window holds no older line of it (R203). -/
structure State.Readable (s : State) (sid obj off n : Nat) : Prop where
  hot : ∀ o ∈ granuleStarts off n, ∀ p, s.place sid obj o = some p → p.state ≠ 1 ∧ p.state ≠ 2
  fresh : s.staleTiles sid obj off n = []
  good : s.devBad sid obj off n = false
  lines : ∀ g ∈ s.granules sid obj off n, s.oldLine g obj = none

/-- `i` completes in `s` with a device read at its issue: the issuing context becomes `x'`; heat counts, walk records and object caches apart
(R92, R94, R128), nothing else changes. -/
def State.LeavesHeat (s : State) (i : Instr) (x' : Ctx) : Prop :=
  ∃ e w o, exec i s = .next { s.afterIssue x' with extents := e, walks := w, objCache := o }

/-- An event answers a state that `q` describes, with memory, scratch and host memory as they were. -/
def State.Does (s : State) (i : Instr) (q : State → Prop) : Prop :=
  ∃ z, exec i s = .next z ∧ z.mem = s.mem ∧ z.scr = s.scr ∧ z.hostMem = s.hostMem ∧ q z

/-- Operation `op` has completed with the word `w` (R32, R33): it is gone, and each handle that awaits it alone holds the word. The agents' other registers
are as they were, and a handle that awaits another operation still does. -/
def State.OpDone (s t : State) (op : Nat) (w : Word) : Prop :=
  t.ops = s.ops.del op ∧ ∀ a x, s.ctxs.get a = some x → ∃ y, t.ctxs.get a = some y ∧ y = { x with h := y.h } ∧
    ∀ (i : Nat) (h : i < 16), (x.h[i] = .pending op → y.h[i] = .complete w [op]) ∧
      ∀ m, m ≠ op → x.h[i] = .pending m → y.h[i] = .pending m

/-! ## Slabs (R92, R233 to R235) -/

/-- Memory of `t` is that of `s` but for the bytes `bs` from the cell `dest` up, and over them the extent entry of `p`, which is `e`. -/
def State.SlabWritten (s t : State) (p : Place) (dest : Nat) (bs : List Byte) (e : BitVec 64) : Prop :=
  ∀ a, memGet t.mem a =
    if p.extAddr ≤ a ∧ a < p.extAddr + 8 then e.extractLsb' (8 * (a - p.extAddr)) 8
    else if h : dest ≤ a ∧ a - dest < bs.length then bs[a - dest] else memGet s.mem a

/-- An extent entry (R92): PSLAB, STATE, PIN and EPOCH, with bits 63:34 zero. -/
def ExtentIs (e : BitVec 64) (pslab : Nat) (st : BitVec 2) (pin : Bool) (epoch : BitVec 8) : Prop :=
  (e.extractLsb' 0 23).toNat = pslab ∧ e.extractLsb' 23 2 = st ∧ e.getLsbD 25 = pin ∧ e.extractLsb' 26 8 = epoch ∧ e.extractLsb' 34 30 = 0

/-- The granule tags of the slab at the cell `dest` become `tags`; every other granule keeps its tag (R86). -/
def State.TagsWritten (s t : State) (dest : Nat) (tags : List Bool) : Prop :=
  ∀ g, t.tags.contains g = if h : dest / 16 ≤ g ∧ g - dest / 16 < tags.length then tags[g - dest / 16] else s.tags.contains g

/-! ## Queues of a frame's matrix unit, and directories of keys -/

/-- A matrix instruction joins its frame's queue (R372), with the prefix and rounding mode it read; nothing else changes. -/
def State.MatrixQueued (s : State) (i : Instr) (x : Ctx) (c : CtxId) (fr : Frame) (cmd : MatCmd) (rels : List Nat := []) : Prop :=
  s.LeavesFrame i c (x.past .none) { fr with
    mq := fr.mq ++ [{ who := c.kind, cmd := cmd, payload := if x.pp then some x.payload else none, rm := x.rm, steps := 0, word := encode i,
                      rels := rels }] }

/-- A word that an instruction reads through a capability at its issue: it passes R84 and the lease, nothing of the context's own meets it, and its
home can be read. -/
structure State.WordReady (s : State) (x : Ctx) (c : Cap) (off : Nat) : Prop where
  checked : s.capCause x.space c off 4 { r := true } 4 = none
  leased : s.leased s.curJob (spaceSid x.space) (CapF.obj c) off 4 false false = true
  clear : s.Clear x [(.dev (spaceSid x.space) (CapF.obj c) off, 4)]
  readable : s.Readable (spaceSid x.space) (CapF.obj c) off 4

/-- Every word of a key directory (R119) can be read. -/
def State.DirReady (s : State) (x : Ctx) (dir : Cap) : Prop :=
  ∀ i, 4 * i < 20 + 8 * s.nkeys (spaceSid x.space) dir → s.WordReady x dir (CapF.base dir + 4 * i)

/-- The elements of a strided stream rise strictly, as keys do (R119). -/
def Ascends (d : BitVec 256) : Prop := ∀ p q, p < q → q < stridedCount d → (stridedWord d p).toNat < (stridedWord d q).toNat

end Sys2Proof.Machine
end

