-- ==== Sys2Proof/Certificates/Slice0/Obligations.lean ====
section
/-! DEFINITION. The statements for the provers, drawn from the numbered rules of spec/. -/

section
open Sys2Proof Sys2Proof.Machine

/-! ## Group 0: the scalar ALU (R187 to R189, R310, R319, R335) -/

/-- R188, the rows ADD to MAX: each completes with the wrapped w-bit result, zero-extended (R187), in its destination alone. U selects
the unsigned reading (R187). -/
def Obligations.ScalarTwoSourceResults : Prop :=
  ∀ (s : State) (x : Ctx) (f : Fld),
    let w := f.width
    let a := s.src x f f.sa
    let b := s.src x f f.sb
    let u := f.imm.getLsbD 28
    let ia := readAs u w a
    let ib := readAs u w b
    let n := (b.setWidth w).toNat % w
    (s.Issues (.add f) {} x → s.GivesScalar (.add f) x f.dst ((a.setWidth w + b.setWidth w).setWidth 64)) ∧
    (s.Issues (.sub f) {} x → s.GivesScalar (.sub f) x f.dst ((a.setWidth w - b.setWidth w).setWidth 64)) ∧
    (s.Issues (.mul f) {} x → s.GivesScalar (.mul f) x f.dst ((a.setWidth w * b.setWidth w).setWidth 64)) ∧
    (s.Issues (.mulh f) {} x → s.GivesScalar (.mulh f) x f.dst ((BitVec.ofInt w (ia * ib / 2 ^ w)).setWidth 64)) ∧
    (s.Issues (.div f) {} x → s.GivesScalar (.div f) x f.dst
      ((if b.setWidth w = 0 then BitVec.allOnes w else BitVec.ofInt w (ia.tdiv ib)).setWidth 64)) ∧
    (s.Issues (.rem f) {} x → s.GivesScalar (.rem f) x f.dst
      ((if b.setWidth w = 0 then a.setWidth w else BitVec.ofInt w (ia - ib * ia.tdiv ib)).setWidth 64)) ∧
    (s.Issues (.and f) {} x → s.GivesScalar (.and f) x f.dst ((a.setWidth w &&& b.setWidth w).setWidth 64)) ∧
    (s.Issues (.or f) {} x → s.GivesScalar (.or f) x f.dst ((a.setWidth w ||| b.setWidth w).setWidth 64)) ∧
    (s.Issues (.xor f) {} x → s.GivesScalar (.xor f) x f.dst ((a.setWidth w ^^^ b.setWidth w).setWidth 64)) ∧
    (s.Issues (.shl f) {} x → s.GivesScalar (.shl f) x f.dst ((a.setWidth w <<< n).setWidth 64)) ∧
    (s.Issues (.shr f) {} x → s.GivesScalar (.shr f) x f.dst ((a.setWidth w >>> n).setWidth 64)) ∧
    (s.Issues (.sar f) {} x → s.GivesScalar (.sar f) x f.dst (((a.setWidth w).sshiftRight n).setWidth 64)) ∧
    (s.Issues (.min f) {} x → s.GivesScalar (.min f) x f.dst (((if ia ≤ ib then a else b).setWidth w).setWidth 64)) ∧
    (s.Issues (.max f) {} x → s.GivesScalar (.max f) x f.dst (((if ib ≤ ia then a else b).setWidth w).setWidth 64))

/-- R188 and R189: CMP by its ten codes (a k destination takes the result in every bit, R16), and the rows SEL to BFI. -/
def Obligations.ScalarOtherResults : Prop :=
  ∀ (s : State) (x : Ctx) (f : Fld),
    let w := f.width
    let a := s.src x f f.sa
    let b := s.src x f f.sb
    let pos := (f.imm.extractLsb' 0 6).toNat
    let len := (f.imm.extractLsb' 6 6).toNat + 1
    (s.Issues (.cmp f) {} x → s.GivesScalar (.cmp f) x f.dst
      (if condHolds (f.imm.extractLsb' 24 4).toNat (a.setWidth w) (b.setWidth w) then (if f.dst.isK then BitVec.allOnes 64 else 1) else 0)) ∧
    (s.Issues (.sel f) {} x → s.GivesScalar (.sel f) x f.dst
      (((if (s.src x f f.sc).getLsbD 0 then a else b).setWidth w).setWidth 64)) ∧
    (s.Issues (.movi f) {} x → s.GivesScalar (.movi f) x f.dst
      (if f.mod = 3 then f.imm.signExtend 64 else (f.imm.setWidth w).setWidth 64)) ∧
    (s.Issues (.ext f) {} x → s.GivesScalar (.ext f) x f.dst ((a.setWidth w).signExtend 64)) ∧
    (s.Issues (.clz f) {} x → s.GivesScalar (.clz f) x f.dst
      (BitVec.ofNat 64 ((List.range w).takeWhile fun i => ! (a.setWidth w).getMsbD i).length)) ∧
    (s.Issues (.popc f) {} x → s.GivesScalar (.popc f) x f.dst
      (BitVec.ofNat 64 ((List.range w).filter fun i => (a.setWidth w).getLsbD i).length)) ∧
    (s.Issues (.bfx f) {} x → s.GivesScalar (.bfx f) x f.dst ((a.extractLsb' pos len).setWidth 64)) ∧
    (s.Issues (.bfi f) {} x → ∃ r : BitVec w, s.GivesScalar (.bfi f) x f.dst (r.setWidth 64) ∧
      ∀ i, i < w → r.getLsbD i = if pos ≤ i ∧ i < pos + len then a.getLsbD (i - pos) else (s.src x f f.dst).getLsbD i)

/-- R377, R367: MOV copies a scalar, a capability or a handle (whose source register is then empty, R32) and reads a completed handle's
word, 0 of an empty one; KMOV copies all 64 bits; KLOG has six operations. -/
def Obligations.MoveAndMaskResults : Prop :=
  ∀ (s : State) (x : Ctx) (f : Fld),
    let a := s.src x f f.sa
    let b := s.src x f f.sb
    (s.Issues (.mov f) { dyn07 := fun _ y => unbound f.sa y } x →
      (f.dst.cls = .g ∨ f.dst.cls = .o → f.sa.cls ≠ .h → f.sa.cls ≠ .s → s.GivesScalar (.mov f) x f.dst a) ∧
      (∀ n, f.dst.cls = .g ∨ f.dst.cls = .o → f.sa = .h n → (s.view x).readH n = .empty → s.GivesScalar (.mov f) x f.dst 0) ∧
      (∀ n w os, f.dst.cls = .g ∨ f.dst.cls = .o → f.sa = .h n → (s.view x).readH n = .complete w os →
        ∃ x', s.Leaves (.mov f) x' ∧
          ({ x with early := [], win := x.win ++ s.observed ((s.view x).readH n) } : Ctx).ScalarResult x' f.dst w) ∧
      (∀ n, f.dst = .b n → s.GivesCap (.mov f) x f.dst (srcC (s.view x) f.sa)) ∧
      (∀ n m, f.dst = .h n → f.sa = .h m → ∃ x', s.Leaves (.mov f) x' ∧ x' = { x.past .none with h := x'.h } ∧
        ∀ r, x'.readH r = if r = n then (s.view x).readH m else if r = m then .empty else x.readH r)) ∧
    (s.Issues (.kmov f) {} x → s.GivesScalar (.kmov f) x f.dst a) ∧
    (s.Issues (.klog f) {} x → ∃ w, s.GivesScalar (.klog f) x f.dst w ∧
      (f.imm = 0 → w = a &&& b) ∧ (f.imm = 1 → w = a ||| b) ∧ (f.imm = 2 → w = a ^^^ b) ∧ (f.imm = 3 → w = a &&& ~~~b) ∧
      (f.imm = 4 → w = a ||| ~~~b) ∧ (f.imm = 5 → w = ~~~(a ^^^ b)))

/-- R333: CDROP clears rights and never faults; CNARROW narrows a tagged capability within its bounds and rights, else 0x10 or 0x12; CGET
reads a field. -/
def Obligations.CapabilityFieldInstructions : Prop :=
  ∀ (s : State) (x : Ctx) (f : Fld),
    let c := srcC (s.view x) f.sa
    let gb := s.src x f f.sb
    let gl := s.src x f f.sc
    let inside := gb ≤ gl ∧ CapF.base c ≤ gb.toNat ∧ gl.toNat ≤ CapF.limit c ∧ f.imm.extractLsb' 0 7 &&& ~~~CapF.rights c = 0
    (s.Issues (.cdrop f) {} x → ∃ d, s.GivesCap (.cdrop f) x f.dst d ∧
      ∀ i, i < 128 → d.getLsbD i = (c.getLsbD i && ! (decide (120 ≤ i) && decide (i < 127) && f.imm.getLsbD (i - 120)))) ∧
    (s.Issues (.cnarrow f) {} x →
      (CapF.tag c = true → inside → ∃ d, s.GivesCap (.cnarrow f) x f.dst d ∧
        CapF.base d = gb.toNat % 2 ^ 40 ∧ CapF.limit d = gl.toNat % 2 ^ 40 ∧ CapF.rights d = f.imm.extractLsb' 0 7 ∧
        CapF.tag d = true ∧ CapF.obj d = CapF.obj c) ∧
      (CapF.tag c = false → s.Faults (.cnarrow f) x 0x10 0 (bIndex f.sa)) ∧
      (CapF.tag c = true → ¬ inside → s.Faults (.cnarrow f) x 0x12 0 (bIndex f.sa))) ∧
    (s.Issues (.cget f) {} x → ∃ w, s.GivesScalar (.cget f) x f.dst w ∧
      (f.imm = 0 → w.toNat = CapF.base c) ∧ (f.imm = 1 → w.toNat = CapF.limit c) ∧ (f.imm = 2 → w.toNat = CapF.obj c) ∧
      (f.imm = 3 → w = (CapF.rights c).zeroExtend 64) ∧ (f.imm = 4 → w.toNat = (CapF.tag c).toNat) ∧
      (f.imm = 5 → w = c.extractLsb' 0 64) ∧ (f.imm = 6 → w = c.extractLsb' 64 64))

/-! ## Group 2: control (R169, R170, R320 to R324, R327, R364, R386) -/

/-- R170, R320, R323, R327, R386, R324: BR, BRX, RET and CALL go to their target when its slot is below 5, its line is in the store and its TGT bit
is set, else they raise 0x04 with the target in EADDR; CALL leaves the next slot's PC in its destination; BSE goes by the flag that IMM[16:15]
chooses of the element last read. R364, R245: JTAB past its table sets JR and goes on; else it clears JR and goes where the entry says, and an entry
with bit 15 set raises 0x04. R169: the next slot in issue order: slots 0 to 4 of a line, then slot 0 of the next line; past the last line the PC's
slot field is 7 (the model's choice, LOG 27). -/
def Obligations.TransfersGoToLegalTargets : Prop :=
  ((∀ (s : State) (x : Ctx) (f : Fld),
    let near : Pc := f.imm.extractLsb' 0 15
    let far : Pc := (s.src x f f.sa).extractLsb' 0 15
    (s.Issues (.br f) {} x → s.JumpsTo (.br f) x (x.past .none) near) ∧
    (s.Issues (.brx f) {} x → s.JumpsTo (.brx f) x (x.past .none) far) ∧
    (s.Issues (.ret f) {} x → s.JumpsTo (.ret f) x (x.past .none) far) ∧
    (s.Issues (.call f) {} x → ∃ x', x.ScalarResult x' f.dst ((pcForm (pcNext x.pc)).zeroExtend 64) ∧ s.JumpsTo (.call f) x x' near) ∧
    (∀ n st, s.Issues (.bse f) { dyn07 := fun _ y => unbound f.sa y } x → f.sa = .s n → (s.view x).readS n = some st →
      (st.flags.getLsbD (f.imm.extractLsb' 15 2).toNat = true → s.JumpsTo (.bse f) x (x.past .none) near) ∧
      (st.flags.getLsbD (f.imm.extractLsb' 15 2).toNat = false → s.Leaves (.bse f) (x.past .none)))) ∧
  (∀ (s : State) (x : Ctx) (f : Fld),
    let gx := (s.src x f f.sa).toNat
    let done (b : Bool) : Ctx := { x.past .none with status := setBit (x.past .none).status 3 b }
    (∀ i, i = .jtabScratch f ∨ i = .jtabDevice f → s.Issues i {} x → f.imm.toNat ≤ gx → s.Leaves i (done true)) ∧
    (∀ core o, s.Issues (.jtabScratch f) {} x → gx < f.imm.toNat → s.scrChk (s.src x f f.sb) ((2 * gx : Nat) : Int) 2 = .ok (core, o) →
      s.Clear x [(.scr core o, 2)] → s.scrBad core o 2 = false →
      let e : BitVec 16 := BitVec.ofNat 16 (leNat (s.readOwn x (.scr core o) 2))
      (e.getLsbD 15 = false → s.JumpsTo (.jtabScratch f) x (done false) (e.extractLsb' 0 15)) ∧
      (e.getLsbD 15 = true → s.Faults (.jtabScratch f) x 0x04 ((e.extractLsb' 0 15).zeroExtend 64) 0)) ∧
    (∀ sid obj o, s.Issues (.jtabDevice f) {} x → gx < f.imm.toNat →
      s.devChk (s.view x) f.sb (capOff (s.src x f f.sc) ((2 * gx : Nat) : Int)) 2 { r := true } false = .ok (.dev sid obj o) →
      s.Clear x [(.dev sid obj o, 2)] → s.Readable sid obj o 2 →
      let e : BitVec 16 := BitVec.ofNat 16 (leNat (s.readOwn x (.dev sid obj o) 2))
      let p : Pc := e.extractLsb' 0 15
      (e.getLsbD 15 = false → s.targetOk s.cur p = true → s.LeavesHeat (.jtabDevice f) { done false with pc := p }) ∧
      (e.getLsbD 15 = true ∨ s.targetOk s.cur p = false → s.Faults (.jtabDevice f) x 0x04 (p.zeroExtend 64) 0)))) ∧
  ((∀ slot line, slot < 4 → line < 4096 → pcNext (pcOf slot line) = pcOf (slot + 1) line) ∧
  (∀ line, line < 4095 → pcNext (pcOf 4 line) = pcOf 0 (line + 1)) ∧
  pcSlot (pcNext (pcOf 4 4095)) = 7 ∧
  (∀ slot line, slot < 8 → line < 4096 → pcSlot (pcOf slot line) = slot ∧ pcLine (pcOf slot line) = line))

/-! ## Group 4 and capabilities in memory: loads and stores (R176, R193, R368, R369, R398 to R400, R408, R409) -/

/-- R176, R368, R369, R408, R409: a context's load that passes its address checks, meets nothing of the context's own and matches no watchpoint goes
outstanding under its tag, with its destination, address and translation (R92); no register and no memory changes at issue. R193, R399, R400, R408, R409, R82: a
context's plain store that passes its checks, meets nothing of the context's own and matches no watchpoint is held until its home performs it: no
byte of memory changes at issue, and the held bytes and their places are these. A store to a unit-space word is sent to its unit. -/
def Obligations.LoadsAndPlainStores : Prop :=
  (∀ (s : State) (x : Ctx) (f : Fld) (c : CtxId), s.cur = .ctx c →
    let y := s.view x
    let a := s.src x f f.sa
    let imm := f.off24.toInt
    let off := capOff (s.src x f f.sb) imm
    let n := f.width / 8
    let quiet (ts : List (Target × Nat)) : Prop := s.Clear x ts ∧ s.watch c.core .ld ts = none
    (s.Issues (.ld f) {} x → ∀ core o, s.localRef a imm n = .ok (.scr core o) → quiet [(.scr core o, n)] →
      s.LoadSent (.ld f) x f (f.ord == 1) (.load (.scr core o) n) (localEaddr a imm)) ∧
    (s.Issues (.ld f) {} x → ∀ u, s.localRef a imm n = .ok (.unit u) → y.acqPending = false →
      exec (.ld f) s = .next { s.afterIssue { x.past .none with out := x.out ++ [loadOutst f x (f.ord == 1) (.unit u) (localEaddr a imm)] } with
        lineBack := if u.isLine then s.lineBack.set c { x with status := x.status &&& ~~~4#64 } else s.lineBack }) ∧
    (s.Issues (.ldg f) {} x → ∀ t, s.devChk y f.sa off n { r := true } false (n == 8) = .ok t → quiet [(t, n)] →
      s.LoadSent (.ldg f) x f (f.ord == 1) (.load t n) (offWord off)) ∧
    (s.Issues (.ldc f) {} x → ∀ t, s.devChk y f.sa off 16 { r := true, l := true } false = .ok t → quiet [(t, 16)] →
      s.LoadSent (.ldc f) x f false (.cap t) (offWord off)) ∧
    (s.Issues (.vld f) { gated := false } x → ∀ core o, s.scrChk a imm 128 = .ok (core, o) → quiet (laneRanges (.scr core o) (y.mask32 f)) →
      s.LoadSent (.vld f) x f (f.ord == 1) (.vload (.scr core o) (y.mask32 f)) (localEaddr a imm)) ∧
    (s.Issues (.vldg f) { gated := false } x → ∀ t, s.devChk y f.sa off 128 { r := true } false = .ok t → quiet (laneRanges t (y.mask32 f)) →
      s.LoadSent (.vldg f) x f (f.ord == 1) (.vload t (y.mask32 f)) (offWord off)) ∧
    (s.Issues (.vgath f) { gated := false } x → ∀ ts, s.laneTargets a (srcV y f s.pairView.isSome 32 f.sb) (y.mask32 f) = .ok ts →
      quiet (ts.filterMap fun t => t.map fun t => (t, 4)) → s.LoadSent (.vgath f) x f (f.ord == 1) (.gather ts) (a &&& 0xFFFFFFFF))) ∧
  (∀ (s : State) (x : Ctx) (f : Fld) (c : CtxId), s.cur = .ctx c → f.ord ≠ 2 →
    let y := s.view x
    let a := s.src x f f.sa
    let imm := f.off24.toInt
    let off := capOff (s.src x f f.sb) imm
    let n := f.width / 8
    let quiet (ts : List (Target × Nat)) : Prop := s.Clear x ts ∧ s.watch c.core .st ts = none
    let sized (ps : List (Target × List Byte)) : List (Target × Nat) := ps.map fun p => (p.1, p.2.length)
    (s.Issues (.st f) {} x → ∀ core o, s.localRef a imm n = .ok (.scr core o) → quiet [(.scr core o, n)] →
      s.StoreHeld (.st f) x { parts := [(.scr core o, bytesOf n (s.src x f f.sb).toNat)], cap := false }) ∧
    (s.Issues (.st f) {} x → ∀ u, s.localRef a imm n = .ok (.unit u) → (u.dispatcher = true → x.sv = true) →
      s.unitReserved u (s.src x f f.sb) = false → y.acqPending = false →
      exec (.st f) s = .next { s.afterIssue (x.past .none) with
        unitq := if u.readOnly || u.ignores (s.src x f f.sb) then s.unitq else s.unitq ++ [(c, u, s.src x f f.sb)] }) ∧
    (s.Issues (.stg f) {} x → ∀ t, s.devChk y f.sa off n { w := true } true (n == 8) = .ok t → quiet [(t, n)] →
      s.StoreHeld (.stg f) x { parts := [(t, bytesOf n (s.src x f f.sc).toNat)], cap := false }) ∧
    (s.Issues (.stc f) {} x → ∀ t, s.capCause y.space (srcC y f.sa) off 16 { w := true, l := true } 1 = none →
      (CapF.tag (srcC y f.sc) = true → CapF.g (srcC y f.sc) = true) →
      s.devChk y f.sa off 16 { w := true, l := true } true = .ok t → quiet [(t, 16)] →
      s.StoreHeld (.stc f) x { parts := [(t, bytesOf 16 (srcC y f.sc).toNat)], cap := CapF.tag (srcC y f.sc) }) ∧
    (s.Issues (.vst f) { gated := false } x → ∀ core o, s.scrChk a imm 128 = .ok (core, o) →
      let ps := vecParts (.scr core o) (y.mask32 f) (srcV y f s.pairView.isSome 32 f.sb)
      quiet (sized ps) → s.StoreHeld (.vst f) x { parts := ps, cap := false }) ∧
    (s.Issues (.vstg f) { gated := false } x → ∀ t, s.devChk y f.sa off 128 { w := true } true = .ok t →
      let ps := vecParts t (y.mask32 f) (srcV y f s.pairView.isSome 32 f.sc)
      quiet (sized ps) → s.StoreHeld (.vstg f) x { parts := ps, cap := false }) ∧
    (s.Issues (.vscat f) { gated := false } x → ∀ ts, s.laneTargets a (srcV y f s.pairView.isSome 32 f.sb) (y.mask32 f) = .ok ts →
      let ps := ((List.range 32).zip ts).filterMap fun (p : Nat × Option Target) =>
        p.2.map fun t => (t, bytesOf 4 (lane32 (srcV y f s.pairView.isSome 32 f.sc) p.1).toNat)
      quiet (sized ps) → s.StoreHeld (.vscat f) x { parts := ps, cap := false, inOrder := true }))

/-! ## Group 5: atomics (R201, R217, R308, R309, R311, R312, R404) -/

/-- R308, R309, R311, R312, R404: a context's plain or .ACQ atomic that passes its checks and meets nothing of its own is on its way as a request of
its own; ATOM and ACAS with a destination await the old value under their tag; VARED sends one request for each lane taken. No byte of memory
changes at issue. R201, R217, R309: ATOMIC_HOME_APPLY on an unmerged request to usable scratch writes the operation's result to exactly its bytes
(ACAS only where the old value is the comparand), and keeps the old value for an awaited reply. R217: the atomic operations on w-bit values. -/
def Obligations.AtomicRequestsSentAndApplied : Prop :=
  ((∀ (s : State) (x : Ctx) (f : Fld) (c : CtxId) (t : Target), s.cur = .ctx c → f.ord ≠ 2 →
    let y := s.view x
    let n := f.width / 8
    let wide : Int := (f.imm.extractLsb' 0 20).toInt
    let wp := s.watch c.core .atm [(t, n)]
    let sent (i : Instr) (a : AtomSpec) (awaited : Bool) : Prop :=
      exec i s = .next { s.afterIssue { x.past .none with
          out := x.out ++ if awaited || f.ord == 1 then
            [⟨f.talloc, if awaited then f.dst else .g 0, f.ord == 1, .atomic s.nextId n, t.eaddr, x.pc, x.issued, {}⟩] else [] } with
        nextId := s.nextId + 1, atomIds := (s.nextRid c.core).2.atomIds, objCache := (s.cacheFor [(t, n)]).objCache,
        atoms := s.atoms.set s.nextId
          (a.request s.cur x.space f.ord (awaited || f.ord == 1) wp 0 c.core (s.nextRid c.core).1 x.issued x.pc
            (s.translate [(t, n)])) }
    (s.Issues (.atom f) {} x → s.atomTarget y f wide n { r := true, a := true } = .ok t → s.Clear x [(t, n)] → s.atomRoom [t] = true →
      sent (.atom f) { t := t, op := f.atomOp.toNat, bytes := n, x := s.src x f f.sc, y := 0 } (f.dst != .g 0)) ∧
    (s.Issues (.ared f) {} x → s.atomTarget y f wide n { a := true } = .ok t → s.Clear x [(t, n)] → s.atomRoom [t] = true →
      sent (.ared f) { t := t, op := f.atomOp.toNat, bytes := n, x := s.src x f f.sc, y := 0 } false) ∧
    (s.Issues (.acas f) { regs := [.g (f.imm.extractLsb' 18 6)] } x →
      s.atomTarget y f (f.imm.extractLsb' 0 18).toInt n { r := true, a := true } = .ok t → s.Clear x [(t, n)] → s.atomRoom [t] = true →
      sent (.acas f) { t := t, op := 16, bytes := n, x := y.readG (f.imm.extractLsb' 18 6), y := s.src x f f.sc } (f.dst != .g 0)) ∧
    (s.Issues (.vared f) { gated := false } x → f.ord = 0 → s.atomTarget y f wide 128 { a := true } = .ok t →
      let ls := (List.range 32).filter fun j => (y.mask32 f).getLsbD j
      s.Clear x (ls.map fun j => (t.plus (4 * j), 4)) → s.atomRoom (ls.map fun j => t.plus (4 * j)) = true →
      ∃ z, exec (.vared f) s = .next z ∧ z.mem = s.mem ∧ z.scr = s.scr ∧ z.nextId = s.nextId + ls.length ∧
        z.ctxs = s.ctxs.set s.cur (x.past .none) ∧ (∀ k, k < s.nextId → z.atoms.get k = s.atoms.get k) ∧
        ∀ k (h : k < ls.length), ∃ r, z.atoms.get (s.nextId + k) = some r ∧ r.who = s.cur ∧ r.t = t.plus (4 * ls[k]) ∧ r.op = 9 ∧
          r.bytes = 4 ∧ r.x = (lane32 (srcV y f s.pairView.isSome 32 f.sc) ls[k]).zeroExtend 64 ∧ r.applied = false ∧ r.merged = [])) ∧
  (∀ (s : State) (req : Nat) (r : AtomReq) (core off : Nat),
    s.CanonicalMemory → s.atoms.get req = some r → r.applied = false → r.led = false → r.merged = [] → r.kacc = none →
    s.earlierAtom [req] req r = false → (∀ p ∈ s.atoms, p.2.merged = []) → r.t = .scr core off → s.ScratchUsable core off r.bytes →
    let w := 8 * r.bytes
    let old := leNat (s.scrRead core off r.bytes)
    let new := atomResult r.op w old (r.x.toNat % 2 ^ w) (r.y.toNat % 2 ^ w)
    ∃ z, exec (.atomicHomeApply req) s = .next z ∧ z.mem = s.mem ∧
      s.ScratchWritten z core off (if r.op = 16 ∧ old ≠ r.y.toNat % 2 ^ w then s.scrRead core off r.bytes else bytesOf r.bytes new) ∧
      (r.wants = true → ∃ q, z.atoms.get req = some q ∧ q.applied = true ∧ q.reply = some (BitVec.ofNat 64 old)) ∧
      (∀ k, k ≠ req → z.atoms.get k = s.atoms.get k))) ∧
  (∀ (w : Nat) (old v : BitVec w), 0 < w →
    let r (op : Nat) : BitVec w := BitVec.ofNat w (atomResult op w old.toNat v.toNat 0)
    r 0 = old + v ∧ r 1 = old &&& v ∧ r 2 = old ||| v ∧ r 3 = old ^^^ v ∧ r 4 = (if v.slt old then v else old) ∧
    r 5 = (if old.slt v then v else old) ∧ r 6 = (if v.ult old then v else old) ∧ r 7 = (if old.ult v then v else old) ∧ r 8 = v)

/-! ## Group 3: the vector unit (R402, R403, R405 to R407, R410) -/

/-- R403: VADD, VSUB, VMUL and VFMA compute each performed lane exactly and round once (F32 by STATUS.RM; BF16 and F16 by R150), or wrap
modulo 2^32 with no flag (I32). -/
def Obligations.VectorArithmeticLanes : Prop :=
  ∀ (s : State) (x : Ctx) (f : Fld),
    let w := Fld.laneW f
    let n := Fld.laneN f
    let a := s.lane x f f.sa w
    let b := s.lane x f f.sb w
    let c := s.lane x f f.sc w
    let d (k : Nat) : Machine.Num := (Fld.layout f).decode k
    let rm := if f.mod = 0 then Rm.ofCode x.rm else Rm.rne
    let lanes (i : Instr) (terms : Nat → List Machine.Num) (exact : Nat → Machine.Num) (int : Nat → Nat) : Prop :=
      s.Issues i laneMask x → s.GivesLanes i x f w n fun j =>
        if f.mod = 3 then (int j % 2 ^ 32, {}) else laneRound f.mod.toNat rm (terms j) (exact j)
    lanes (.vadd f) (fun j => [d (a j), d (b j)]) (fun j => sumNum rm [d (a j), d (b j)]) (fun j => a j + b j) ∧
    lanes (.vsub f) (fun j => [d (a j), d (b j)]) (fun j => sumNum rm [d (a j), (d (b j)).neg]) (fun j => a j + (2 ^ 32 - b j)) ∧
    lanes (.vmul f) (fun j => [d (a j), d (b j)]) (fun j => (d (a j)).mul (d (b j))) (fun j => a j * b j) ∧
    lanes (.vfma f) (fun j => [d (a j), d (b j), d (c j)]) (fun j => sumNum rm [(d (a j)).mul (d (b j)), d (c j)])
      (fun j => a j * b j + c j)

/-- R403, R405: the bitwise, shift, comparison and lane-movement instructions, which set no flag. -/
def Obligations.VectorBitwiseAndMoveLanes : Prop :=
  ∀ (s : State) (x : Ctx) (f : Fld),
    let w := Fld.laneW f
    let n := Fld.laneN f
    let a := s.lane x f f.sa w
    let b := s.lane x f f.sb w
    let u := f.imm.getLsbD 28
    let d (k : Nat) : Machine.Num := (Fld.layout f).decode k
    let r (v : Machine.Num) : Nat := ((Fld.layout f).round .rne false v).1
    let less (p q : Nat) : Bool := if u then decide (p < q) else decide (sextNat 32 p < sextNat 32 q)
    let lanes (i : Instr) (g : Nat → Nat) : Prop := s.Issues i laneMask x → s.GivesLanes i x f w n fun j => (g j, {})
    lanes (.vand f) (fun j => a j &&& b j) ∧ lanes (.vor f) (fun j => a j ||| b j) ∧ lanes (.vxor f) (fun j => a j ^^^ b j) ∧
    lanes (.vshl f) (fun j => a j * 2 ^ (b j % w)) ∧
    lanes (.vshr f) (fun j => if u then a j / 2 ^ (b j % w) else (sextNat w (a j) / 2 ^ (b j % w) % 2 ^ w).toNat) ∧
    lanes (.vabs f) (fun j => if f.mod = 3 then (sextNat 32 (a j)).natAbs else
      if (d (a j)).isNan then (Fld.layout f).nanCode else a j % 2 ^ (w - 1)) ∧
    lanes (.vmin f) (fun j => if f.mod = 3 then (if less (b j) (a j) then b j else a j) else r (numMin (d (a j)) (d (b j)))) ∧
    lanes (.vmax f) (fun j => if f.mod = 3 then (if less (a j) (b j) then b j else a j) else r (numMax (d (a j)) (d (b j)))) ∧
    lanes (.vsel f) (fun j => if (s.src x f f.sc).getLsbD j then a j else b j) ∧
    lanes (.viota f) (fun j => if f.mod = 3 then j else r (.ofInt j)) ∧
    lanes (.vperm f) (fun j => a (b j % n)) ∧
    (s.Issues (.vbcst f) { gated := false, dyn02 := fun s y => pdScalar y s.pairView.isSome f.sa && f.imm != 0 } x →
      s.GivesLanes (.vbcst f) x f w n fun _ => (a (f.imm.toNat % n), {}))

/-- R403, R163 to R165, R407: the reference functions on F32 lanes, widened and rounded once on 16-bit lanes; VCVT between the formats that
MOD and IMM, or a prefix, name. -/
def Obligations.VectorFunctionAndConvertLanes : Prop :=
  ∀ (s : State) (x : Ctx) (f : Fld),
    let w := Fld.laneW f
    let n := Fld.laneN f
    let a := s.lane x f f.sa w
    let wide (k : Nat) : Nat := (FFmt.f32.round .rne false ((Fld.layout f).decode k)).1
    let back (r : Nat × Flags) : Nat × Flags :=
      let t := (Fld.layout f).round .rne false (FFmt.f32.decode r.1)
      (t.1, { r.2 with ov := r.2.ov || t.2.ov })
    let lanes (i : Instr) (g : Nat → Nat × Flags) : Prop :=
      s.Issues i laneMask x → s.GivesLanes i x f w n fun j => if f.mod = 0 then g (a j) else back (g (wide (a j)))
    lanes (.vrcp f) vrcp32 ∧ lanes (.vrsq f) vrsq32 ∧ lanes (.vexp f) vexp32 ∧
    (s.Issues (.vcvt f) { gated := false, pfx := some fun _ => true } x →
      let sf := if x.pp then payA x.payload else modFmt f.mod.toNat
      let tf := if x.pp then payB x.payload else modFmt (f.imm.extractLsb' 0 2).toNat
      let rm := if x.pp then payRm x.rm x.payload else Rm.ofCode x.rm
      let ws := cvtWidth sf
      let wt := cvtWidth tf
      let n := 1024 / max ws wt
      let m := (s.view x).mask f
      let g (j : Nat) : Nat × Flags := if m.getLsbD (j % 64) then convert tf rm (cvtDecode sf (s.lane x f f.sa ws j)) else
        (s.lane x f f.dst wt j, {})
      ((x.pp = true → f.mod = 0 ∧ f.imm = 0 ∧ payB x.payload < 10 ∧ payAsc x.payload = 0 ∧ payBsc x.payload = 0) →
      ∃ v, s.GivesVector (.vcvt f) x f.dst v ((List.range n).foldl (fun acc j => acc.or (g j).2) {}) ∧
        (∀ j, j < n → laneOf wt v.toNat j = (g j).1 % 2 ^ wt) ∧ v.toNat < 2 ^ (wt * n)))

/-- R406, R189: VCMP writes bit j of its k destination for a performed lane, keeps it for another, and clears the bits past the last lane; a NaN
makes every float test false but .NE and sets NV under .LT, .GE, .LE and .GT. R410: VRED combines neighbours level by level and writes its result to
every lane; VSCAN writes each running value. I32 sums wrap. -/
def Obligations.VectorComparisonsAndReductions : Prop :=
  (∀ (s : State) (x : Ctx) (f : Fld),
    let w := Fld.laneW f
    let n := Fld.laneN f
    let a := s.lane x f f.sa w
    let b := s.lane x f f.sb w
    let c := (f.imm.extractLsb' 24 4).toNat
    let m := (s.view x).mask f
    let p (j : Nat) : Machine.Num := (Fld.layout f).decode (a j)
    let q (j : Nat) : Machine.Num := (Fld.layout f).decode (b j)
    let bothNumbers (j : Nat) : Bool := ! (p j).isNan && ! (q j).isNan
    let holds (j : Nat) : Bool :=
      if f.mod = 3 then condHolds c (BitVec.ofNat 32 (a j)) (BitVec.ofNat 32 (b j))
      else match c with
        | 0 => (p j).eq (q j) | 1 => ! (p j).eq (q j) | 2 => (p j).lt (q j) | 3 => bothNumbers j && ! (p j).lt (q j)
        | 6 => bothNumbers j && ! (q j).lt (p j) | _ => (q j).lt (p j)
    let fl := takenFlags m n fun j => { nv := decide (f.mod ≠ 3) && (c == 2 || c == 3 || c == 6 || c == 7) && ! bothNumbers j }
    s.Issues (.vcmp f) laneMask x → ∃ (x' : Ctx) (k : Word), s.Leaves (.vcmp f) x' ∧
      ({ x with status := x.status ||| fl.bits } : Ctx).ScalarResult x' f.dst k ∧
      ∀ j, j < 64 → k.getLsbD j = if j < n then (if m.getLsbD j then holds j else (s.src x f f.dst).getLsbD j) else false) ∧
  (∀ (s : State) (x : Ctx) (f : Fld),
    let w := Fld.laneW f
    let n := Fld.laneN f
    let flt := Fld.isFloat f
    let m := (s.view x).mask f
    let op := f.actl.toNat
    let a (j : Nat) : Nat :=
      if m.getLsbD j then
        (if f.mod = 0 ∨ f.mod = 3 then s.lane x f f.sa w j
         else (FFmt.f32.round .rne false ((Fld.layout f).decode (s.lane x f f.sa w j))).1)
      else redIdentity flt op
    let step := redOp flt (if f.mod = 0 then Rm.ofCode x.rm else .rne) op
    let out (r : Nat) : Nat × Flags := if f.mod = 0 ∨ f.mod = 3 then (r, {}) else (Fld.layout f).round .rne false (FFmt.f32.decode r)
    (s.Issues (.vred f) laneMask x → ∃ v fl, s.GivesVector (.vred f) x f.dst v fl ∧
      (∀ j, j < n → laneOf w v.toNat j = (out (redTree step 7 ((List.range n).map a)).1).1 % 2 ^ w) ∧
      (f.mod = 3 → op = 0 → ∀ j, j < n → laneOf w v.toNat j = ((List.range n).map a).sum % 2 ^ 32)) ∧
    (s.Issues (.vscan f) laneMask x → ∃ v fl, s.GivesVector (.vscan f) x f.dst v fl ∧
      (∀ j, j < n → laneOf w v.toNat j =
        (out ((List.range j).foldl (fun acc k => (step acc (a (k + 1))).1) (a 0))).1 % 2 ^ w) ∧
      (f.mod = 3 → op = 0 → ∀ j, j < n → laneOf w v.toNat j = ((List.range (j + 1)).map a).sum % 2 ^ 32)))

/-- R405: VGETL reads lane idx where the mask has it and else keeps gd; VSETL writes that lane alone. -/
def Obligations.VectorLaneReadAndWrite : Prop :=
  ∀ (s : State) (x : Ctx) (f : Fld),
    let w := Fld.laneW f
    let n := Fld.laneN f
    let m := (s.view x).mask f
    let idx := (s.src x f f.sb).toNat % n
    (s.Issues (.vgetl f) laneMask x → s.GivesScalar (.vgetl f) x f.dst
      (if m.getLsbD idx then BitVec.ofNat 64 (s.lane x f f.sa w idx) else s.src x f f.dst)) ∧
    (s.Issues (.vsetl f) laneMask x → ∃ v, s.GivesVector (.vsetl f) x f.dst v {} ∧
      ∀ j, j < n → laneOf w v.toNat j =
        if j = idx ∧ m.getLsbD idx then (s.src x f f.sa).toNat % 2 ^ w else s.lane x f f.dst w j)

/-! ## Group 6: the bank units (R99 to R107, R111, R313, R317, R318, R321, R325, R326) -/

/-- R99, R102 to R106: a bank command on an aligned row of the cluster is queued at the issuing core with the operands it read at issue; no byte of
memory changes at issue. R100, R102, R111: BANK_COMMAND_PERFORM of the core's oldest command writes its row alone: BADD, BMAX, BMIN and BFMA round
each lane's exact result by R100; BFILL writes its operand; BCNT counts and saturates where the mask bit is set. -/
def Obligations.BankCommandsQueuedAndPerformed : Prop :=
  (∀ (s : State) (x : Ctx) (f : Fld) (c : CtxId) (core o : Nat), s.cur = .ctx c → o % 64 = 0 →
    let y := s.view x
    let pair := s.pairView.isSome
    let fmt := bankFmt f y
    let row := scrKey core o
    let at_ (imm : Int) : Prop := s.scrChk (s.src x f f.sa) imm 1 = .ok (core, o)
    let b := bankOperand f y pair f.sb
    let goes (i : Instr) (p : Pre) (imm : Int) (index : Nat) (cmd : BankCmd) : Prop :=
      s.Issues i p x → at_ imm → s.RoomFor x c cmd → s.CommandQueued i x c index cmd
    goes (.badd f) (bankPreMod f) f.off24.toInt 0 (.lane 0 fmt row b (bankOperand f y pair f.sc)) ∧
    goes (.bmax f) (bankPreMod f) f.off24.toInt 1 (.lane 1 fmt row b (bankOperand f y pair f.sc)) ∧
    goes (.bmin f) (bankPreMod f) f.off24.toInt 2 (.lane 2 fmt row b (bankOperand f y pair f.sc)) ∧
    goes (.bfma f) (bankPreMod f) f.off24.toInt 4 (.lane 4 fmt row b (bankOperand f y pair f.sc)) ∧
    goes (.bcnt f) (countPre f) f.off24.toInt 6 (.count fmt row (s.src x f f.sb)) ∧
    goes (.bcvt f) (bankPreMod f) f.off24.toInt 7 (.convert fmt (Fld.bcvtTarget f) row) ∧
    goes (.bfill f) (bankPreMod f) f.off24.toInt 8 (.fill row b) ∧
    (o ≤ 0x7FF80 → goes (.bsmx f) {} f.off24.toInt 5 (.softmax row ((srcV y f pair 32 f.sb).extractLsb' 0 512))) ∧
    (o / 1024 + f.run ≤ 512 → goes (.bscl f) (bankPreMod f) 0 3 (.scale fmt row f.run b)) ∧
    (∀ r, s.scrChk (s.src x f f.sb) 0 1 = .ok (core, r) → r % 64 = 0 → r / 64 % 16 = o / 64 % 16 → r / 1024 + f.run ≤ 512 →
      goes (.bred f) (bankPreMod f) 0 9 (.reduce fmt row (scrKey core r) f.run f.queue.toNat)) ∧
    (s.Issues (.bsync f) {} x → y.acqPending = false → (∀ q ∈ (s.coreOf c.core).cmds, q.who ≠ c) →
      (∀ fr, s.frameOf c = some fr → ∀ m ∈ fr.mq, m.who ≠ c.kind) → s.Leaves (.bsync f) (x.past .none))) ∧
  (∀ (s : State) (core n off : Nat) (q : QueuedCmd) (rest : List QueuedCmd),
    s.CanonicalMemory → (s.coreOf core).cmds = q :: rest → off + 64 ≤ 2 ^ 19 → s.ScratchUsable n off 64 → off % 64 = 0 →
    let row := scrKey n off
    let old := leNat (s.scrRead n off 64)
    let done (new : Nat) : Prop := ∃ z, exec (.bankCommandPerform core 0) s = .next z ∧ z.mem = s.mem ∧ (z.coreOf core).cmds = rest ∧
      s.ScratchWritten z n off (bytesOf 64 new)
    (∀ op fmt b d, q.cmd = .lane op fmt row b d → done (joinLanes (bankWidth fmt) ((List.range (512 / bankWidth fmt)).map fun j =>
      let lane (v : Nat) : Machine.Num := bankDecode fmt (laneOf (bankWidth fmt) v j)
      bankRound fmt (match op with
        | 0 => sumNum .rne [lane old, lane b.toNat] | 1 => numMax (lane old) (lane b.toNat) | 2 => numMin (lane old) (lane b.toNat)
        | _ => sumNum .rne [(lane old).mul (lane d.toNat), lane b.toNat])))) ∧
    (∀ b, q.cmd = .fill row b → done b.toNat) ∧
    (∀ kb, q.cmd = .count 3 row kb → done (joinLanes 32 ((List.range 16).map fun j =>
      let v := laneOf 32 old j
      if kb.getLsbD j ∧ v ≠ 0x7FFFFFFF then (v + 1) % 2 ^ 32 else v))))

/-! ## Group 7: streams, circular buffers and semaphores (R34 to R37, R95, R96, R328 to R332, R387 to R390) -/

/-- R96, R388, R389: SBIND copies a descriptor and its stream starts at element 0; a MOV of a strided stream reads the next element and takes
its flags, or all ones with every flag set past the end, and one paired with an instruction that binds the stream anew reads the old
binding; SSKIP and SPOS move it; SPOS reads its position; SFREE unbinds it. -/
def Obligations.StreamInstructions : Prop :=
  ∀ (s : State) (x : Ctx) (f : Fld),
    let y := s.view x
    let a := s.src x f f.sa
    let g := (s.src x f f.sb).toNat
    (∀ n core o, s.Issues (.sbind f) {} x → f.dst = .s n → s.scrChk a f.off24.toInt 32 = .ok (core, o) → s.Clear x [(.scr core o, 32)] →
      s.scrBad core o 32 = false →
      let d : BitVec 256 := BitVec.ofNat 256 (leNat (s.readOwn x (.scr core o) 32))
      descReserved d = false → d.extractLsb' 112 8 = 0 → ∃ x', s.Leaves (.sbind f) x' ∧ x' = { x.past .none with st := x'.st } ∧
        ∀ r, x'.readS r = if r = n then
          some { src := .strided d, count := stridedCount d, run := 0, pos := 0, flags := 0, ahead := [],
                 turn := match x.readS n with | some old => ! old.turn | none => false } else x.readS r) ∧
    (∀ n st d, s.Issues (.mov f) { dyn07 := fun _ y => unbound f.sa y } x → f.sa = .s n → f.dst.cls = .g ∨ f.dst.cls = .o →
      y.readS n = some st → st.Strided d → (∀ new, x.readS n = some new → new.turn ≠ st.turn) →
      s.GivesScalar (.mov f) x f.dst (if st.pos < st.count then stridedWord d st.pos else BitVec.allOnes 64)) ∧
    (∀ n st d, s.Issues (.mov f) { dyn07 := fun _ y => unbound f.sa y } x → f.sa = .s n → f.dst.cls = .g ∨ f.dst.cls = .o →
      y.readS n = some st → x.readS n = some st → st.Strided d →
      let e := st.pos < st.count
      ∃ x' st', s.Leaves (.mov f) x' ∧ (x.writeS n (some st')).ScalarResult x' f.dst (if e then stridedWord d st.pos else BitVec.allOnes 64) ∧
        st'.pos = (if e then st.pos + 1 else st.pos) ∧ st'.flags = (if e then stridedFlags d st.pos else 7) ∧ st'.Strided d) ∧
    (∀ n st d, s.Issues (.sskip f) { dyn07 := fun _ y => unbound f.sa y } x → f.sa = .s n → y.readS n = some st → x.readS n = some st →
      st.Strided d → g ≠ 0 → st.pos < st.count → ∃ st', s.Leaves (.sskip f) ((x.past .none).writeS n (some st')) ∧
        st'.pos = min (st.pos + g) st.count ∧ st'.flags = stridedFlags d (st'.pos - 1) ∧ st'.Strided d) ∧
    (∀ n st, s.Issues (.sposRead f) { dyn07 := fun _ y => unbound f.sa y } x → f.sa = .s n → y.readS n = some st →
      s.GivesScalar (.sposRead f) x f.dst (BitVec.ofNat 64 st.pos)) ∧
    (∀ n st d, s.Issues (.sposSet f) { dyn07 := fun _ y => unbound f.sa y } x → f.sa = .s n → y.readS n = some st → x.readS n = some st →
      st.Strided d → ∃ st', s.Leaves (.sposSet f) ((x.past .none).writeS n (some st')) ∧
        st'.pos = min g st.count ∧ st'.flags = (if g = 0 then 0 else stridedFlags d (st'.pos - 1)) ∧ st'.Strided d) ∧
    (∀ n, s.Issues (.sfree f) {} x → f.sa = .s n → s.Leaves (.sfree f) ((x.past .none).writeS n none))

/-- R34, R36, R329 to R332: CBACQ, CBPUB, CBWAIT, CBREL and CBCLOSE over an enabled buffer of the issuer's frame. R37, R390: SEMW takes one from a
count that is not 0 and has no earlier waiter; SEMS adds one below 255. -/
def Obligations.CircularBuffersAndSemaphores : Prop :=
  (∀ (s : State) (x : Ctx) (f : Fld) (c : CtxId) (fr : Frame), s.cur = .ctx c → s.frameOf c = some fr →
    let n : BitVec 3 := f.imm.extractLsb' 0 3
    let b := fr.cb n
    let addr (slot : Nat) : Word := BitVec.ofNat 64 (absLocal c.core (fr.slotOff b slot))
    (s.Issues (.cbacq f) { dyn07 := cbMisuse f true fun _ _ => false } x →
      (b.closed = true ∨ b.abandoned = true → s.GivesScalar (.cbacq f) x f.dst 0xFFFFFFFF) ∧
      (b.closed = false → b.abandoned = false → 0 < b.free → ∃ x', x.ScalarResult x' f.dst (addr b.prodPos) ∧
        s.LeavesFrame (.cbacq f) c x' (fr.setCb n { b with
          free := b.free - 1, acq := b.acq ++ [(b.prodPos, some c.kind, 0, false)], prodPos := (b.prodPos + 1) % b.slots }))) ∧
    (s.Issues (.cbwait f) { dyn07 := cbMisuse f false fun _ _ => false } x →
      (∀ slot rest, b.fifo = slot :: rest → ∃ x', ({ x with early := [] } : Ctx).ScalarResult x' f.dst (addr slot) ∧
        s.LeavesFrame (.cbwait f) c x' (fr.setCb n { b with
          filled := b.filled - 1, fifo := rest, waited := b.waited ++ [slot], consPos := (b.consPos + 1) % b.slots })) ∧
      (b.fifo = [] → b.closed = true → s.GivesScalar (.cbwait f) x f.dst 0xFFFFFFFF)) ∧
    (s.Issues (.cbrel f) { dyn07 := cbMisuse f false fun b _ => b.waited.isEmpty } x →
      s.LeavesFrame (.cbrel f) c (x.past .none) (fr.setCb n { b with waited := b.waited.drop 1, free := b.free + 1 })) ∧
    (s.Issues (.cbclose f) { dyn07 := cbMisuse f true fun b _ => b.closed } x → b.abandoned = true → s.Leaves (.cbclose f) (x.past .none)) ∧
    (s.Issues (.cbclose f) { dyn07 := cbMisuse f true fun b _ => b.closed } x → b.abandoned = false →
      let kept := (b.acq.filter fun e => e.2.2.2).map (·.1)
      s.LeavesFrame (.cbclose f) c (x.past .none) (fr.setCb n { b with
        acq := [], fifo := b.fifo ++ kept, filled := b.filled + kept.length, closed := true })) ∧
    (∀ slot op rest, s.Issues (.cbpub f) { dyn07 := cbMisuse f true fun b k => ! b.acq.any (ownedSlot k) } x →
      b.acq = (slot, some c.kind, op, false) :: rest → (∀ e ∈ rest, e.2.2.2 = false) → s.Clear x [(.scr c.core (fr.slotOff b slot), b.slotBytes)] →
      s.halfPending c = false → (∀ q ∈ (s.coreOf c.core).cmds, q.who ≠ c) →
      s.LeavesFrame (.cbpub f) c (x.past .none) (fr.setCb n { b with acq := rest, fifo := b.fifo ++ [slot], filled := b.filled + 1 }))) ∧
  (∀ (s : State) (x : Ctx) (f : Fld) (c : CtxId) (fr : Frame), s.cur = .ctx c → s.frameOf c = some fr →
    let n : BitVec 3 := f.imm.extractLsb' 0 3
    (s.Issues (.semw f) {} x → fr.sem n ≠ 0 → (∀ e ∈ fr.semq, e.1 ≠ n.toNat) →
      s.LeavesFrame (.semw f) c (x.past .none) (fr.setSem n (fr.sem n - 1))) ∧
    (s.Issues (.sems f) { dyn07 := fun s _ => match s.curFrame with
        | some fr => if fr.sem (f.imm.extractLsb' 0 3) = 255 then some ((Config.freeValue s.freeTick).extractLsb' 0 32) else none
        | none => none } x →
      s.LeavesFrame (.sems f) c (x.past .none) (fr.setSem n (fr.sem n + 1))))

/-! ## Group 8: the copy engine, futures, SHIP and MSG (R32, R33, R97, R130 to R133, R226, R230, R337 to R341, R348 to R351, R379, R384, R393, R394) -/

/-- R97, R98, R130, R337, R338: a copy that passes its checks, the lease's for each of its accesses among them, with room in its queue and its buffer, is queued with its places, its form and, for the
row forms, the rows its mask takes. R33, R97, R339: a begun scratch copy at the head of its queue with nothing done yet, whose places do not
overlap, is performed whole by COPY_COMPLETE: the destination's bytes become the source's, no other byte changes, the operation ends, and every
handle that holds it reads F = 0 with the length; COPY_BEGIN of one whose context has settled marks it begun. -/
def Obligations.CopiesQueuedAndPerformed : Prop :=
  (∀ (s : State) (x : Ctx) (f : Fld) (c : CtxId) (fr : Frame) (src dst : Target) (slot : Option (BitVec 3 × Nat)) (skip : Bool),
    s.cur = .ctx c → s.frameOf c = some fr → x.acqPending = false → queueLoad f.queue.toNat (s.engineOf c.core) < 32 →
    (∀ k n, slot = some (k, n) → (fr.cb k).free ≠ 0) →
    let y := s.view x
    let rows := takenRows (y.mask32 f) (y.readV (f.imm.extractLsb' 19 5))
    let base (b : Operand) (g : Word) : Target := .dev (spaceSid x.space) (CapF.obj (srcC y b)) g.toNat
    let leased (i : Instr) (sk : Bool) : Prop := ∀ a ∈ ({ newCopy i f src dst with
        vi := y.readV (f.imm.extractLsb' 19 5), mask := y.mask32 f, skip := sk } : CopyOp).accesses,
      s.granted s.cur a.1 a.2.1 a.2.2.1 a.2.2.2 = true
    let queued (i : Instr) (form : CopyForm) (sl : Option (BitVec 3 × Nat)) (sk : Bool) : Prop :=
      leased i sk → ∃ mk : CopyOp, mk.Fresh i src dst form f.queue.toNat ∧ mk.slot = sl ∧ mk.skip = sk ∧ s.CopyQueued i x f c fr mk
    let rowed (i : Instr) (form : CopyForm) (sl : Option (BitVec 3 × Nat)) (sk : Bool) : Prop :=
      leased i sk → ∃ mk : CopyOp, mk.Fresh i src dst form f.queue.toNat ∧ mk.rows = rows ∧ mk.slot = sl ∧ mk.skip = sk ∧ s.CopyQueued i x f c fr mk
    (s.Issues (.cpyScratchFromDevice f) { dyn07 := cbnMisuse f } x → s.copyDev y f.sb (s.src x f f.sc) f.len false = .ok src →
      s.engineDest y f f.len 16 = .ok (dst, slot, skip) → queued (.cpyScratchFromDevice f) (.plain f.len) slot skip) ∧
    (s.Issues (.cpyDeviceFromScratch f) {} x → s.copyDev y f.sa (s.src x f f.sb) f.len true = .ok dst →
      s.derivedChk y (CapF.obj (srcC y f.sa)) dst.off = .ok () →
      s.engineScratch (s.src x f f.sc) f.len 16 = .ok src → queued (.cpyDeviceFromScratch f) (.plain f.len) none false) ∧
    (s.Issues (.cpyScratchFromScratch f) { dyn07 := cbnMisuse f } x → s.engineDest y f f.len 16 = .ok (dst, slot, skip) →
      s.engineScratch (s.src x f f.sc) f.len 16 = .ok src → queued (.cpyScratchFromScratch f) (.plain f.len) slot skip) ∧
    (s.Issues (.cpyDeviceFromDevice f) { regs := [.g ((f.imm.extractLsb' 20 4).zeroExtend 6)] } x →
      s.copyDev y f.sa (s.src x f f.sb) f.len true = .ok dst →
      s.copyDev y f.sc (y.readG ((f.imm.extractLsb' 20 4).zeroExtend 6)) f.len false = .ok src →
      s.derivedChk y (CapF.obj (srcC y f.sa)) dst.off = .ok () →
      queued (.cpyDeviceFromDevice f) (.plain f.len) none false) ∧
    (s.Issues (.cpyx f) { rowPre f with dyn07 := cbnMisuse f } x → s.rowsChk y f.sb (s.src x f f.sc) f.rowb { r := true } rows = .ok () →
      s.engineDest y f (rows.length * f.rowb) 64 = .ok (dst, slot, skip) → src = base f.sb (s.src x f f.sc) →
      rowed (.cpyx f) (.gather f.rowb) slot skip) ∧
    (s.Issues (.ebag f) { rowPre f with dyn07 := cbnMisuse f } x → s.rowsChk y f.sb (s.src x f f.sc) f.rowb { r := true } rows = .ok () →
      s.engineDest y f f.rowb 64 = .ok (dst, slot, skip) → src = base f.sb (s.src x f f.sc) →
      rowed (.ebag f) (.bag f.mod.toNat f.rowb f.mean) slot skip) ∧
    (s.Issues (.cpya f) (rowPre f) x → s.rowsChk y f.sa (s.src x f f.sb) f.rowb { a := true } rows = .ok () →
      s.rowsDerived y f.sa (s.src x f f.sb) f.rowb rows = .ok () → s.engineScratch (s.src x f f.sc) (rows.length * f.rowb) 64 = .ok src →
      dst = base f.sa (s.src x f f.sb) → rowed (.cpya f) (.scatter f.mod.toNat f.rowb) none false)) ∧
  (∀ (s : State) (core q n : Nat) (o : Op) (c : CopyOp) (a b x y len : Nat),
    s.CanonicalMemory → s.queueOp core q = some (n, o, c) → c.units = 0 → c.cancelled = false → c.skip = false → c.slot = none →
    c.form = .plain len → c.src = .scr a x → c.dst = .scr b y → s.Unwatched o.who.core →
    x % 16 = 0 → y % 16 = 0 → len % 16 = 0 → 16 ≤ len → x + len ≤ 2 ^ 19 → y + len ≤ 2 ^ 19 →
    (a ≠ b ∨ x + len ≤ y ∨ y + len ≤ x) → s.ScratchUsable a x len → s.ScratchUsable b y len →
    (c.begun = true → ∃ z, exec (.copyComplete core q) s = .next z ∧ z.mem = s.mem ∧ s.ScratchWritten z b y (s.scrRead a x len) ∧
      z.ops.get n = none ∧ ∀ k v, s.ctxs.get k = some v → ∃ v', z.ctxs.get k = some v' ∧ v'.g = v.g ∧ v'.pc = v.pc ∧
        ∀ r, v.readH r = .pending n → v'.readH r = .complete (BitVec.ofNat 64 len) [n]) ∧
    (c.begun = false → s.saving (o.who.core, o.who.frm) = false → ∀ v, s.ctxs.get (.ctx o.who) = some v → s.Settled v o.who →
      exec (.copyBegin core q 0) s = .next { s with ops := s.ops.set n { o with kind := .copy { c with begun := true, merged := false } } }))

/-- R32, R348 to R351, R356, R384: FWAIT reads a completed handle's word, and 0 of an empty handle; FTEST says whether it has completed, without waiting; FJOIN leaves its sources
empty; FCANCEL leaves a handle that holds no operation alone and marks a begun copy cancelled; QFENCE over empty queues leaves nothing behind. R224,
R226, R230, R379, R393, R394: SHIP to a handler starts a chain with one trigger at the slice that serves its offset; SHIP to the reduction engine
queues a request at its stack; each leaves a pending handle. MSG to scratch writes its 16 bytes and no others; MSG in a handler starts one more run
of its chain. -/
def Obligations.FuturesShipAndMessage : Prop :=
  (∀ (s : State) (x : Ctx) (f : Fld),
    let y := s.view x
    (∀ n, s.Issues (.fwait f) {} x → f.sa = .h n → y.readH n = .empty → s.GivesScalar (.fwait f) x f.dst 0) ∧
    (∀ n w os, s.Issues (.fwait f) {} x → f.sa = .h n → y.readH n = .complete w os → ∃ x', s.Leaves (.fwait f) x' ∧
      ({ x with early := [], win := x.win ++ s.observed (y.readH n) } : Ctx).ScalarResult x' f.dst w) ∧
    (∀ n, s.Issues (.ftest f) {} x → f.sa = .h n →
      s.GivesScalar (.ftest f) x f.dst (if (y.readH n).word.isSome then 1 else 0)) ∧
    (∀ d m n, s.Issues (.fjoin f) {} x → f.dst = .h d → f.sa = .h m → f.sb = .h n → ∃ x', s.Leaves (.fjoin f) x' ∧
      x' = { x.past .none with h := x'.h } ∧
      (∀ r, r ≠ d → x'.readH r = if r = m ∨ r = n then .empty else x.readH r) ∧
      (∀ a b, (y.readH m).word = some a → (y.readH n).word = some b → (x'.readH d).word = some (if a.getLsbD 63 then a else b)) ∧
      ((y.readH m).word = none ∨ (y.readH n).word = none → (x'.readH d).word = none)) ∧
    (∀ n, s.Issues (.fcancel f) {} x → f.sa = .h n →
      ((y.readH n).word.isSome = true → s.Leaves (.fcancel f) (x.past .none)) ∧
      (∀ k o c, y.readH n = .pending k → s.ops.get k = some o → o.kind = .copy c → c.begun = true →
        exec (.fcancel f) s = .next { s.afterIssue (x.past .none) with
          ops := s.ops.set k { o with kind := .copy { c with cancelled := true } } })) ∧
    (s.Issues (.qfence f) {} x → s.engineOf s.curCore = [] →
      exec (.qfence f) s = .next { s.afterIssue (x.past .none) with engine := s.engine.set s.curCore [] })) ∧
  (∀ (s : State) (x : Ctx) (f : Fld) (o : Nat),
    let y := s.view x
    let second := y.readG (f.imm.extractLsb' 18 6)
    let off := capOff (s.src x f f.sb) 0
    let slice := s.sliceOf (spaceSid x.space) (CapF.obj (srcC y f.sa)) o
    (∀ c fr, s.cur = .ctx c → s.frameOf c = some fr → s.Settled x c →
      s.Issues (.shipHandler f) { regs := [.g (f.imm.extractLsb' 18 6)] } x → y.acqPending = false → s.capChk y f.sa off 8 { x := true } 8 = .ok o →
      ∃ z n ch trig, exec (.shipHandler f) s = .next z ∧ z.mem = s.mem ∧ z.scr = s.scr ∧
        z.ctxs = s.ctxs.set s.cur ((x.past .none).writeHandle f.dst (.pending n)) ∧
        z.ops.get n = some { who := c, space := x.space, job := fr.task.job, kind := .chain ch, pc := x.pc, seq := x.issued } ∧
        (∃ e, z.chains.get ch = some e ∧ e.op = some n ∧ e.started = 1 ∧ e.live = 1 ∧ e.word = none ∧ e.job = some fr.task.job) ∧
        z.trigq.get slice = some (((s.trigq.get slice).getD []) ++ [trig]) ∧ trig.chain = ch ∧ trig.h = (f.imm.extractLsb' 0 4).toNat ∧
        trig.off.toNat = o % 2 ^ 64 ∧ trig.g2 = s.src x f f.sc ∧ trig.g3 = second ∧ trig.g4 = corexy c.core ∧ trig.b1 = srcC y f.sa) ∧
    (∀ c fr, s.cur = .ctx c → s.frameOf c = some fr → s.Settled x c →
      s.Issues (.shipRed f) { regs := [.g (f.imm.extractLsb' 18 6)] } x → y.acqPending = false → s.capChk y f.sa off 64 { r := true, x := true } 64 = .ok o →
      exec (.shipRed f) s = .next { s.afterIssue ((x.past .none).writeHandle f.dst (.pending s.nextId)) with
        nextId := s.nextId + 1,
        ops := s.ops.set s.nextId { who := c, space := x.space, job := fr.task.job, kind := .reduce, pc := x.pc, seq := x.issued },
        redq := s.redq.set (slice / 20) (((s.redq.get (slice / 20)).getD []) ++
          [{ op := s.nextId, cap := srcC y f.sa, off := o, space := x.space, job := fr.task.job }]) }) ∧
    (∀ c core d, s.cur = .ctx c → s.CanonicalMemory → s.Settled x c → s.Issues (.msgScratch f) {} x →
      s.engineScratch (s.src x f f.sa) 16 16 = .ok (.scr core d) → s.doneOwner core d = none → s.ScratchUsable core d 16 →
      ∃ z, exec (.msgScratch f) s = .next z ∧ z.mem = s.mem ∧ z.ctxs = s.ctxs.set s.cur (x.past .none) ∧
        s.ScratchWritten z core d (bytesOf 8 (s.src x f f.sb).toNat ++ bytesOf 8 (s.src x f f.sc).toNat)) ∧
    (∀ k r e, s.cur = .handler k → s.runs.get k = some r → s.chains.get r.trig.chain = some e → e.started < 64 →
      s.Issues (.msgHandler f) (handlerOnly f) x → s.capChk y f.sa off 8 { x := true } 8 = .ok o →
      ∃ z trig, exec (.msgHandler f) s = .next z ∧ z.mem = s.mem ∧
        z.chains.get r.trig.chain = some { e with started := e.started + 1, live := e.live + 1 } ∧
        z.trigq.get slice = some (((s.trigq.get slice).getD []) ++ [trig]) ∧ trig.chain = r.trig.chain ∧ trig.first = false ∧
        trig.h = (f.imm.extractLsb' 0 4).toNat ∧ trig.g2 = s.src x f f.sc ∧ trig.g3 = second ∧ trig.b1 = srcC y f.sa))

/-! ## Groups 2, 0xB and 0xD: control, exceptions, system registers, publication (R16, R237 to R243, R322, R345, R346, R350, R352 to R360, R364,
R382, R383, R385, R391, R395, R401, R412, R414) -/

/-- R382, R385, R414, R38, R345: NOP changes nothing; RALLY goes on where it is alone in its set, and waits with its limit where another context of
the set is elsewhere; YIELD gives up the next max(n, 1) cycles; END ends a settled context that holds no line, closes the buffers it produces and
abandons those it consumes. R322, R401, R237: BRK and SVC complete and then raise 0x3A and 0x3B, with EPC the next slot. -/
def Obligations.HintsEndAndTrappingInstructions : Prop :=
  (∀ (s : State) (x : Ctx) (f : Fld),
    (s.Issues (.nop f) {} x → s.Leaves (.nop f) (x.past .none)) ∧
    (∀ c, s.cur = .ctx c → s.Issues (.rally f) {} x →
      (c.kind ≠ .computer ∨ f.imm = 0 ∨ (∀ o ∈ s.rallySet c, o = c) → s.Leaves (.rally f) (x.past .none)) ∧
      (c.kind = .computer → f.imm ≠ 0 → (∃ o ∈ s.rallySet c, o ≠ c ∧ s.ralliedAt o x.pc = false) →
        exec (.rally f) s = .next { s.setCtx s.cur { x with wait := .rally (some (s.clock + f.imm.toNat)) } with last := .waited })) ∧
    (∀ c, s.cur = .ctx c → s.Issues (.yield f) {} x →
      s.Leaves (.yield f) { x.past .none with wait := .yield (s.clock + max f.imm.toNat 1) }) ∧
    (∀ c fr, s.cur = .ctx c → s.frameOf c = some fr → s.Settled x c → x.xp = false → s.Issues (.endCtx f) {} x →
      (∀ n, n < 32 → ((s.clusterAt (clusterOf c.core)).mutex n).holder ≠ some c) →
      ∃ fr', s.LeavesFrame (.endCtx f) c { x.past .none with ended := true, bara := [], out := [], wait := .none, win := [] } fr' ∧
        fr' = { fr with cbs := fr'.cbs } ∧ ∀ n, fr'.cb n =
          let b := fr.cb n
          if b.en = false then b else if b.prod = ctxNo c.kind then (if b.shut then b else b.close)
          else if b.cons = ctxNo c.kind then { b with abandoned := true } else b) ∧
    (s.Issues (.endCtx f) {} x → x.xp = true → ∃ e, s.Faults (.endCtx f) x 0x20 0 e)) ∧
  (∀ (s : State) (x : Ctx) (f : Fld),
    (s.Issues (.brk f) {} x →
      exec (.brk f) s = .next ((s.afterIssue (x.past .none)).raiseAt x.pc 0x3A 0 (f.imm &&& 0xFFFF))) ∧
    (s.Issues (.svc f) {} x →
      exec (.svc f) s = .next ((s.afterIssue (x.past .none)).raiseAt x.pc 0x3B 0 (f.imm &&& 0xFFFF))))

/-- R186: an opcode that the map leaves unassigned, past the last index of its group or in group 0xE or 0xF, raises 0x01 when it is issued and takes
no effect. -/
def Obligations.UnassignedOpcodesTrap : Prop :=
  (∀ w : BitVec 96,
    let last : List Nat := [0x16, 0x06, 0x09, 0x18, 0x09, 0x03, 0x0A, 0x0A, 0x0A, 0x08, 0x09, 0x09, 0x03, 0x0E]
    (match last[(opcodeOf w).toNat / 64]? with | some n => n < (opcodeOf w).toNat % 64 | none => True) ↔
      decode w = .ok (.unassignedOpcode (opcodeOf w))) ∧
  ∀ (s : State) (x : Ctx) (opc : BitVec 10), s.ctxs.get s.cur = some x → s.Faults (.unassignedOpcode opc) x 0x01 0 (opc.zeroExtend 32)

/-- R237, R238: a precise fault of a context at task level, whose frame has no tagged producer outstanding and whose vector line is a legal target,
enters its trap: STATUS, the pc, the cause, EADDR and EINFO are saved, SV becomes 1, IE, PP and the payload 0 with every other bit kept, the frame's
other contexts are suspended and the pc is slot 0 of line TVEC + cause. R243, R238, R40: a precise fault at SV = 1, and one whose vector line is no
legal target, kills the frame: it is marked killed with the cause (0x04 for a bad vector, with the vector line in ADDR of its record, which is the
model's choice, LOG 26) and its three contexts end. -/
def Obligations.TrapEntryOrKill : Prop :=
  (∀ (s : State) (x : Ctx) (c : CtxId) (fr : Frame) (cause : Cause) (ea : Word) (ei : BitVec 32),
    s.cur = .ctx c → s.ctxs.get (.ctx c) = some x → s.frameOf c = some fr → x.sv = false →
    (∀ k y, s.ctxs.get (.ctx ⟨c.core, c.frm, k⟩) = some y → y.out = []) →
    let line := (x.tvec.extractLsb' 6 12).toNat + cause.toNat % 128
    line < storeLines (.ctx c) → tgtBit (s.line (.ctx c) line) 0 = true →
    ∃ st : Word, s.raise cause ea ei = { s with
        ctxs := s.ctxs.set (.ctx c) { x with
          estatus := x.status, epc := (pcForm x.pc).zeroExtend 64, ecause := (cause &&& 0x7F).zeroExtend 64, eaddr := ea, einfo := ei.zeroExtend 64,
          status := st, pc := pcOf 0 line, wait := .none, owed := none },
        frames := s.frames.set (c.core, c.frm) { fr with trappedBy := some c.kind, semq := fr.semq.filter fun e => e.2 != c.kind },
        last := .trapped } ∧
      ∀ i, i < 64 → st.getLsbD i = if i = 0 then true else if i = 1 ∨ i = 2 ∨ (16 ≤ i ∧ i < 32) then false else x.status.getLsbD i) ∧
  (∀ (s : State) (x : Ctx) (c : CtxId) (fr : Frame) (cause : Cause) (ea : Word) (ei : BitVec 32),
    s.cur = .ctx c → s.ctxs.get (.ctx c) = some x → s.frameOf c = some fr → fr.killed = none → fr.group = none →
    (∀ k y, s.ctxs.get (.ctx ⟨c.core, c.frm, k⟩) = some y → y.held = [] ∧ y.unmarked = []) →
    let killedWith (z : State) (k : KillInfo) : Prop :=
      (∃ fr', z.frameOf c = some fr' ∧ fr'.killed = some k) ∧
      ∀ kd y, s.ctxs.get (.ctx ⟨c.core, c.frm, kd⟩) = some y → ∃ y', z.ctxs.get (.ctx ⟨c.core, c.frm, kd⟩) = some y' ∧ y'.ended = true
    (x.sv = true → killedWith (s.raise cause ea ei) ⟨cause, ctxNo c.kind, ea, x.pc⟩) ∧
    (x.sv = false → (∀ k y, s.ctxs.get (.ctx ⟨c.core, c.frm, k⟩) = some y → y.out = []) →
      let line := (x.tvec.extractLsb' 6 12).toNat + cause.toNat % 128
      storeLines (.ctx c) ≤ line ∨ tgtBit (s.line (.ctx c) line) 0 = false →
      killedWith (s.raise cause ea ei) ⟨0x04, ctxNo c.kind, BitVec.ofNat 64 line, x.pc⟩))

/-- R239: at SV = 1, ERET with every other field zero makes STATUS what ESTATUS holds and the pc what EPC holds, and no context of the frame is
suspended any more (`trappedBy` is none); it looks at no TGT bit. A nonzero field raises 0x02; at SV = 0 it raises 0x08 (in a context whose profile
has it, R184). EPC may be rewritten before it with SETS. -/
def Obligations.ReturnFromException : Prop :=
  ∀ (s : State) (x : Ctx) (f : Fld) (c : CtxId) (fr : Frame), s.cur = .ctx c → s.frameOf c = some fr →
    let zero : Fld := { pk := 0, ps := false, dst := .g 0, sa := .g 0, sb := .g 0, sc := .g 0, talloc := 0, tw0 := 0, tw1 := 0, mod := 0, imm := 0 }
    (s.Issues (.eret f) { gated := false } x → f = zero ∧
      s.LeavesFrame (.eret f) c { x.past .none with status := x.estatus, pc := x.epc.extractLsb' 0 15 } { fr with trappedBy := none }) ∧
    (s.ctxs.get s.cur = some x → waitsForTag (s.view x) (.eret f) = false → x.sv = true → f ≠ zero → s.Faults (.eret f) x 0x02 0 0x348) ∧
    (s.ctxs.get s.cur = some x → waitsForTag (s.view x) (.eret f) = false → x.sv = false → inProfile s.cur false 0x348 = true →
      s.Faults (.eret f) x 0x08 0 0x348) ∧
    (s.Issues (.sets f) {} x → f.imm = 0x001 → ((s.src x f f.sa).extractLsb' 12 3).toNat < 5 →
      s.Leaves (.sets f) { x.past .none with epc := ((s.src x f f.sa).extractLsb' 0 15).zeroExtend 64 })

/-- R16, R17, R184: an instruction whose predicate suppresses it changes nothing but the pc, pd and a pending prefix, whatever its other fields
are. Stated for the gated scalar and memory forms. -/
def Obligations.SuppressedInstructions : Prop :=
  ∀ (s : State) (x : Ctx) (f : Fld) (i : Instr),
    i ∈ [.add f, .cmp f, .mov f, .movi f, .ld f, .st f, .ldg f, .stg f, .br f, .call f, .brk f, .svc f, .endCtx f, .gets f, .sets f, .atom f,
      .cpyDeviceFromScratch f, .bar f, .spawn f] →
    s.ctxs.get s.cur = some x → waitsForTag (s.view x) i = false → (s.view x).executes f = false → s.Leaves i (x.past .none)

/-- R182: each of the eight supervisor-only instructions raises 0x08 at SV = 0, before any later check of it. (By R184, one outside the context's
profile raises 0x01 first.) -/
def Obligations.FirstCheckWins : Prop :=
  ∀ (s : State) (x : Ctx) (f : Fld) (i : Instr) (opc : BitVec 10),
    (i, opc) ∈ [(Instr.sets f, (0x341 : BitVec 10)), (.xflush f, 0x342), (.slotset f, 0x345), (.fsave f, 0x346), (.frest f, 0x347),
      (.eret f, 0x348), (.idle f, 0x34A), (.xmig f, 0x34D)] →
    s.ctxs.get s.cur = some x → waitsForTag (s.view x) i = false → (s.view x).executes f = true → x.sv = false →
    (inProfile s.cur false opc = false → s.Faults i x 0x01 0 (opc.zeroExtend 32)) ∧
    (inProfile s.cur false opc = true → (∀ n ∈ featuresOf opc f.imm, s.feature n = true) →
      ∃ e : BitVec 32, e.extractLsb' 0 10 = opc ∧ s.Faults i x 0x08 0 e)

/-- R240, R357: GETS reads each system register; CYCLE's count is the one at issue (the model's choice, LOG 56). R391, R240, R241, R248, R358: SETS
writes the writable fields of each register and leaves its reserved and read-only fields; a slot of 5 to 7 in EPC raises 0x02, and so does a watchpoint
pair that fails R248; COREXY, CYCLE and TASKID ignore it, and KILL of FRAME kills the issuing frame. -/
def Obligations.SystemRegisterReadsAndWrites : Prop :=
  (∀ (s : State) (x : Ctx) (f : Fld) (c : CtxId) (fr : Frame), s.cur = .ctx c → s.frameOf c = some fr → s.Issues (.gets f) {} x →
    let k := s.coreOf c.core
    let (ce, ue) := (s.errs.get k.errSel.toNat).getD (0, 0)
    (∀ (n : Nat) (w : Word), (n, w) ∈
      [(0x001, x.epc), (0x002, x.ecause), (0x003, x.eaddr), (0x004, x.einfo), (0x005, x.tvec), (0x006, x.estatus), (0x010, x.space),
        (0x011, corexy c.core), (0x020, k.wbase[0]), (0x021, k.wctl[0]), (0x022, k.wbase[1]), (0x023, k.wctl[1]), (0x024, k.wbase[2]),
        (0x025, k.wctl[2]), (0x026, k.wbase[3]), (0x027, k.wctl[3]), (0x030, fr.operrxy), (0x031, s.boot.errlog)] →
      f.imm.toNat = n → s.GivesScalar (.gets f) x f.dst w) ∧
    (f.imm.toNat = 0x000 → (∀ m ∈ fr.mq, m.who ≠ c.kind) → s.GivesScalar (.gets f) x f.dst x.status) ∧
    (f.imm.toNat = 0x012 → ∃ w : Word, s.GivesScalar (.gets f) x f.dst w ∧ (c.frm < 4 → fr.gidx < 64 → tdGw fr.tdesc < 256 →
      w.extractLsb' 0 4 = BitVec.ofNat 4 c.frm ∧ w.extractLsb' 4 2 = BitVec.ofNat 2 (ctxNo c.kind) ∧
      w.extractLsb' 10 6 = BitVec.ofNat 6 fr.gidx ∧ w.extractLsb' 16 8 = BitVec.ofNat 8 (tdGw fr.tdesc) ∧ w.extractLsb' 32 16 = fr.gbar)) ∧
    (f.imm.toNat = 0x013 → s.LoadSent (.gets f) x f false (.ready (BitVec.ofNat 64 (s.clock - k.cyc0))) 0) ∧
    (f.imm.toNat = 0x014 → ∃ w : Word, s.GivesScalar (.gets f) x f.dst w ∧ w.extractLsb' 0 10 = fr.task.bytes.extractLsb' 0 10 ∧
      w.extractLsb' 24 8 = BitVec.ofNat 8 fr.task.job ∧ w.extractLsb' 32 32 = fr.task.index) ∧
    (f.imm.toNat = 0x032 → ∃ w : Word, s.GivesScalar (.gets f) x f.dst w ∧ w.extractLsb' 0 16 = k.errSel ∧ w.extractLsb' 16 24 = ue ∧
      w.extractLsb' 40 24 = ce)) ∧
  (∀ (s : State) (x : Ctx) (f : Fld) (c : CtxId) (fr : Frame), s.cur = .ctx c → s.frameOf c = some fr → s.Issues (.sets f) {} x →
    let v := s.src x f f.sa
    let y := x.past .none
    let n := f.imm.toNat
    (n = 0x000 → ∃ st : Word, s.Leaves (.sets f) { y with status := st } ∧ ∀ i, i < 64 → st.getLsbD i =
      if i = 4 ∨ i = 5 ∨ i = 14 ∨ i = 15 ∨ 32 ≤ i then y.status.getLsbD i else v.getLsbD i) ∧
    (n = 0x001 → (v.extractLsb' 12 3).toNat < 5 → s.Leaves (.sets f) { y with epc := (v.extractLsb' 0 15).zeroExtend 64 }) ∧
    (n = 0x001 → 5 ≤ (v.extractLsb' 12 3).toNat → s.Faults (.sets f) x 0x02 0 0x341) ∧
    (n = 0x002 → s.Leaves (.sets f) { y with ecause := (v.extractLsb' 0 7).zeroExtend 64 }) ∧
    (n = 0x003 → s.Leaves (.sets f) { y with eaddr := v }) ∧
    (n = 0x004 → s.Leaves (.sets f) { y with einfo := (v.extractLsb' 0 32).zeroExtend 64 }) ∧
    (n = 0x005 → s.Leaves (.sets f) { y with tvec := (v.extractLsb' 6 12).zeroExtend 64 <<< 6 }) ∧
    (n = 0x006 → ∃ st : Word, s.Leaves (.sets f) { y with estatus := st } ∧ ∀ i, i < 64 → st.getLsbD i =
      if i = 14 ∨ i = 15 ∨ 32 ≤ i then false else v.getLsbD i) ∧
    (n = 0x010 → s.Leaves (.sets f) { y with space := (v.extractLsb' 0 20).zeroExtend 64 }) ∧
    (n = 0x011 ∨ n = 0x013 ∨ n = 0x014 → s.Leaves (.sets f) y) ∧
    (n = 0x012 → v.getLsbD 63 = false → s.Leaves (.sets f) y) ∧
    (n = 0x012 → v.getLsbD 63 = true → fr.killed = none → fr.group = none →
      (∀ k z, s.ctxs.get (.ctx ⟨c.core, c.frm, k⟩) = some z → z.held = [] ∧ z.unmarked = []) →
      ∃ z fr' i, exec (.sets f) s = .next z ∧ z.frameOf c = some fr' ∧ fr'.killed = some i ∧ i.cause = 0x00 ∧ i.ctx = ctxNo c.kind ∧ i.pc = x.pc) ∧
    (let k := s.coreOf c.core
     let fits (base ctl : Word) : Prop := ctl.getLsbD 63 = true →
       (base.extractLsb' 0 40).toNat % (16 * 2 ^ (ctl.extractLsb' 4 2).toNat) = 0 ∧
       (ctl.getLsbD 62 = true ∨ base.extractLsb' 32 8 = 0 ∧ base.getLsbD 31 = false ∧ base.getLsbD 19 = false)
     ∀ m (h : m < 4),
      (n = 0x020 + 2 * m →
        let b := v &&& 0x000FFFFFFFFFFFFF
        (fits b k.wctl[m] → exec (.sets f) s = .next { s.afterIssue y with cores := s.cores.set c.core { k with wbase := k.wbase.set m b } }) ∧
        (¬ fits b k.wctl[m] → s.Faults (.sets f) x 0x02 0 0x341)) ∧
      (n = 0x021 + 2 * m →
        let w := v &&& 0xFFFFFFC0FFFF003F
        let ok := v.extractLsb' 4 2 ≠ 3 ∧ fits k.wbase[m] w
        (ok → exec (.sets f) s = .next { s.afterIssue y with cores := s.cores.set c.core { k with wctl := k.wctl.set m w } }) ∧
        (¬ ok → s.Faults (.sets f) x 0x02 0 0x341))) ∧
    (n = 0x030 → s.LeavesFrame (.sets f) c y { fr with operrxy := 0, operrOpen := none }) ∧
    (n = 0x031 → exec (.sets f) s = .next { s.afterIssue y with boot := { s.boot with errlog := 0 } }) ∧
    (n = 0x032 → exec (.sets f) s = .next { s.afterIssue y with
      cores := s.cores.set c.core { s.coreOf c.core with errSel := v.extractLsb' 0 16 },
      errs := if v.getLsbD 63 then s.errs.del (v.extractLsb' 0 16).toNat else s.errs }))

/-- R263, R360, R395, R412, R383, R350, R203: FEAT reads the offered and the accepted words; IDLE gives 1 with a cause pending, and else waits with
its limit; SLOTSET's table applies from the next 256-cycle boundary; XFLUSH drops the translations of a space or of one object; PHASE and FENCE
of a settled context change nothing more, and FENCE.WIN forgets the old versions of what the context wrote. -/
def Obligations.SystemControlInstructions : Prop :=
  ∀ (s : State) (x : Ctx) (f : Fld) (c : CtxId), s.cur = .ctx c →
    let a := s.src x f f.sa
    let core := c.core
    (s.Issues (.feat f) {} x → s.GivesScalar (.feat f) x f.dst
      (if f.imm.getLsbD 4 then (if s.boot.locked then s.boot.accept.toList.getD (f.imm.toNat % 16) 0 else 0)
       else if f.imm.toNat % 16 = 0 then 0x7FF else 0)) ∧
    (s.Issues (.idle f) {} x →
      (x.pend ≠ [] → ∃ x', s.Leaves (.idle f) x' ∧ ({ x with wait := .none } : Ctx).ScalarResult x' f.dst 1) ∧
      (x.pend = [] → x.wait.isIdle = false → exec (.idle f) s = .next { s.setCtx s.cur { x with
        wait := .idle (if f.imm = 0 then none else some (s.clock + f.imm.toNat * 1024)) } with last := .waited })) ∧
    (s.Issues (.slotset f) {} x → slotsReserved a = false → exec (.slotset f) s = .next { s.afterIssue (x.past .none) with
      cores := s.cores.set core { s.coreOf core with
        slots := s.slotTable core, nextSlots := some ((s.cycle core / 256 + 1) * 256, a) } }) ∧
    (s.Issues (.xflush f) {} x → a.extractLsb' 37 27 = 0 → s.Settled x c →
      let gone (sid obj : Nat) : Bool := sid == (a.extractLsb' 0 12).toNat && (a.getLsbD 36 || obj == (a.extractLsb' 12 24).toNat)
      ∃ used kept, exec (.xflush f) s = .next { s.afterIssue (x.past .none) with
          extents := s.extents.filter fun e => ! gone e.sid e.obj, walks := s.walks.filter fun w => ! gone w.sid w.obj,
          lastUse := used, objCache := kept } ∧
        ∀ k l, s.objCache.get k = some l → kept.get k = some (l.filter fun e => ! gone e.sid e.obj)) ∧
    (s.Issues (.phase f) {} x → s.Settled x c → (f.scope = 4 → s.linkClear c = true) →
      s.Leaves (.phase f) { x.past .none with early := [] }) ∧
    (s.Issues (.fence f) {} x → s.Settled x c → s.Leaves (.fence f) { x.past .none with early := [] }) ∧
    (s.Issues (.fenceWin f) {} x → s.Settled x c →
      ∃ lines, exec (.fenceWin f) s = .next { s.afterIssue { x.past .none with win := [], early := [] } with stale := lines } ∧
        (∀ e ∈ s.stale, (∀ g ∈ s.winGranules x.win, e.gran ≠ g.1) → e ∈ lines) ∧
        ∀ e ∈ lines, ∀ g ∈ s.winGranules x.win, (∀ h ∈ s.winGranules x.win, h.1 = g.1 → h = g) → e.gran = g.1 →
          e.only = some g.2 ∧ ∃ e0 ∈ s.stale, e = { e0 with only := some g.2 })

/-- R370, R371, R352 to R354: a LEASE whose capability, range and rights pass goes on as an operation; LFREE of an extension in force removes it; an
FSAVE of an empty frame leaves 0x14 in its handle and of a live one goes on as an operation, as does an FREST whose area's header passes. -/
def Obligations.LeaseSaveAndRestore : Prop :=
  ∀ (s : State) (x : Ctx) (f : Fld) (c : CtxId) (fr : Frame), s.cur = .ctx c → s.frameOf c = some fr →
    let y := s.view x
    let a := s.src x f f.sa
    let b := s.src x f f.sb
    let g := s.src x f f.sc
    let pended : Ctx := (x.past .none).writeHandle f.dst (.pending s.nextId)
    let op (k : OpKind) : Assoc Nat Op :=
      s.ops.set s.nextId { who := c, space := x.space, job := fr.task.job, kind := k, pc := x.pc, seq := x.issued }
    (s.Issues (.lease f) { dyn02 := fun s _ => s.badDomain f.id } x → f.id = 0 → 0 < g.toNat → g.toNat < 2 ^ 40 →
      s.leaseCause x.space (srcC y f.sa) b.toNat g.toNat (f.imm.getLsbD 16) (f.imm.getLsbD 17) = none → s.leaseCount fr.task.job < 1024 →
      exec (.lease f) s = .next { s.afterIssue pended with
        nextId := s.nextId + 1, ops := op (.lease s.nextId),
        leaseExts := s.leaseExts.set s.nextId { op := s.nextId, job := fr.task.job, key := none, entry :=
          { id := 0, sid := spaceSid x.space, obj := CapF.obj (srcC y f.sa), off := b.toNat, len := g.toNat, w := f.imm.getLsbD 16, a := f.imm.getLsbD 17 } } }) ∧
    (∀ j e, s.Issues (.lfree f) {} x → s.jobs.get fr.task.job = some j → Card.leaseCnt j.card ≤ a.toNat → a.toNat < 2 ^ 32 →
      j.lease.find? (fun e => e.id == a.toNat) = some e →
      ∃ z, exec (.lfree f) s = .next z ∧ z.ctxs = s.ctxs.set s.cur (x.past .none) ∧ z.scr = s.scr ∧
        z.jobs = s.jobs.set fr.task.job { j with lease := j.lease.filter fun e => e.id != a.toNat }) ∧
    (∀ core t, s.Issues (.fsave f) {} x → s.areaTarget a 3 0x346 = .ok core → s.frames.get (core, (a.extractLsb' 0 2).toNat) = none →
      s.areaChk x.space (srcC y f.sb) f.sb g 64 { w := true, l := true } = .ok t →
      s.Leaves (.fsave f) ((x.past .none).writeHandle f.dst (.complete (faultWord 0x14 0) []))) ∧
    (∀ core t v, s.Issues (.fsave f) {} x → s.areaTarget a 3 0x346 = .ok core →
      let frm := (a.extractLsb' 0 2).toNat
      s.frames.get (core, frm) = some v → ¬ (core = c.core ∧ frm = c.frm) →
      s.areaChk x.space (srcC y f.sb) f.sb g (tdGw v.tdesc * areaBytes (tdSdem v.tdesc)) { w := true, l := true } = .ok t →
      (∀ m ∈ s.domainFrames v core frm, s.saving m = false) →
      ∃ ps, exec (.fsave f) s = .next { s.afterIssue pended with nextId := s.nextId + 1, ops := op (.save s.nextId), preempts := ps } ∧
        ps.get s.nextId = some { op := some s.nextId, page := none, save := true, frames := s.domainFrames v core frm,
                                 target := core, area := t, t0 := s.clock,
                                 step3 := if s.engineBusy (s.domainFrames v core frm) then none else some s.clock } ∧
        ∀ n p, n ≠ s.nextId → s.preempts.get n = some p → ∃ d, ps.get n = some { p with step3 := d }) ∧
    (∀ core sid obj o, s.Issues (.frest f) {} x → s.areaTarget a 0 0x347 = .ok core →
      s.areaChk x.space (srcC y f.sb) f.sb g 256 { r := true, l := true } = .ok (.dev sid obj o) →
      s.Clear x [(.dev sid obj o, 256)] → s.Readable sid obj o 256 →
      let h := areaHead (s.readOwn x (.dev sid obj o) 256)
      let td := s.areaType (.dev sid obj o) h
      s.headCause (.dev sid obj o) h core = none →
      s.areaChk x.space (srcC y f.sb) f.sb g (tdGw td * areaBytes (tdSdem td)) { r := true, l := true } = .ok (.dev sid obj o) →
      ∃ e w kept, exec (.frest f) s = .next { s.afterIssue pended with
        nextId := s.nextId + 1, ops := op (.restore s.nextId), extents := e, walks := w, objCache := kept,
        preempts := s.preempts.set s.nextId { op := some s.nextId, page := none, save := false, frames := [], target := core,
                                              area := .dev sid obj o, t0 := s.clock } })

/-! ## Group 0xB: barriers, line signals and the timed exchange (R205 to R208, R210 to R213, R218 to R220, R314 to R316, R343, R347, R411) -/

/-- R211, R212, R314 to R316, R343: BARA sends one arrival and keeps a record of it; BARW passes once the record is released, and raises 0x22 for a
broken phase; BAR does both; DONE sends a final arrival and sets STATUS.DN in the frame's contexts. -/
def Obligations.BarrierInstructions : Prop :=
  ∀ (s : State) (x : Ctx) (f : Fld) (c : CtxId), s.cur = .ctx c →
    let id := barId f (s.view x)
    let k := objKey (spaceSid x.space) c.core id
    let made : BaraRec := { key := k, phase := none, released := false, broken := false, own := true, ticket := s.freeTick }
    let arrival (fin : Bool) : Arrival := { s.arrivalOf k c with fin := fin }
    let y := x.past .none
    let kept := x.bara.find? fun r => r.own && r.key.id == id
    let passed (i : Instr) : Prop := ∀ r, kept = some r → r.released = true →
      (r.broken = false → s.Leaves i { y with bara := x.bara.erase r, wait := .none, early := [] }) ∧
      (r.broken = true → exec i s = .next
        ((s.setCtx s.cur { x with bara := x.bara.erase r, wait := .none, early := [] }).raise 0x22 0 (id.zeroExtend 32)))
    let linked := id.toNat / 4096 = 4 → s.linkClear c = true
    let fresh := x.bara.length < 4 ∧ ∀ r ∈ x.bara, r.key.id ≠ id
    (s.Issues (.bara f) (domainPre f) x → s.idChk f id 0x2C1 = .ok () → s.Settled x c → linked → fresh →
      exec (.bara f) s = .next { s.afterIssue { y with bara := x.bara ++ [made] } with arrivals := s.arrivals ++ [arrival false] }) ∧
    (s.Issues (.barw f) (domainPre f) x → s.idChk f id 0x2C2 = .ok () → passed (.barw f) ∧
      (kept = none → s.Leaves (.barw f) { y with wait := .none }) ∧
      (∀ r, kept = some r → r.released = false → (∀ p, r.phase = some p → (s.barrier k).phase = p) →
        exec (.barw f) s = .next { s with last := .waited })) ∧
    (s.Issues (.bar f) (domainPre f) x → s.idChk f id 0x2C0 = .ok () → (x.wait.isBarrier = true → passed (.bar f)) ∧
      (x.wait.isBarrier = false → s.Settled x c → linked → fresh → exec (.bar f) s = .next
        { s.setCtx s.cur { x with bara := x.bara ++ [made], wait := .barrier } with
          arrivals := s.arrivals ++ [arrival false], last := .waited })) ∧
    (s.Issues (.done f) (domainPre f) x → s.idChk f id 0x2C3 = .ok () → s.Settled x c → linked →
      s.Does (.done f) fun z => z.arrivals = s.arrivals ++ [arrival true] ∧
        z.ctxs.get s.cur = some { y with status := setBit y.status 5 true } ∧
        ∀ kd v, kd ≠ c.kind → s.ctxs.get (.ctx ⟨c.core, c.frm, kd⟩) = some v →
          z.ctxs.get (.ctx ⟨c.core, c.frm, kd⟩) = some { v with status := setBit v.status 5 true })

/-- R208, R347, R218 to R220, R411: EVSIG signals an event line of any cluster; XBEGIN arrives with its schedule and enters the phase once released;
XSEND sends its 128 bytes within its slot, waits for a later slot, and raises 0x20 outside the schedule; XEND leaves the phase once released. -/
def Obligations.SignalsAndExchange : Prop :=
  ∀ (s : State) (x : Ctx) (f : Fld) (c : CtxId), s.cur = .ctx c →
    let a := s.src x f f.sa
    let y := x.past .none
    let n := (f.imm.extractLsb' 0 10).toNat
    let sent (k : ObjKey) : List BaraRec :=
      (x.bara.filter fun r => r.own) ++ [{ key := k, phase := none, released := false, broken := false, own := false, ticket := s.freeTick }]
    let met (k : ObjKey) (r : BaraRec) : Prop := x.bara.find? (fun r => r.own == false && r.key.id == k.id) = some r ∧ r.released = true
    (∀ core off, s.Issues (.evsig f) {} x → f.ord ≠ 2 → (s.view x).acqPending = false → s.localChk a f.off24.toInt = .ok (core, true, off) →
      0x200 ≤ off → off ≤ 0x3F8 → off % 8 = 0 → exec (.evsig f) s = .next { s.afterIssue y with
        unitq := s.unitq ++ [(c, .event (clusterOf core) ((off - 0x200) / 8), 1)] }) ∧
    (∀ core off, s.Issues (.xbegin f) { dyn02 := fun s _ => s.badDomain f.id } x → x.xp = false → s.scrChk a 0 128 = .ok (core, off) →
      let k := objKey (spaceSid x.space) c.core f.id
      (x.wait.isBarrier = false → s.Clear x [(.scr core off, 128)] → s.scrBad core off 128 = false → exec (.xbegin f) s = .next
        { s.setCtx s.cur { x with
            xch := some { sched := BitVec.ofNat 1024 (leNat (s.readOwn x (.scr core off) 128)), key := k, start := none,
                          restored := false },
            bara := sent k, wait := .barrier } with
          arrivals := s.arrivals ++ [{ s.arrivalOf k c with xch := true }],
          last := .waited }) ∧
      (∀ r, x.wait.isBarrier = true → met k r → r.broken = false →
        s.Leaves (.xbegin f) { y with bara := x.bara.erase r, wait := .none, early := [], status := setBit y.status 4 true })) ∧
    (∀ e core off, s.Issues (.xsend f) {} x → x.xch = some e → s.engineScratch a 128 128 = .ok (.scr core off) → s.Unwatched c.core →
      (x.wait.isSent = true → s.Leaves (.xsend f) { y with wait := .none }) ∧
      (∀ t0, x.wait.isSent = false → e.start = some t0 →
        let inTime := x.xp = true ∧ e.sched.getLsbD n = true ∧ e.restored = false ∧ (e.key, t0, n) ∉ (s.coreOf c.core).xsent ∧ s.clock ≤ t0 + 8 * n + 7
        (inTime → t0 + 8 * n ≤ s.clock → s.CanonicalMemory → s.Clear x [(.scr core off, 128)] → s.ScratchUsable core off 128 →
          ∃ z, exec (.xsend f) s = .next z ∧ z.mem = s.mem ∧
            z.ctxs = s.ctxs.set s.cur { y with wait := .none } ∧ (e.key, t0, n) ∈ (z.coreOf c.core).xsent ∧
            s.ScratchWritten z core off (bytesOf 128 (srcV (s.view x) f false 32 f.sb).toNat)) ∧
        (inTime → s.clock < t0 + 8 * n → (s.view x).acqPending = false → exec (.xsend f) s = .next { s.setCtx s.cur { x with
          wait := .xsend (t0 + 8 * n) (.scr core off) (srcV (s.view x) f false 32 f.sb) } with last := .waited }) ∧
        (¬ inTime → s.Faults (.xsend f) x 0x20 0 (BitVec.ofNat 32 n)))) ∧
    (∀ e, s.Issues (.xend f) {} x → x.xch = some e → x.xp = true →
      (∀ r, x.wait.isBarrier = true → met e.key r → r.broken = false → s.Leaves (.xend f)
        { y with bara := x.bara.erase r, wait := .none, early := [], status := setBit y.status 4 false, xch := none }) ∧
      (x.wait.isBarrier = false → s.Settled x c → (e.key.id.toNat / 4096 = 4 → s.linkClear c = true) → exec (.xend f) s = .next
        { s.setCtx s.cur { x with
            bara := sent e.key, wait := .barrier } with
          arrivals := s.arrivals ++ [s.arrivalOf e.key c], last := .waited }))

/-- R211 to R213, R218: a router forwards what it holds for an object once every port marked in the phase before has reported or 32 cycles after the
first it holds, and marks the ports; a root counts a packet and its contexts, and the one that completes COUNT releases every counted context and
begins the next phase; an arrival at an object with no COUNT sends 0x22; a release marks the records of its phase; an XBEGIN's phase starts
96 cycles after the firing. The routers of an arrival's way, and a packet counted whole in one phase, are the model's choice (LOG 100). -/
def Obligations.BarrierObjectEvents : Prop :=
  ∀ (s : State) (o : ObjKey) (c : CtxId) (x : Ctx), s.ctxs.get (.ctx c) = some x →
    let b := s.barrier o
    let count := (s.barEntry o).1
    let held (r : Nat) := s.arrivals.filter fun a => a.key == o && a.path.head? == some r
    let ready (r : Nat) : Prop := (∃ a ∈ held r, a.time + 32 ≤ s.clock) ∨
      (held r ≠ [] ∧ ∀ p ∈ (s.portsOf r o).marked, p ∈ (s.portsOf r o).ports ∨ ∃ a ∈ held r, a.port = p)
    let atRoot (a : Arrival) := a.key == o && a.path.isEmpty
    let packet := s.arrivals.filter atRoot
    let rest := s.arrivals.filter fun a => ! atRoot a
    ((∃ r, ready r) → ∃ r z, ready r ∧ exec (.routerArrivalForward o) s = .next z ∧ z = { s with arrivals := z.arrivals, portMarks := z.portMarks } ∧
      z.arrivals = (s.arrivals.filter fun a => ! (a.key == o && a.path.head? == some r)) ++
        (held r).map (fun a => { a with path := a.path.tail, port := 2000 + r, time := s.clock }) ∧
      (z.portsOf r o).marked = (s.portsOf r o).marked ∧
      ∀ p, p ∈ (z.portsOf r o).ports ↔ p ∈ (s.portsOf r o).ports ∨ ∃ a ∈ held r, a.port = p) ∧
    ((∀ r, ¬ ready r) → exec (.routerArrivalForward o) s = .next s) ∧
    (∀ a ∈ packet, (∀ e ∈ packet, e.source = a.source ∧ e.time = a.time ∧ e.fin = false ∧ e.quiet = false) →
      (0 < count → s.frozen = [] → s.Does (.barrierRootArrival o) fun z => z.arrivals = rest ∧
        (∃ bs, z.ctxs.get (.ctx c) = some { x with bara := bs } ∧ bs.length = x.bara.length ∧
          ∀ n (h : n < x.bara.length) (h' : n < bs.length), bs[n] =
            let e := x.bara[n]
            if e.key = o ∧ e.phase = none ∧ (∃ p ∈ packet, p.who = some c ∧ p.ticket = e.ticket) then { e with phase := some b.phase } else e) ∧
        (b.sum + packet.length < count + b.extra → z.releases = s.releases ∧
          z.barrier o = { b with sum := b.sum + packet.length, counted := b.counted ++ packet.filterMap (·.who) }) ∧
        (count + b.extra ≤ b.sum + packet.length →
          (z.barrier o).phase = b.phase + 1 ∧ (z.barrier o).sum = 0 ∧ (z.barrier o).extra = 0 ∧ (z.barrier o).counted = [] ∧
          (∀ r, (z.portsOf r o).marked = (s.portsOf r o).ports ∧ (z.portsOf r o).ports = []) ∧
          ∃ rs, z.releases = s.releases ++ rs ∧ rs.map (·.who) = b.counted ++ packet.filterMap (·.who) ∧
            ∀ r ∈ rs, r.key = o ∧ r.phase = b.phase ∧ r.broken = false ∧ r.time = s.clock)) ∧
      (count = 0 → packet = [a] → a.who = some c → ∀ fr, s.frameOf c = some fr → fr.killed = none → x.ended = false → x.pend.length < 4 →
        exec (.barrierRootArrival o) s = .next { s with
          arrivals := rest, ctxs := s.ctxs.set (.ctx c) { x with pend := x.pend ++ [⟨0x22, 0, o.id.zeroExtend 32⟩] } })) ∧
    (∀ r rest, s.releases = r :: rest → r.who = c → r.xch = false →
      ∃ bs, exec (.barrierReleaseArrival c) s = .next { s with releases := rest, ctxs := s.ctxs.set (.ctx c) { x with bara := bs } } ∧
        bs.length = x.bara.length ∧ ∀ n (h : n < x.bara.length) (h' : n < bs.length), bs[n] =
          let e := x.bara[n]
          if e.key = r.key ∧ e.phase = some r.phase then { e with released := true, broken := e.broken || r.broken } else e) ∧
    (∀ r e, s.releases = [r] → r.who = c → r.xch = true → r.key = o → r.broken = false → x.xch = some e → x.inXbegin o r.phase = true →
      (r.time + 96 ≤ s.clock → ∃ bs, exec (.xbeginRelease o) s = .next { s with
        releases := [], ctxs := s.ctxs.set (.ctx c) { x with bara := bs, xch := some { e with start := some (r.time + 96) } } }) ∧
      (s.clock < r.time + 96 → exec (.xbeginRelease o) s = .next s)) ∧
    (∀ t core off v e t0, x.wait = .xsend t (.scr core off) v → x.xch = some e → e.start = some t0 → t ≤ s.clock → s.CanonicalMemory →
      (e.key, t0, (t - t0) / 8) ∉ (s.coreOf c.core).xsent → s.cur = .ctx c → s.Clear x [(.scr core off, 128)] → s.ScratchUsable core off 128 → off % 8 = 0 →
      ∃ z, exec (.xsendSlotSend c) s = .next z ∧ z.mem = s.mem ∧ s.ScratchWritten z core off (bytesOf 128 v.toNat) ∧
        z.ctxs = s.ctxs.set (.ctx c) { x with wait := .sent } ∧ (e.key, t0, (t - t0) / 8) ∈ (z.coreOf c.core).xsent)

/-- R205 to R208: what each store and load of a tollgate line does when it reaches the tollgate, the first on its way: the line's new state, the
answer of a load, and what the waiting loads are answered at a configuration, a firing, a grant and a signal. That a mutex load reads the grant count
as its own grant leaves it is the model's choice (LOG 15). -/
def Obligations.TollgateLineEvents : Prop :=
  ∀ (s : State) (cl n : Nat) (c : CtxId) (x : Ctx) (rest : List (CtxId × UnitWord × Word)) (v : Word), s.ctxs.get (.ctx c) = some x →
    let k := s.clusterAt cl
    let bar := k.bar n
    let mutex := k.mutex n
    let event := k.event n
    let bit := 8 * (coreY c.core % 6) + coreX c.core % 8
    let goal := (v.extractLsb' 48 8).toNat
    let answered (t : State) (o : Outst) (w : Word) : State :=
      { t.setCtx (.ctx c) { x with early := [], out := { o with what := .ready w } :: x.out.tail } with lineBack := s.lineBack.del c }
    let keeps (z : State) : Prop := z.unitq = rest ∧ z.frames = s.frames
    let woken (z : State) (ws : List CtxId) (w : Word) : Prop := ws.Nodup → ∀ d ∈ ws, ∀ y o u, s.ctxs.get (.ctx d) = some y → y.out.head? = some o →
      o.what = .unit u → u.isLine = true → ∃ y', z.ctxs.get (.ctx d) = some y' ∧ y'.out = { o with what := .ready w } :: y.out.tail ∧ y'.early = []
    (s.unitq = (c, .config cl n, v) :: rest → s.Does (.tollgateBarrierConfig cl n v) fun z => keeps z ∧
      let l := (z.clusterAt cl).bar n
      l.count = 0 ∧ l.phase = 0 ∧ l.pending = [] ∧ l.waiters = [] ∧
        l.cfg.getLsbD 63 = (v.getLsbD 63 && decide (1 ≤ goal) && decide (goal ≤ 192)) ∧
        l.cfg.getLsbD 62 = (bar.cfg.getLsbD 62 && ! v.getLsbD 62) ∧ l.cfg.extractLsb' 56 6 = 0 ∧ l.cfg.extractLsb' 0 56 = v.extractLsb' 0 56 ∧
        woken z bar.waiters (BitVec.allOnes 64)) ∧
    (s.unitq = (c, .barrier cl n, v) :: rest → s.Does (.tollgateBarrierArrive cl n c) fun z => keeps z ∧
      let l := (z.clusterAt cl).bar n
      if bar.en = false then l = bar
      else if bar.cfg.getLsbD bit = false then l = { bar with cfg := setBit bar.cfg 62 true }
      else if bar.count + 1 = bar.goal then l = { bar with count := 0, phase := bar.phase + 1, pending := [], waiters := [] } ∧
        woken z bar.waiters ((bar.phase + 1).zeroExtend 64)
      else l = { bar with count := bar.count + 1, pending := bar.pending ++ [c] }) ∧
    (s.unitq = (c, .mutex cl n, v) :: rest → s.Does (.tollgateMutexFree cl n c) fun z => keeps z ∧
      let l := (z.clusterAt cl).mutex n
      if mutex.holder = some c then
        (match mutex.waiters with
         | [] => l = { mutex with holder := none }
         | w :: ws => l = { holder := some w, grants := mutex.grants + 1, waiters := ws } ∧ woken z [w] (mutex.grants + 1))
      else l = mutex) ∧
    (s.unitq = (c, .event cl n, 1) :: rest → s.Does (.tollgateEventSignal cl n) fun z => keeps z ∧
      let l := (z.clusterAt cl).event n
      match event.waiters with
      | [] => l = { event with count := if event.count = 0xFFFF then 0xFFFF else event.count + 1 }
      | w :: ws => l = { event with waiters := ws } ∧ woken z [w] (BitVec.ofNat 64 (event.count.toNat + 1))) ∧
    (s.unitq = (c, .event cl n, 0) :: rest → s.Does (.tollgateEventClear cl n) fun z => keeps z ∧
      (z.clusterAt cl).event n = { event with count := 0 }) ∧
    (∀ o, x.out.head? = some o → o.what = .unit (.barrier cl n) → (∀ q ∈ s.unitq, q.1 ≠ c) →
      (bar.en = false → exec (.tollgateBarrierLoad c 0) s = .next (answered s o (BitVec.allOnes 64))) ∧
      (bar.en = true → bar.pending.contains c = false →
        exec (.tollgateBarrierLoad c 0) s = .next (answered s o (bar.phase.zeroExtend 64))) ∧
      (bar.en = true → bar.pending.contains c = true → bar.waiters.contains c = false →
        exec (.tollgateBarrierLoad c 0) s = .next (s.setCluster cl { k with
          bars := k.bars.set n { bar with waiters := bar.waiters ++ [c] } }))) ∧
    (∀ o, x.out.head? = some o → o.what = .unit (.mutex cl n) → (∀ q ∈ s.unitq, q.1 ≠ c) →
      (mutex.holder = none → exec (.tollgateMutexAcquire c 0) s = .next (answered (s.setCluster cl { k with
          mutexes := k.mutexes.set n { mutex with holder := some c, grants := mutex.grants + 1 } }) o (mutex.grants + 1))) ∧
      (mutex.holder.isSome = true → mutex.waiters.contains c = false → exec (.tollgateMutexAcquire c 0) s = .next (s.setCluster cl { k with
          mutexes := k.mutexes.set n { mutex with waiters := mutex.waiters ++ [c] } }))) ∧
    (∀ o, x.out.head? = some o → o.what = .unit (.event cl n) → (∀ q ∈ s.unitq, q.1 ≠ c) →
      (event.count ≠ 0 → exec (.tollgateEventWait c 0) s = .next (answered (s.setCluster cl { k with
          events := k.events.set n { event with count := event.count - 1 } }) o (event.count.zeroExtend 64))) ∧
      (event.count = 0 → event.waiters.contains c = false → exec (.tollgateEventWait c 0) s = .next (s.setCluster cl { k with
          events := k.events.set n { event with waiters := event.waiters ++ [c] } })))

/-! ## Group 9: the matrix unit (R66, R114, R153 to R162, R372 to R376, R378, R380, R381) -/

/-- R153, R154, R372 to R376, R378, R380, R381: FMTP leaves its payload pending; each matrix instruction that passes its checks joins its frame's
queue with the rows it names, where fewer than 8 stand. -/
def Obligations.MatrixInstructionsAreQueued : Prop :=
  ∀ (s : State) (x : Ctx) (f : Fld) (c : CtxId) (fr : Frame), s.cur = .ctx c → s.frameOf c = some fr →
    let y := s.view x
    let a := s.src x f f.sa
    let pair := s.pairView.isSome
    let queued (i : Instr) (cmd : MatCmd) (ts : List (Target × Nat)) (rels : List Nat) : Prop :=
      fr.mq.length < 8 → s.Clear x ts → s.MatrixQueued i x c fr cmd rels
    let st := (x.past .none).status
    (s.Issues (.fmtp f) { own05 := decide (11 < (f.imm.extractLsb' 0 4).toNat) || decide (11 < (f.imm.extractLsb' 4 4).toNat) } x →
      ∃ w : Word, s.Leaves (.fmtp f) { x.past .none with status := w } ∧ w.getLsbD 2 = true ∧ w.extractLsb' 16 16 = f.imm.extractLsb' 0 16 ∧
        w.extractLsb' 0 2 = st.extractLsb' 0 2 ∧ w.extractLsb' 3 13 = st.extractLsb' 3 13 ∧ w.extractLsb' 32 32 = st.extractLsb' 32 32) ∧
    (∀ ks, s.Issues (.mlda f) {} x →
      mldaRows s a (s.src x f f.sc) (srcV y f pair 32 f.sb) f.imm.toNat (List.range 32) = .ok ks →
      queued (.mlda f) (.lda ks f.imm.toNat) (ks.map fun k => keyRange k f.imm.toNat)
        (ks.zipIdx.flatMap fun k => relKeys (mldaAddr a (s.src x f f.sc) (srcV y f pair 32 f.sb) k.2) [k.1])) ∧
    (∀ core off, s.Issues (.mldb f) {} x → s.scrChk a 0 64 = .ok (core, off) → off + f.imm.toNat ≤ 0x80000 →
      queued (.mldb f) (.ldb (scrKey core off) f.imm.toNat) [keyRange (scrKey core off) f.imm.toNat] (relKeys a [scrKey core off])) ∧
    (∀ core off, s.Issues (.mscl f) {} x → s.scrChk a 0 1 = .ok (core, off) →
      let sideB := f.imm.getLsbD 15
      let len := (f.imm.extractLsb' 0 12).toNat
      (if sideB then len = 128 ∨ len = 256 else len = 64 ∨ len = 128) → off % len = 0 →
      queued (.mscl f) (.scl sideB (f.imm.extractLsb' 12 3).toNat (scrKey core off) len) [keyRange (scrKey core off) len] (relKeys a [scrKey core off])) ∧
    (s.Issues (.mmac f) (macPre f [f.accN] fun _ => false) x → scaleChk fr y.matPlan f.kc = .ok () →
      queued (.mmac f) (.mac f.accN f.kc) [] []) ∧
    (s.Issues (.mmacg f) (macPre f [f.accN, f.accN + 1] fun fr => fr.gw == 1 || decide (fr.gcols < 2) || decide (4 < fr.gw / fr.gcols)) x →
      scaleChk fr y.matPlan f.kc = .ok () → queued (.mmacg f) (.macg f.accN f.kc) [] []) ∧
    (∀ core off ks, s.Issues (.mmvb f) { accs := [f.accN], dyn02 := fun s _ => s.badDomain f.id } x →
      let n := (f.imm.extractLsb' 25 5).toNat + 1
      s.scrChk a 0 1 = .ok (core, off) → off % 64 = 0 → pitchRows s a 64 64 (List.range n) = .ok ks →
      (s.coreOf c.core).cmds.length + s.pendingHalves c.core < 256 → fr.mq.length < 8 → s.Unwatched c.core →
      s.Clear x (ks.map fun k => keyRange k 64) →
      exec (.mmvb f) s = .next { s.afterIssue ((x.past .none).writeHandle f.dst (.pending s.nextId)) with
        nextId := s.nextId + 1,
        ops := s.ops.set s.nextId { who := c, space := x.space, job := fr.task.job, kind := .mvb false, pc := x.pc, seq := x.issued },
        frames := s.frames.set (c.core, c.frm) { fr with mq := fr.mq ++ [{
          who := c.kind, cmd := .mvb s.nextId f.accN ks (srcV y f pair 32 f.sb) (srcV y f pair 32 f.sc) f.id,
          payload := none, rm := x.rm, steps := 0, word := encode (.mmvb f), rels := relKeys a ks }] } }) ∧
    (∀ ks sc, s.Issues (.mst f)
        { accs := [f.accN],
          dyn02 := fun _ y => (f.sc != .g 0) != (y.matPlan.asc != 0),
          pfx := some fun y => y.matPlan.af < 10 && (y.matPlan.asc == 0 || takesScale y.matPlan.af && y.matPlan.asc != 3) &&
            y.matPlan.bf == 0 && y.matPlan.bsc == 0 } x →
      let rowb := 8 * fmtWidth y.matPlan.af
      let gp := (s.src x f f.sb).toNat
      pitchRows s a gp rowb (List.range 32) = .ok ks → mstScale s (s.src x f f.sc) y.matPlan.asc = .ok sc →
      ks.headD 0 % 32 = 0 → gp % 32 = 0 → (∀ k n, sc = some (k, n) → k % n = 0) →
      queued (.mst f) (.store f.accN ks rowb sc)
        (ks.map (fun k => keyRange k rowb) ++ (match sc with | some (k, n) => [keyRange k n] | none => []))
        (relKeys a ks ++ relKeys (s.src x f f.sc) (sc.toList.map fun k => k.1))) ∧
    (s.Issues (.mzero f) { accs := [f.accN] } x → queued (.mzero f) (.zero f.accN) [] [])

/-- R372 to R374, R378, R381, R66, R158, R159: the head of a frame's queue is performed: MZERO clears its accumulator, MLDA, MLDB and MSCL fill a
latch or a scale tile from scratch, and a granted step of MMAC adds that step's terms to its accumulator alone; each leaves the queue at its
end. -/
def Obligations.MatrixQueueIsPerformed : Prop :=
  ∀ (s : State) (core frm : Nat) (fr : Frame) (m : MatOp) (rest : List MatOp),
    s.frames.get (core, frm) = some fr → fr.mq = m :: rest → s.saving (core, frm) = false → s.badScr = [] →
    let framed (fr' : Frame) : Prop := exec (.matrixQueuePerform core frm) s = .next { s with frames := s.frames.set (core, frm) fr' }
    let bytes (k n : Nat) : List Byte := s.scrRead (k / 2 ^ 19) (k % 2 ^ 19) n
    (∀ n, n < 4 → m.cmd = .zero n → ∃ fr', framed fr' ∧ fr' = { fr with mq := rest, acc := fr'.acc, kindI := fr'.kindI } ∧
      fr'.accOf n = 0 ∧ ∀ k, k < 4 → k ≠ n → fr'.accOf k = fr.accOf k) ∧
    (∀ k len, m.cmd = .ldb k len → framed { fr with mq := rest, latB := BitVec.ofNat 131072 (leNat (bytes k len)), badB := [] }) ∧
    (∀ rows len, m.cmd = .lda rows len → framed { fr with
      mq := rest, badA := [],
      latA := BitVec.ofNat 65536 (leNat (rows.flatMap fun k => bytes k len ++ List.replicate (256 - len) 0)) }) ∧
    (∀ sideB t k len, t < 8 → m.cmd = .scl sideB t k len → ∃ fr', framed fr' ∧ fr' = { fr with mq := rest, sclA := fr'.sclA, sclB := fr'.sclB } ∧
      (if sideB then fr'.sclA = fr.sclA else fr'.sclB = fr.sclB) ∧
      (if sideB then fr'.sclB.toList else fr'.sclA.toList)[t]? =
        some (some { bf := len == (if sideB then 256 else 128), bits := BitVec.ofNat 2048 (leNat (bytes k len)), bad := [] })) ∧
    (∀ n kc, n < 4 → m.cmd = .mac n kc → s.stepFrame core = some frm → fr.badA = [] → fr.badB = [] →
      (∀ t ∈ fr.sclA.toList ++ fr.sclB.toList, ∀ e, t = some e → e.bad = []) →
      let p := m.plan
      let last := m.steps + 1 = kc / p.depth
      ∃ z fr', exec (.matrixStep core) s = .next z ∧ z.mem = s.mem ∧ z.scr = s.scr ∧ z.frames = s.frames.set (core, frm) fr' ∧
        (z.coreOf core).stepAt = some (s.cycle core) ∧
        fr'.accOf n = (stepAcc p fr fr m.steps (fr.accOf n)).1 ∧ (∀ k, k < 4 → k ≠ n → fr'.accOf k = fr.accOf k) ∧
        fr'.latA = fr.latA ∧ fr'.latB = fr.latB ∧ fr'.mq = (if last then rest else { m with steps := m.steps + 1 } :: rest))

/-- R158, R159: one step of a macro-operation, element by element: a float element rounds once to F32 the exact sum of the accumulator and the
step's products; an integer element adds the exact products modulo 2^32. -/
def Obligations.MatrixStepElements : Prop :=
  ∀ (p : MatPlan) (fa fb : Frame) (n i j : Nat) (acc : BitVec 65536), i < 32 → j < 64 →
    let terms := (List.range p.depth).map fun k => termOf p fa fb i j (n * p.depth + k)
    accLane (stepAcc p fa fb n acc).1 i j =
      if p.int then (stepInt (accLane acc i j) terms).1 % 2 ^ 32 else (stepFloat p.rm (accLane acc i j) terms).1 % 2 ^ 32

/-! ## Group 0xA: joins, heat, migration and derived tensors (R117 to R129, R134 to R144, R361, R365, R366, R392, R413) -/

/-- R118, R119, R121, R361: JBIND over a readable node and directory binds the run of its key: mode 0 its rows, mode 1 the keys from it on, mode 2
the second-column words of its rows, chunk j where the node is heavy. R122, R123, R366: KCNT gives a bound range's count; KSEEK passes every element
below its key and stops at the first that is not; KISECT of two rising streams gives their next common element and passes it in both, or all ones
with both at their ends. Stated for strided streams. -/
def Obligations.JoinsAndKeyStreams : Prop :=
  (∀ (s : State) (x : Ctx) (f : Fld) (d : BitVec 3), s.Issues (.jbind f) {} x → f.dst = .s d →
    let sid := spaceSid x.space
    let bt := srcC (s.view x) f.sa
    let base := CapF.base bt
    let n := (s.src x f f.sb).toNat % 16
    let gk := s.src x f f.sc
    let j := (gk.extractLsb' 32 16).toNat
    let at_ (o : Nat) : Target := .dev sid (CapF.obj bt) o
    let eoff := base + 64 + 64 * n
    let e := JoinNode.read s (s.view x) (at_ eoff) (s.readOwn x (at_ eoff) 64)
    let nk := s.nkeys sid e.dir
    let (lo, first, len) := s.locate sid e.dir (gk.toNat % 2 ^ 32)
    let a := if e.heavy = 0 then 0 else min (j * e.heavy) len
    let b := if e.heavy = 0 then len else min ((j + 1) * e.heavy) len
    let binds (src : StreamSrc) (count run : Nat) : Prop :=
      s.LeavesHeat (.jbind f) ((x.past .none).writeS d (some
        { src := src, count := count, run := run, pos := 0, flags := 0, ahead := [],
          turn := match x.readS d with | some old => ! old.turn | none => false }))
    CapF.tag bt = true → s.spaceLive x.space = true → (s.objEntry sid (CapF.obj bt)).isSome = true → CapF.r bt = true → CapF.l bt = true →
    s.capChk (s.view x) f.sa base (128 + 64 * n) {} 1 = .ok base →
    s.leased s.curJob sid (CapF.obj bt) base 64 false false = true → s.leased s.curJob sid (CapF.obj bt) eoff 64 false false = true →
    s.Clear x [(at_ base, 64)] → s.Clear x [(at_ eoff, 64)] → s.Readable sid (CapF.obj bt) base 64 → s.Readable sid (CapF.obj bt) eoff 64 →
    joinCheck (s.readOwn x (at_ base) 64) n e f.mod.toNat = none →
    CapF.base e.dir + 20 + 8 * nk ≤ min (CapF.limit e.dir) (s.objSize sid (CapF.obj e.dir)) → s.DirReady x e.dir →
    (f.mod = 1 → binds (.keys e.dir lo) (nk - lo) (nk - lo)) ∧
    (f.mod = 0 → (e.heavy = 0 → j = 0) → binds (.rows (CapF.base e.rel) (first + a) e.rowsz) (b - a) len) ∧
    (f.mod = 2 → (e.heavy = 0 → j = 0) →
      (0 < len → CapF.base e.rel + (first + len) * e.rowsz ≤ min (CapF.limit e.rel) (s.objSize sid (CapF.obj e.rel))) →
      (∀ p, p < b - a → s.leased s.curJob sid (CapF.obj e.rel) (CapF.base e.rel + (first + a + p) * e.rowsz + e.k2col) 4 false false = true) →
      binds (.second e.rel (first + a) e.rowsz e.k2col) (b - a) len)) ∧
  (∀ (s : State) (x : Ctx) (f : Fld) (n : BitVec 3) (st : Stream) (d : BitVec 256),
    f.sa = .s n → (s.view x).readS n = some st → x.readS n = some st → st.Strided d →
    let g := (s.src x f f.sb).toNat
    (s.Issues (.kcnt f) { dyn07 := fun _ y => unbound f.sa y } x → s.GivesScalar (.kcnt f) x f.dst (BitVec.ofNat 64 (stridedCount d))) ∧
    (s.Issues (.kseek f) { dyn07 := fun _ y => notKeyed f.sa y } x → ∃ st', s.Leaves (.kseek f) ((x.past .none).writeS n (some st')) ∧
      st.pos ≤ st'.pos ∧ (∀ p, st.pos ≤ p → p < st'.pos → (stridedWord d p).toNat < g) ∧
      (st'.pos < st.count → g ≤ (stridedWord d st'.pos).toNat) ∧ (st'.pos ≤ st.count ∨ st'.pos = st.pos) ∧
      st'.flags = (if st'.pos = st.pos then st.flags else stridedFlags d (st'.pos - 1)) ∧ st'.Strided d) ∧
    (∀ m su e, s.Issues (.kisect f) { dyn07 := fun _ y => (notKeyed f.sa y).or (notKeyed f.sb y) } x → f.sb = .s m → m ≠ n →
      (s.view x).readS m = some su → x.readS m = some su → su.Strided e → Ascends d → Ascends e →
      let common (p q : Nat) : Prop := st.pos ≤ p ∧ p < st.count ∧ su.pos ≤ q ∧ q < su.count ∧ stridedWord d p = stridedWord e q
      let left (a b : Stream) : Ctx := (x.writeS n (some a)).writeS m (some b)
      (∀ p q, common p q → (∀ p' q', common p' q' → p ≤ p') → ∃ x' a b, s.Leaves (.kisect f) x' ∧
        (left a b).ScalarResult x' f.dst (stridedWord d p) ∧ a.pos = p + 1 ∧ b.pos = q + 1 ∧
        a.flags = stridedFlags d p ∧ b.flags = stridedFlags e q ∧ a.Strided d ∧ b.Strided e) ∧
      ((∀ p q, ¬ common p q) → ∃ x', s.Leaves (.kisect f) x' ∧
        (left { st with pos := st.count, flags := 7, ahead := [] } { su with pos := su.count, flags := 7, ahead := [] }).ScalarResult x' f.dst
          (BitVec.allOnes 64))))

/-- R125, R126, R128, R365, R366, R392, R413: KLOOK goes on as a load of its buckets; KACC in scratch as a bank command, in device memory as an atomic
request; SHEAT sums a slab's heat and clears it under .CLR; XMIG of a slab that lies on the slice changes nothing, and of another one begins
its migration and holds the context. -/
def Obligations.KeyedTablesAndHeat : Prop :=
  ∀ (s : State) (x : Ctx) (f : Fld),
    let y := s.view x
    let pair := s.pairView.isSome
    let key := (s.src x f f.sb).extractLsb' 0 32
    let v := bankOperand f y pair f.sc
    let sid := spaceSid x.space
    let obj := CapF.obj (srcC y f.sa)
    let ws := (s.coreOf s.curCore).watches
    (∀ t, s.Issues (.klook f) {} x → s.tableChk y f { r := true } false = .ok t →
      s.Clear x (Pending.klook t key f.nb f.probe ws).ranges → s.LoadSent (.klook f) x f false (.klook t key f.nb f.probe ws) t.eaddr) ∧
    (∀ c core off, s.cur = .ctx c → s.Issues (.kacc f) {} x → key ≠ BitVec.allOnes 32 →
      s.tableChk y f { r := true, a := true } true = .ok (.scr core off) →
      let cmd : BankCmd := .kacc f.mod.toNat (scrKey core off) f.nb f.probe key v
      s.RoomFor x c cmd → s.CommandQueued (.kacc f) x c 0xF cmd) ∧
    (∀ c sid obj off, s.cur = .ctx c → s.Issues (.kacc f) {} x → key ≠ BitVec.allOnes 32 →
      s.tableChk y f { r := true, a := true } true = .ok (.dev sid obj off) → s.Clear x [(.dev sid obj off, tableSize f.nb)] →
      s.atomRoom [.dev sid obj off] = true →
      let ts : List (Target × Nat) := [(.dev sid obj off, tableSize f.nb)]
      exec (.kacc f) s = .next { s.afterIssue (x.past .none) with
        nextId := s.nextId + 1, atomIds := (s.nextRid c.core).2.atomIds, objCache := (s.cacheFor ts).objCache,
        atoms := s.atoms.set s.nextId { ({ t := .dev sid obj off, op := 17, bytes := tableSize f.nb, x := 0, y := 0 } : AtomSpec).request s.cur
            x.space 0 false none 0 c.core (s.nextRid c.core).1 x.issued x.pc (s.translate ts) with
          kacc := some { fmt := f.mod.toNat, nb := f.nb, probe := f.probe, key := key, v := v, ws := ws } } }) ∧
    (∀ o p, s.Issues (.sheat f) {} x →
      s.capChk y f.sa (capOff (s.src x f f.sb) 0) 1 { r := true, w := f.mod == 1 } 1 = .ok o → s.place sid obj o = some p →
      let here (e : Extent) : Bool := e.sid == sid && e.gen == spaceGen x.space && e.obj == p.obj && e.slab == p.slab
      let sum := ((s.extents.filter here).map (·.heat)).sum
      (f.mod = 0 → s.GivesScalar (.sheat f) x f.dst (BitVec.ofNat 64 sum)) ∧
      (f.mod = 1 → ∃ x', x.ScalarResult x' f.dst (BitVec.ofNat 64 sum) ∧ exec (.sheat f) s = .next { s.afterIssue x' with
        extents := s.extents.map fun e => if here e then { e with heat := 0 } else e })) ∧
    (∀ o p, s.Issues (.xmig f) {} x → (s.src x f f.sc).toNat ≤ 159 → (∀ k, s.classOf sid obj = some k → k = 1) →
      s.capChk y f.sa (capOff (s.src x f f.sb) 0) 1 { w := true } 1 = .ok o → s.place sid obj o = some p →
      (p.slice = (s.src x f f.sc).toNat → s.Leaves (.xmig f) (x.past .none)) ∧
      (p.slice ≠ (s.src x f f.sc).toNat → p.state ≠ 2 → ∃ z, exec (.xmig f) s = .next z ∧ z.last = .waited ∧ z.ctxs = s.ctxs ∧
        z.migrations = s.migrations.set s.nextId
          { sid := sid, obj := p.obj, slab := p.slab, target := (s.src x f f.sc).toNat, was := p.ext.extractLsb' 23 2 }))

/-- R135 to R144: DREG that passes every check registers its target with all tiles stale and its object DERIVED; DDROP removes it; DSYNC of an object
with no stale tile completes with 0 and of another goes on; DSTAT goes on as a load; a read of a stale tile begins its recompute, an attempt
whose GEN stood writes the tile, and one whose GEN moved is tried again. -/
def Obligations.DerivedTensors : Prop :=
  ∀ (s : State) (x : Ctx) (f : Fld),
    let y := s.view x
    let sid := spaceSid x.space
    let bt := srcC y f.dst
    let bases := if f.rule = 3 then [f.sa, f.sb, f.sc] else [f.sa]
    let objs := bases.map fun o => s.realObj sid (CapF.obj (srcC y o))
    let level := 1 + objs.foldl (fun m o => max m (s.objLevel sid o)) 0
    let d : Deriv := { sid := sid, imm := f.imm, ba := srcC y f.sa, bb := srcC y f.sb, bc := srcC y f.sc, bt := bt, level := level }
    let c := srcC y f.sa
    let marked (z : State) (obj : Nat) (b : Bool) : Prop := ∀ e, s.objEntry sid obj = some e → z.objEntry sid obj = some { e with derived := b }
    (s.Issues (.dreg f) {} x → s.CanonicalMemory → s.capMissing y (f.dst :: bases) = none → (∀ o ∈ bases, CapF.d (srcC y o) = true) →
      CapF.w bt = true → (f.rule = 3 → s.Readable sid (CapF.obj d.bb) (CapF.base d.bb) 4) → d.extentBad f (s.nkeys sid d.bb) = none →
       CapF.base bt % 4096 = 0 → (d.scaled = true → d.tcols % 32 = 0 ∧ d.trows % 32 = 0) →
      (∀ e, s.objEntry sid (CapF.obj bt) = some e → e.derived = false ∧ e.cls ≠ 2) → s.derivOf sid (CapF.obj bt) = none →
      CapF.obj bt ∉ s.baseClosure sid s.derivs.length objs → level ≤ 4 → (s.derivs.filter fun p => p.2.sid == sid).length < 4096 →
      ∃ z, exec (.dreg f) s = .next z ∧ z.ctxs = s.ctxs.set s.cur (x.past .none) ∧ z.scr = s.scr ∧ z.nextId = s.nextId + 1 ∧
        z.derivs = s.derivs.set s.nextId d ∧ marked z (CapF.obj bt) true ∧
        ∀ t, t < d.tiles → z.tile s.nextId t = { stale := true, gen := 0, err := false, busy := none }) ∧
    (s.Issues (.ddrop f) {} x → s.CanonicalMemory → s.capMissing y [f.sa] = none → CapF.w c = true →
      (s.derivOf sid (CapF.obj c) = none → s.Leaves (.ddrop f) (x.past .none)) ∧
      (∀ n e, s.derivOf sid (CapF.obj c) = some (n, e) → (∀ t, t < e.tiles → (s.tile n t).busy = none) →
        (∀ p ∈ s.ops, ∀ b h w r, p.2.kind ≠ .dsync n b h w r) → ∃ z, exec (.ddrop f) s = .next z ∧ z.ctxs = s.ctxs.set s.cur (x.past .none) ∧ z.scr = s.scr ∧ z.derivs = s.derivs.del n ∧
          marked z (CapF.obj c) false)) ∧
    (∀ w fr n e, s.cur = .ctx w → s.frameOf w = some fr → s.Issues (.dsync f) {} x → s.capMissing y [f.sa] = none → CapF.r c = true →
      s.leased s.curJob sid (CapF.obj c) (CapF.base c) (capLen c) false false = true → s.derivOf sid (CapF.obj c) = some (n, e) →
      s.derivs.get n = some e →
      (∀ r, f.dst = .h r → (∀ t, t < e.tiles → (s.tile n t).stale = false) → s.Does (.dsync f) fun z =>
        ∃ v, z.ctxs.get s.cur = some v ∧ v.pc = pcNext x.pc ∧ v.g = x.g ∧ v.readH r = .complete (okWord 0) [s.nextId]) ∧
      ((∃ t, t < e.tiles ∧ (s.tile n t).stale = true) → exec (.dsync f) s = .next
        { s.afterIssue ((x.past .none).writeHandle f.dst (.pending s.nextId)) with
          nextId := s.nextId + 1,
          ops := s.ops.set s.nextId { who := w, space := x.space, job := fr.task.job, kind := .dsync n 0 [] 0 none, pc := x.pc, seq := x.issued } })) ∧
    (s.Issues (.dstat f) {} x → s.capMissing y [f.sa] = none → CapF.r c = true →
      let t := (s.src x f f.sb).toNat % 2 ^ 32
      t < (s.tileCount sid (CapF.obj c)).1 → s.LoadSent (.dstat f) x f false (.dstat sid (CapF.obj c) t)
        (BitVec.ofNat 64 ((s.tileCount sid (CapF.obj c)).2 + 4096 * t))) ∧
    (∀ n t sd ob off len, (Target.dev sd ob off, len) ∈ s.waitingReads → (n, t) ∈ s.staleTiles sd ob off len → (s.tile n t).stale = true →
      (s.tile n t).busy = none → exec (.staleReadHold n t) s = .next { s with
        tiles := s.tiles.set (n, t) { s.tile n t with busy := some ((s.tile n t).gen, 0) } }) ∧
    (∀ n t g k e, (s.tile n t).busy = some (g, k) → s.derivs.get n = some e → (∀ u ∈ s.baseTiles e t, (s.tile u.1 u.2).stale = false) →
      s.expandBases e t = some s → s.baseBad e t = false → (∀ p ∈ s.ops, ∀ a b h w r, p.2.kind ≠ .dsync a b h w r) →
      ((s.tile n t).gen = g → s.markHeld [(e.sid, CapF.obj e.bt, CapF.base e.bt + 4096 * t, 4096)] = false →
        exec (.tileRecompute n t) s = .next (if k = 8 then (s.writeTile n e t).answerHeld e t else s.writeTile n e t) ∧
        ((s.writeTile n e t).tile n t).busy = none) ∧
      ((s.tile n t).gen ≠ g → k < 8 → exec (.tileRecompute n t) s = .next { s with
        tiles := s.tiles.set (n, t) { s.tile n t with busy := some ((s.tile n t).gen, k + 1) } }))

/-! ## Group 0xC: tasks (R20 to R22, R43, R336, R362, R363, R396, R397) -/

/-- R336, R362, R363, R397: SPAWN sends a record to the cluster it names; CONT takes the lowest free slot and gives its id; JOIN sends a decrement; JOB
takes its card into the active set. Each that publishes is stated for a context with nothing left to publish. -/
def Obligations.TaskInstructions : Prop :=
  ∀ (s : State) (x : Ctx) (f : Fld) (c : CtxId) (fr : Frame), s.cur = .ctx c → s.frameOf c = some fr →
    let y := s.view x
    let w := s.src x f f.sa
    let job := fr.task.job
    let sent : Assoc Nat Job := match s.jobs.get job with | some j => s.jobs.set job { j with sent := j.sent + 1 } | none => s.jobs
    (s.Issues (.spawn f) {} x → s.Settled x c → w.extractLsb' 12 4 = 0 →
      let td := s.taskEntry x.space (w.extractLsb' 0 10).toNat
      tdescOk td = true → (f.imm.getLsbD 4 || f.imm.getLsbD 16) = true →
      let cl := if f.imm.getLsbD 4 then clusterOf c.core else (f.imm.extractLsb' 5 5).toNat
      let level := if f.imm.getLsbD 3 then tdPrio td else (f.imm.extractLsb' 0 3).toNat
      s.proxyDest (dieOf c.core) s.boot.ownPkg.toNat cl = none → (s.clusterAt cl).levelFull level = false →
      exec (.spawn f) s = .next { s.afterIssue (x.past .none) with
        jobs := sent,
        clusters := s.clusters.set cl { s.clusterAt cl with arriving := (s.clusterAt cl).arriving ++ [(some c, {
          bytes := BitVec.ofNat 128 (w.toNat + (s.src x f f.sb).toNat * 2 ^ 64), level := level, index := 0xFFFFFFFF, job := job,
          parent := s.src x f f.sc, kind := .spawned, b1 := 0, space := x.space })] } }) ∧
    (∀ slot, s.Issues (.cont f) {} x →
      let n := ((s.src x f f.sb).extractLsb' 0 32).toNat
      let td := s.taskEntry x.space (f.imm.extractLsb' 0 10).toNat
      let k := s.clusterAt (clusterOf c.core)
      let level := if f.imm.getLsbD 13 then tdPrio td else (f.imm.extractLsb' 10 3).toNat
      n ≠ 0 → tdescOk td = true → slot < 4096 → (k.cont slot).live = none → (∀ m, m < slot → (k.cont m).live.isSome = true) →
      ∃ x' r, x.ScalarResult x' f.dst (mkCid (k.cont slot).gen s.boot.ownPkg.toNat (clusterOf c.core) slot) ∧
        exec (.cont f) s = .next { s.afterIssue x' with
          clusters := s.clusters.set (clusterOf c.core) { k with
            conts := k.conts.set slot { gen := (k.cont slot).gen, ready := false, live := some (r, x.space, level, job) } } } ∧
        r.extractLsb' 32 32 = (s.src x f f.sb).extractLsb' 0 32 ∧ r.extractLsb' 64 128 = srcC y f.sa ∧ r.extractLsb' 192 64 = s.src x f f.sc ∧
        r.extractLsb' 0 10 = f.imm.extractLsb' 0 10) ∧
    (s.Issues (.join f) {} x → s.Settled x c → cidPkg w = s.boot.ownPkg.toNat →
      s.proxyDest (dieOf c.core) (cidPkg w) (cidCluster w) = none →
      exec (.join f) s = .next { s.afterIssue (x.past .none) with
        jobs := sent, decs := s.decs ++ [{ cid := w, job := some job, sid := spaceSid x.space, jobWord := s.jobWord job, who := some c }] }) ∧
    (∀ sid obj o n, s.Issues (.job f) {} x → s.Settled x c →
      s.devChk y f.sa (capOff (s.src x f f.sb) f.off24.toInt) 128 { r := true } false = .ok (.dev sid obj o) →
      s.Clear x [(.dev sid obj o, 128)] → s.Readable sid obj o 128 →
      let card := s.cardOf (.dev sid obj o) (s.readOwn x (.dev sid obj o) 128)
      s.donewordCause x.space card = none → s.freeJob = some n → Card.count card ≠ 0 →
      tdescOk (s.taskEntry x.space (Card.typeWord card % 1024)) = true →
      ∃ e h kept, exec (.job f) s = .next { s.afterIssue (x.past .none) with
        extents := e, walks := h, objCache := kept,
        jobs := s.jobs.set n { card := card, space := x.space, stage := .leasing 0, lease := [], dealt := 0, sent := 0, received := 0,
                               done := 0, failed := 0, sweep := none, killed := false, mirror := none, owed := [], touched := [],
                               extNo := 0 } })

/-! ## Events of accesses, causes and waits (R96, R176, R192, R193, R201, R242, R249, R250, R360, R385, R414) -/

/-- R176, R192: tagged data reaches its destination; R371: a load that reaches its home outside the lease kills its frame; R193: a held store is
performed at its home; R201: a request's reply is written, and a router merges two requests, with no bound on the time between them (the
model's choice, LOG 67); R96: a strided stream fetches one element ahead. -/
def Obligations.AccessEvents : Prop :=
  ∀ (s : State) (c : CtxId) (x : Ctx), s.ctxs.get (.ctx c) = some x →
    let left (n : Nat) (o : Outst) : Ctx :=
      { x with out := x.out.eraseIdx n, early := if o.acq then [] else (x.rowsRead o.what.ranges).early }
    (∀ n core off k (h : n < x.out.length), x.out[n].what = .load (.scr core off) k → s.scrBad core off k = false →
      (∀ o ∈ x.out.take n, s.precedes o x.out[n] = false) → exec (.taggedDataArrival c n) s = .next
        (s.setCtx (.ctx c) ((left n x.out[n]).writeW x.out[n].dst (leWord (s.readOwn x (.scr core off) k))))) ∧
    (∀ n sid obj off k (h : n < x.out.length), x.out[n].what = .load (.dev sid obj off) k →
      (∀ o ∈ x.out.take n, s.precedes o x.out[n] = false) →
      let u := s.carried (.ctx c) x.out[n].trans
      u.pageAt sid obj = none → u.Readable sid obj off k → u.granted (.ctx c) (.dev sid obj off) k false false = true →
      ∃ e w kept, exec (.taggedDataArrival c n) s = .next
        { s.setCtx (.ctx c) ((left n x.out[n]).writeW x.out[n].dst (leWord (u.readOwn x (.dev sid obj off) k))) with
          extents := e, walks := w, objCache := kept }) ∧
    (∀ n sid obj off k (h : n < x.out.length) fr, x.out[n].what = .load (.dev sid obj off) k → s.frameOf c = some fr → fr.killed = none →
      (∀ o ∈ x.out.take n, s.precedes o x.out[n] = false) →
      (s.carried (.ctx c) x.out[n].trans).granted (.ctx c) (.dev sid obj off) k false false = false →
      ∃ z fr', exec (.taggedDataArrival c n) s = .next z ∧ z.frames.get (c.core, c.frm) = some fr' ∧
        fr'.killed = some ⟨0x13, ctxNo c.kind, (Target.dev sid obj off).eaddr, x.out[n].pc⟩) ∧
    (∀ h rest core off bs, s.CanonicalMemory → x.held = h :: rest → h.parts = [(.scr core off, bs)] →
      s.ScratchUsable core off bs.length → ∃ z, exec (.storeHomePerform (.ctx c) 0) s = .next z ∧ z.mem = s.mem ∧
        s.ScratchWritten z core off bs ∧ z.ctxs = s.ctxs.set (.ctx c) { x with held := rest }) ∧
    (∀ req r o pre post b w, s.atoms.get req = some r → r.applied = true → r.who = .ctx c → r.reply = some w → x.out = pre ++ o :: post →
      o.what = .atomic req b → (∀ e ∈ pre ++ post, ∀ k, e.what ≠ .atomic req k) → exec (.atomicReply req) s = .next
        { s with atoms := s.atoms.del req, ctxs := s.ctxs.set (.ctx c) ({ x with out := pre ++ post, early := if o.acq then [] else x.early }.writeW o.dst w) }) ∧
    (∀ p q a b sid obj off, p ≠ q → s.atoms.get p = some a → s.atoms.get q = some b → a.mergeable = true → b.mergeable = true →
      a.t = .dev sid obj off → b.t = a.t → b.bytes = a.bytes → b.op = a.op → s.recordOrder (a.record p) [q] = true → clusterOf a.core = clusterOf b.core →
      (∀ m ∈ a.merged, m.1 = 0) → a.merged.length < 15 → b.merged = [] →
      (∀ r, (s.atoms.filter fun e => e.2.source == 1152 + clusterOf a.core && r == s.homeOf e.2.t).length < 64) →
      ∃ src rid ids, exec (.routerAtomicForward p q) s = .next { s with
        atomIds := ids,
        atoms := (s.atoms.set p { a with merged := a.merged ++ [(0, q)], source := src, rid := rid }).set q { b with led := true, merged := [] } }) ∧
    (∀ (n : Nat) (h : n < 8) st d, x.st[n] = some st → st.Strided d → st.pos + st.ahead.length < st.count →
      let p := st.pos + st.ahead.length
      exec (.streamElementFetch c n) s = .next (s.setCtx (.ctx c)
        { x with st := x.st.set n (some { st with ahead := st.ahead ++ [(stridedWord d p, stridedFlags d p)] }) }))

/-- R242, R249, R250: an imprecise cause on its way becomes pending, a watchpoint's with the SKID counted so far, which each instruction issued while it
is pending counts up; R52, R40: a lost lease kills; a pending one is delivered as a trap at the next instruction; R360, R385, R414: the ends of the timed waits. -/
def Obligations.CauseAndWaitEvents : Prop :=
  ∀ (s : State) (c : CtxId) (x : Ctx) (fr : Frame), s.ctxs.get (.ctx c) = some x → s.frameOf c = some fr → fr.killed = none →
    let passed (y : Ctx) (e : PdEntry) : Ctx := { y with
      pc := pcNext x.pc, wait := .none, pd := (e :: x.pd).take 4, issued := x.issued + 1, pend := x.pend.map PendCause.bump }
    (∀ p k rest, x.coming = (p, k) :: rest → p.cause = 0x13 → ∃ z fr', exec (.causeArrival c p) s = .next z ∧ z.frames.get (c.core, c.frm) = some fr' ∧
      fr'.killed = some ⟨0x13, ctxNo c.kind, p.eaddr, p.einfo.extractLsb' 0 15⟩) ∧
    (∀ p k rest, x.coming = (p, k) :: rest → p.cause ≠ 0x13 → x.ended = false → x.pend.length < 4 → exec (.causeArrival c p) s = .next (s.setCtx (.ctx c)
      { x with coming := rest, pend := x.pend ++ [
          { p with einfo := if p.cause = 0x39 then p.einfo + BitVec.ofNat 32 (min (x.issued - (k + 1)) 255) else p.einfo }] })) ∧
    (∀ p ps, x.pend = p :: ps → x.ie = true → x.sv = false → x.ended = false → x.wait ≠ .sent → x.wait ≠ .unitRel → fr.started = true → fr.trappedBy = none →
      s.preempts = [] → (∀ k y, s.ctxs.get (.ctx ⟨c.core, c.frm, k⟩) = some y → y.out = []) →
      let line := (x.tvec.extractLsb' 6 12).toNat + p.cause.toNat % 128
      line < storeLines (.ctx c) → tgtBit (s.line (.ctx c) line) 0 = true → exec (.impreciseDelivery c) s = .next { s with
        ctxs := s.ctxs.set (.ctx c) { x with
          pend := ps, estatus := x.status, epc := (pcForm x.pc).zeroExtend 64, ecause := (p.cause &&& 0x7F).zeroExtend 64, eaddr := p.eaddr,
          einfo := p.einfo.zeroExtend 64, status := trapStatus x.status, pc := pcOf 0 line, wait := .none, owed := none },
        frames := s.frames.set (c.core, c.frm) { fr with trappedBy := some c.kind, semq := fr.semq.filter fun e => e.2 != c.kind },
        last := .trapped }) ∧
    (∀ t f, x.wait = .idle (some t) → t ≤ s.clock → x.pend = [] →
      parse (slotWord (s.line (.ctx c) (pcLine x.pc)) (pcSlot x.pc)) = some (.idle f) →
      exec (.idleTimeout c) s = .next (s.setCtx (.ctx c) (passed (x.writeW f.dst 0) (.scalar 0)))) ∧
    (∀ t, x.wait = .rally (some t) → (t ≤ s.clock → exec (.rallyTimeout c) s = .next (s.setCtx (.ctx c) (passed x .none))) ∧
      (s.clock < t → exec (.rallyTimeout c) s = .next s)) ∧
    (∀ t, x.wait = .yield t → (t ≤ s.clock → exec (.yieldWaitEnd c) s = .next (s.setCtx (.ctx c) { x with wait := .none })) ∧
      (s.clock < t → exec (.yieldWaitEnd c) s = .next s))

/-! ## Slabs, walks and refresh (R92, R94, R233 to R236, R370, R413) -/

/-- R233: the code and the stored bytes of a 64-byte line, read back, give that line and leave what follows; the code is the first that represents
the line. -/
def Obligations.LineCodesAreExact : Prop :=
  ∀ (bs rest : List Byte), bs.length = 64 →
    let e := encodeLine bs
    let repeats := ∀ i, i < 64 → bs[i]? = bs[i % 8]?
    let word (i : Nat) : Int := sextNat 32 (leAt bs (4 * i) 4)
    let deltas := ∀ i, i < 15 → ∃ d : Int, -128 ≤ d ∧ d ≤ 127 ∧ (word (i + 1) - word i - d) % (2 ^ 32 : Int) = 0
    decodeLine e.1 (e.2 ++ rest) = (bs, rest) ∧
    e.2.length = (match e.1 with | 0 => 0 | 1 => 8 | 2 => 19 | _ => 64) ∧
    (e.1 = 0 ↔ ∀ b ∈ bs, b = 0) ∧ (e.1 = 1 ↔ (∃ b ∈ bs, b ≠ 0) ∧ repeats) ∧ (e.1 = 2 ↔ ¬ repeats ∧ deltas) ∧ (e.1 = 3 ↔ ¬ repeats ∧ ¬ deltas)

/-- R233, R234, R235, R413: an idle slab's compressed image takes its place; a cold slab that an access waits for is decoded into a free slab; a
migrated slab's bytes lie in the target's pool: bytes, granule tags and the extent entry of each. -/
def Obligations.SlabEvents : Prop :=
  ∀ (s : State) (sid obj slab : Nat) (e : ObjEnt) (p : Place), s.CanonicalMemory → s.objEntry sid obj = some e →
    s.slabPlace sid obj slab = some p →
    let here := poolKey p.pool p.pslab 0
    let epoch := p.ext.extractLsb' 26 8
    (let bytes := memRead s.mem here 65536
     let image := slabImage bytes (s.slabTags here)
     s.feature 7 = true → e.compressible = true → e.cls ≠ 2 → p.state = 0 → p.pin = false → s.slabIdle sid obj slab = true →
     image.length < 49152 → s.bad = [] → s.badLine = [] → ∃ z x, exec (.slabCompress sid obj slab) s = .next z ∧ ExtentIs x p.pslab 1 false epoch ∧
       s.SlabWritten z p here image x ∧ s.TagsWritten z here (List.replicate 4096 false) ∧ z.ctxs = s.ctxs ∧ z.scr = s.scr) ∧
    (∀ n k fs bytes tags, p.state = 1 → s.slabWanted sid p = true → s.pool.get p.pool = some (k, n :: fs) → n < 2 ^ 23 →
      k ≤ poolSize p.pool + s.lentPages p.pool / 16 + fs.length →
      bytes.length = 65536 → tags.length = 4096 →
      (let image := slabImage bytes tags
       image.length < 49152 ∧ memRead s.mem here image.length = image) →
      ∃ z x, exec (.slabDecode sid obj slab) s = .next z ∧ ExtentIs x n 0 p.pin (epoch + 1) ∧
        s.SlabWritten z p (poolKey p.pool n 0) bytes x ∧ s.TagsWritten z (poolKey p.pool n 0) tags ∧
        z.pool.get p.pool = some (k, p.pslab :: fs) ∧ z.ctxs = s.ctxs ∧ z.scr = s.scr) ∧
    (∀ i m n k fs, s.migrations.get i = some m → m.sid = sid → m.obj = obj → m.slab = slab → p.pool ≠ 1 + m.target → n < 2 ^ 23 →
      s.pool.get (1 + m.target) = some (k, n :: fs) → k ≤ poolSize (1 + m.target) + s.lentPages (1 + m.target) / 16 + fs.length →
      ∃ z x, exec (.migrationCopyComplete i) s = .next z ∧ ExtentIs x n m.was p.pin (epoch + 1) ∧
        s.SlabWritten z p (poolKey (1 + m.target) n 0) (memRead s.mem here 65536) x ∧
        s.TagsWritten z (poolKey (1 + m.target) n 0) (s.slabTags here) ∧
        z.migrations = s.migrations.del i ∧ z.slabHome.get (sid, obj, slab) = some m.target ∧ z.ctxs = s.ctxs ∧ z.scr = s.scr)

/-- R92, R94, R236, R370: a walk's reply gives each port that its router marks the object's entry, and frees its record; a bank's refreshes follow one another; a pinned LEASE extension joins the lease under the
next number, and its handle completes with that number. -/
def Obligations.WalkRefreshAndLeaseEvents : Prop :=
  ∀ (s : State),
    (∀ n w, s.walks[n]? = some w → s.migrations = [] → ∃ kept, exec (.translationWalkReply n) s = .next { s with walks := s.walks.eraseIdx n, objCache := kept } ∧
      (24 ≤ w.router → kept = s.objCache) ∧
      ∀ sp, w.router < 24 → s.spaces.get w.sid = some sp → sp.gen = w.gen → w.obj < sp.nobj → ∀ port ∈ w.ports,
        ∃ l e, kept.get port = some l ∧ e ∈ l ∧ e.sid = w.sid ∧ e.gen = w.gen ∧ e.obj = w.obj) ∧
    (∀ ch b k, s.refresh.get (ch, b) = some (k, false) → k < 64 →
      exec (.refreshSubarrayStart ch b) s = .next { s with refresh := s.refresh.set (ch, b) (k, true) }) ∧
    (∀ ch b k, s.refresh.get (ch, b) = some (k, true) → k < 64 →
      exec (.refreshSubarrayEnd ch b) s = .next { s with refresh := s.refresh.set (ch, b) ((k + 1) % 64, false) }) ∧
    (∀ n e j o z1, s.leaseExts.get n = some e → e.key = none → s.jobs.get e.job = some j → s.ops.get e.op = some o →
      s.pinRange e.entry.sid e.entry.obj e.entry.off e.entry.len = some z1 → z1.ops = s.ops → z1.ctxs = s.ctxs → z1.jobs = s.jobs →
      let id := Card.leaseCnt j.card + j.extNo
      ∃ z, exec (.leaseExtensionPinned n) s = .next z ∧ z.mem = z1.mem ∧ z.leaseExts = z1.leaseExts.del n ∧ s.OpDone z e.op (okWord id) ∧
        z.jobs.get e.job = some { j with extNo := j.extNo + 1, lease := j.lease ++ [{ e.entry with id := id }] })

/-! ## Waystations, launch pages and the reduction engine (R222 to R232) -/

/-- R222 to R226: an idle waystation starts its first trigger with the registers of R223, or gives 0x01 where the entry is not VALID; a run's end ends
its chain once no run of it is live. R228, R229: a store to NOTIFY is ignored while BUSY = 1 or with SEL = 0, and else sets BUSY and
starts handler 0 on each slice that SEL names, one chain for each (the model's choice, LOG 95); the launch ends with DONE + 1. -/
def Obligations.HandlerEvents : Prop :=
  ∀ (s : State),
    (∀ slice t ts ch, s.runs.get slice = none → s.trigq.get slice = some (t :: ts) → s.chains.get t.chain = some ch →
      (∀ line cap, s.handlerEntry (spaceSid ch.space) t.h = some (line, cap) → ∃ x, exec (.handlerRunStart slice) s = .next { s with
          trigq := s.trigq.set slice ts, runs := s.runs.set slice { trig := t, count := 0, work := 0 },
          ctxs := s.ctxs.set (.handler slice) x } ∧
        x.pc = pcOf 0 line ∧ x.space = ch.space ∧ x.ended = false ∧ x.readB 1 = t.b1 ∧ x.readB 2 = cap ∧
        ∀ n, x.readG n = (match n.toNat with | 1 => t.off | 2 => t.g2 | 3 => t.g3 | 4 => t.g4 | 5 => BitVec.ofNat 64 slice | _ => 0)) ∧
      (∀ op o, s.handlerEntry (spaceSid ch.space) t.h = none → ch.live = 1 → ch.word = none → ch.page = none → ch.op = some op →
        s.ops.get op = some o → (∃ a x, s.ctxs.get a = some x ∧ x.holdsOp op = true) → s.Does (.handlerRunStart slice) fun z =>
          z.trigq = s.trigq.set slice ts ∧ z.runs = s.runs ∧ z.chains.get t.chain = none ∧ s.OpDone z op (faultWord 0x01 0))) ∧
    (∀ slice r x ch, s.runs.get slice = some r → s.ctxs.get (.handler slice) = some x → x.ended = true →
      s.chains.get r.trig.chain = some ch → ch.word = none →
      let g1 := if r.trig.first then x.readG 1 else ch.g1
      let ended := { s with runs := s.runs.del slice, ctxs := s.ctxs.del (.handler slice) }
      (1 < ch.live → exec (.handlerRunEnd slice) s = .next { ended with
        chains := s.chains.set r.trig.chain { ch with live := ch.live - 1, g1 := g1 } }) ∧
      (∀ op o, ch.live = 1 → ch.op = some op → s.ops.get op = some o → s.Does (.handlerRunEnd slice) fun z =>
        z.runs = ended.runs ∧ z.chains.get r.trig.chain = none ∧ ended.OpDone z op (okWord (g1.extractLsb' 0 56).toNat))) ∧
    (∀ page v rel p, s.pages.get page = some p →
      (p.lstat.getLsbD 32 = true ∨ p.sel = 0 → s.pageWrite page 0 v rel = s) ∧
      (p.lstat.getLsbD 32 = false → p.sel ≠ 0 → ∃ l, s.pageWrite page 0 v rel = { s with
          pages := s.pages.set page { p with lstat := l, fault := none }, notes := s.notes ++ [(page, v, rel, p.argp, p.sel)] } ∧
        l.getLsbD 32 = true ∧ l.getLsbD 33 = false ∧ l.extractLsb' 0 32 = p.lstat.extractLsb' 0 32)) ∧
    (∀ page v rel argp sel p, (s.notes.find? fun n => n.1 == page && n.2.1 == v && n.2.2.1 == rel) = some (page, v, rel, argp, sel) →
      s.pages.get page = some p → s.Does (.launchNotify page v rel) fun z =>
        let slice (j : Nat) : Nat := 20 * (page / 8) + j
        z.notes = s.notes.erase (page, v, rel, argp, sel) ∧ z.pages = s.pages ∧ ∀ j, j < 20 →
          if sel.getLsbD j then ∃ t ch, z.trigq.get (slice j) = some ((s.trigq.get (slice j)).getD [] ++ [t]) ∧
            t.h = 0 ∧ t.off = 0 ∧ t.g2 = v ∧ t.g3 = argp ∧ t.b1 = p.cap ∧
            z.chains.get t.chain = some ch ∧ ch.page = some page ∧ ch.live = 1
          else z.trigq.get (slice j) = s.trigq.get (slice j)) ∧
    (∀ page p, s.pages.get page = some p → p.lstat.getLsbD 32 = true → (∀ c ∈ s.chains, c.2.page ≠ some page) →
      (∀ n ∈ s.notes, n.1 ≠ page) →
      ∃ l, exec (.launchComplete page) s = .next { s with pages := s.pages.set page { p with lstat := l } } ∧
        l.extractLsb' 0 32 = p.lstat.extractLsb' 0 32 + 1 ∧ l.getLsbD 32 = false ∧ l.getLsbD 33 = p.fault.isSome ∧
        l.extractLsb' 40 8 = p.fault.getD 0)

/-- R230 to R232: a parameter block that passes its checks is summed, element by element in R231's tree order; its result is written at DOFF, or
under CLIMB its vector goes to its node; then its flag is written at FOFF and its handle completes; a node adds two vectors of one TAG, and drops one that has
waited a millisecond. -/
def Obligations.ReductionEvents : Prop :=
  ∀ (s : State),
    (∀ stack r rest, s.redq.get stack = some (r :: rest) → r.done = none →
      let sid := spaceSid r.space
      let b := s.redBlock sid (CapF.obj r.cap) r.off
      let part (i e : Nat) : Nat := laneOf 32 (leNat (s.devRead sid (CapF.obj b.src) (b.soff + i * b.stride) b.len)) e
      let sum (e : Nat) : BitVec 32 := BitVec.ofNat 32 (addF32 (addF32 (addF32 (part 0 e) (part 1 e)) (addF32 (part 2 e) (part 3 e)))
        (addF32 (addF32 (part 4 e) (part 5 e)) (addF32 (part 6 e) (part 7 e))))
      let out := (List.range (b.len / 4)).map sum
      s.leased (some r.job) sid (CapF.obj r.cap) r.off 64 false false = true → s.Readable sid (CapF.obj r.cap) r.off 64 →
      s.redCause r.space b = none →
      (∀ i, i < 8 → s.leased (some r.job) sid (CapF.obj b.src) (b.soff + i * b.stride) b.len false false = true ∧
        s.Readable sid (CapF.obj b.src) (b.soff + i * b.stride) b.len) →
      (b.climb = false → s.leased (some r.job) sid (CapF.obj b.dst) b.doff b.len true false = true ∧ s.Readable sid (CapF.obj b.dst) b.doff b.len) →
      ∃ e w kept, let t := { s with redq := s.redq.set stack rest, extents := e, walks := w, objCache := kept }
        let flag (z : State) (written : List (Target × Nat)) : State := z.redEnd stack r b.dst b.foff written (okWord b.tag) (okWord (b.len / 4))
        let sent := { t with climbs := s.climbs ++ [
          { node := stack / 2, since := s.clock, tag := BitVec.ofNat 56 b.tag, data := out, left := stack % 2 == 0, stack0 := stack == 0,
            req := r, dst := b.dst, doff := b.doff, foff := b.foff }] }
        exec (.reductionBlockStart stack) s = .next (if b.climb = false then
            flag (t.redWrite sid b.dst b.doff (out.flatMap fun v => bytesOf 4 v.toNat)) [(.dev sid (CapF.obj b.dst) b.doff, b.len)]
          else if stack = 0 then sent else flag sent [])) ∧
    (∀ stack r rest e sid obj off, s.redq.get stack = some (r :: rest) → r.done = some e → e.flagAt = .dev sid obj off →
      s.markHeld (devRanges e.written) = false → s.leased (some r.job) sid obj off 8 true false = true → s.Readable sid obj off 8 →
      ∃ x w kept, let t := { s with redq := s.redq.set stack rest, extents := x, walks := w, objCache := kept }
        exec (.reductionBlockStart stack) s = .next ((State.putUnits 9
          (((t.markStep (devRanges e.written)).noteWin r.op e.written).toWrite e.flagAt 8) e.flagAt (bytesOf 8 e.flag.toNat)).1.finishOp r.op e.word)) ∧
    (∀ a b, s.climbs = [a, b] → a.node < 6 → b.node = a.node → a.left = true → b.left = false → b.tag = a.tag → b.data.length = a.data.length →
      ∃ c, exec (.reductionClimbPair a.node) s = .next { s with climbs := [c] } ∧
        c = { a with node := if a.node < 4 then 4 + a.node / 2 else 6, left := if a.node < 4 then a.node % 2 == 0 else a.node == 4,
                     since := s.clock, data := c.data } ∧
        c.data.length = a.data.length ∧ ∀ i (h : i < c.data.length) (ha : i < a.data.length) (hb : i < b.data.length),
          c.data[i] = BitVec.ofNat 32 (addF32 a.data[i].toNat b.data[i].toNat)) ∧
    (∀ c, s.climbs = [c] → c.stack0 = false → (c.since + 1000 * s.boot.mhz ≤ s.clock →
        exec (.reductionClimbDiscard c.node) s = .next { s with climbs := [] }) ∧
      (s.clock < c.since + 1000 * s.boot.mhz → exec (.reductionClimbDiscard c.node) s = .next s))

/-! ## Jobs, dispatchers and frames (R20 to R31, R38 to R45, R50 to R72) -/

/-- R21, R45, R50, R51, R55: a job card becomes an active job that pins its lease range by range, and deals its records, chunk by chunk, to the cluster
that holds fewest of them; two agreeing sweeps of an idle job end it. That a job is not idle while it has records to deal is the model's choice
(LOG 62). -/
def Obligations.JobEvents : Prop :=
  ∀ (s : State),
    (∀ page m msg rest sid n, s.boot.locked = true → s.mail.get page = some m → m.sid = some sid → m.queue = msg :: rest →
      isControl msg = false → s.freeJob = some n →
      let card : BitVec 1024 := BitVec.ofNat 1024 (leNat msg)
      let space := s.spaceValue sid
      s.donewordCause space card = none → Card.count card ≠ 0 → tdescOk (s.taskEntry space (Card.typeWord card % 1024)) = true →
      exec (.jobCardAccept page) s = .next { s with
        mail := s.mail.set page { m with queue := rest },
        jobs := s.jobs.set n {
          card := card, space := space, stage := .leasing 0, lease := [], dealt := 0, sent := 0, received := 0, done := 0, failed := 0, sweep := none, killed := false, mirror := none, owed := [], touched := [], extNo := 0 } }) ∧
    (∀ n j, s.jobs.get n = some j → j.killed = false →
      let sid := spaceSid j.space
      let a := Card.array j.card
      let l := Card.leaseList j.card
      let stage (i : Nat) : JobStage := if i ≤ Card.leaseCnt j.card then .leasing i else .running
      (∀ s1 s2, j.stage = .leasing 0 →
        let na := Card.count j.card * Card.recsz j.card
        let nl := Card.leaseCnt j.card * 32
        s.implicitCause j.space a na = none → s.implicitCause j.space l nl = none →
        s.pinRange sid (CapF.obj a) (CapF.base a) na = some s1 → s1.pinRange sid (CapF.obj l) (CapF.base l) nl = some s2 →
        exec (.leaseGrant n) s = .next { s2 with jobs := s2.jobs.set n { j with
          stage := stage 1, lease := [⟨implicitId, sid, CapF.obj a, CapF.base a, na, false, false⟩,
            ⟨implicitId + 1, sid, CapF.obj l, CapF.base l, nl, false, false⟩] } }) ∧
      (∀ k s1 s2, j.stage = .leasing (k + 1) →
        let off := CapF.base l + 32 * k
        s.devTouch 0 sid (CapF.obj l) off 32 true = some s1 → s1.readBad sid (CapF.obj l) off 32 = false → off % 16 = 0 →
        let cap := capOf (s1.devRead sid (CapF.obj l) off 32) (s1.devTag sid (CapF.obj l) off)
        let field (i n : Nat) : Nat := leNat (s1.devRead sid (CapF.obj l) (off + i) n)
        let w := field 29 1 % 2 == 1
        let ato := field 29 1 / 2 % 2 == 1
        s1.leaseCause j.space cap (field 16 5) (field 24 5) w ato = none → field 24 5 ≠ 0 → s1.pinRange sid (CapF.obj cap) (field 16 5) (field 24 5) = some s2 →
        exec (.leaseGrant n) s = .next { s2 with jobs := s2.jobs.set n { j with
          stage := stage (k + 2), lease := j.lease ++ [⟨k, sid, CapF.obj cap, field 16 5, field 24 5, w, ato⟩] } })) ∧
    (∀ n j cl, s.jobs.get n = some j → j.stage = .running → j.killed = false → j.mirror = none → j.chunks = [] → j.dealt < Card.count j.card →
      let p := Card.prio j.card
      let held (c : Nat) : Nat := s.dealHeld n c p
      let open' (c : Nat) : Prop := c ∈ spanClusters j.card ∧ held c < 48 ∧ (s.clusterAt c).levelFull p = false
      let left := Card.count j.card - j.dealt
      let even := Card.divisor j.card * 48 * (spanClusters j.card).length
      let size := min left (if Card.guided j.card then max (Card.minChunk j.card) ((left + even - 1) / even) else Card.minChunk j.card)
      let a := Card.array j.card
      let sid := spaceSid j.space
      let off (i : Nat) : Nat := CapF.base a + i * Card.recsz j.card
      let task (i : Nat) : Task :=
        { bytes := BitVec.ofNat 128 (leNat (s.devRead sid (CapF.obj a) (off i) 16) / 2 ^ 16 * 2 ^ 16 + Card.typeWord j.card % 4096), level := p,
          index := BitVec.ofNat 32 i, job := n, parent := 0, kind := .job, b1 := recordCap j.card i, space := j.space }
      let tasks (z : State) : List Task := ((z.clusterAt cl).level p).dealer.map (·.task)
      open' cl → (∀ c, open' c → held cl < held c ∨ (held cl = held c ∧ cl ≤ c)) → ((s.clusterAt cl).level p).onChip + size ≤ 256 →
      (∀ i, i < size → s.Readable sid (CapF.obj a) (off (j.dealt + i)) 16) →
      0 < size → s.Does (.chunkDeal n) fun z => tasks z = tasks (s.readRings cl) ++ (List.range size).map (fun i => task (j.dealt + i)) ∧
        ∃ t, z.jobs.get n = some { j with dealt := j.dealt + size, sent := j.sent + size, touched := t }) ∧
    (∀ n j, s.jobs.get n = some j →
      let idle := (j.killed = true ∨ (j.stage = .running ∧ (j.mirror.isSome = true ∨ Card.count j.card ≤ j.dealt))) ∧ s.jobLive n = false ∧
        j.sent = j.received
      (¬ idle → exec (.jobSweep n) s = .next { s with jobs := s.jobs.set n { j with sweep := none } }) ∧
      (idle → j.sweep ≠ some (j.sent, j.received) →
        exec (.jobSweep n) s = .next { s with jobs := s.jobs.set n { j with sweep := some (j.sent, j.received) } }) ∧
      (∀ z, idle → j.sweep = some (j.sent, j.received) → j.mirror = none → s.jobConts n = [] →
        (s.dropJob n j).completeCard j.card (spaceSid j.space) j.done j.failed = some z → exec (.jobSweep n) s = .next z))

/-- R43, R56 to R63, R67: a record on its way enters its level (spilled records are as their rings hold them, R57); one decision binds the first offer that fits; AGE at 1,024 lets only the lowest level's
candidate bind; a record passed over 256 times is reserved; DCTL and SPILL are written; a decrement counts its continuation down, and at 0 makes
it a record; a proxy queue moves up to 128 entries in order (a link's number then advances by the model's choice of LOG 114). -/
def Obligations.DispatcherEvents : Prop :=
  ∀ (s : State) (cl : Nat),
    let c := s.clusterAt cl
    let ringed := s.readRings cl
    let cr := ringed.clusterAt cl
    let tasks (z : State) (n : Nat) (k : Source) : List Task := (((z.clusterAt cl).level n).source k).map (·.task)
    (∀ q t rest, c.arriving = (q, t) :: rest → (∀ e ∈ rest, e.1 = q) → t.level < 8 → (cr.level t.level).onChip < 256 → s.Does (.spawnEntryArrival cl) fun z =>
      let k : Source := if t.kind = .job then .dealer else .spawn
      (z.clusterAt cl).arriving = rest ∧ tasks z t.level k = tasks ringed t.level k ++ [t]) ∧
    (let binds (i : Instr) (low : Bool) : Prop := ∀ n k e more core frm b, cr.offers low = (n, k, e) :: more → e.spill = none →
        (∀ p ∈ c.conts, p.2.ready = false) → tdGw (s.taskEntry e.task.space (recType e.task.bytes)) = 1 →
        ringed.placeEntry cl e = some [(core, frm, b)] → s.Does i fun z =>
          (∃ fr, z.frames = s.frames.set (core, frm) fr ∧ fr.task = e.task ∧ fr.tdesc = s.taskEntry e.task.space (recType e.task.bytes) ∧
            fr.block = b ∧ fr.started = false ∧ fr.group = none ∧ fr.killed = none) ∧
          ((z.clusterAt cl).level n).entries.map (·.seq) = ((c.level n).entries.map (·.seq)).filter (· != e.seq) ∧
          (z.clusterAt cl).age = if low = true ∨ ∀ m, m < n → (c.level m).size = 0 then 0 else c.age + 1
     (c.age < 1024 → binds (.dispatchBind cl) false) ∧ (1024 ≤ c.age → binds (.ageGuard cl) true) ∧
     (1024 ≤ c.age → exec (.dispatchBind cl) s = .next s) ∧ (c.age < 1024 → exec (.ageGuard cl) s = .next s)) ∧
    (∀ n k e, c.reserved = none → (cr.level n).candidate = some (k, e) →
      (256 ≤ e.passed → exec (.recordReserved cl n) s = .next (ringed.setCluster cl { cr with reserved := some (n, e.seq) })) ∧
      (e.passed < 256 → exec (.recordReserved cl n) s = .next ringed)) ∧
    (∀ who v rest, s.unitq = (who, .dctl cl, v) :: rest → s.Does (.dctlWrite cl v) fun z => z.unitq = rest ∧
      ((∀ n, n < 8 → (c.level n).spilled = []) → (z.clusterAt cl).rsz = (v.extractLsb' 16 5).toNat) ∧
      (z.clusterAt cl).keyed = (if s.feature 9 then v.extractLsb' 0 8 else c.keyed) ∧
      ∀ n, n < 8 → (z.clusterAt cl).level n = if (c.level n).size = 0 then { c.level n with keyed := (z.clusterAt cl).keyed.getLsbD n }
        else c.level n) ∧
    (∀ who v rest, s.unitq = (who, .spill cl, v) :: rest → (∀ n, n < 8 → (c.level n).spilled = []) → exec (.spillWrite cl v) s = .next
      { s.setCluster cl { c with spillReg := v &&& 0x800000FFFFFFF000 } with unitq := rest }) ∧
    (∀ d rest r space level job, s.decs = d :: rest → d.stuck = none →
      (∀ e ∈ rest, cidCluster e.cid = cl → e.who = d.who ∧ e.stuck = none) → cidCluster d.cid = cl → cl < 24 → cidPkg d.cid = s.boot.ownPkg.toNat →
      c.cont (cidSlot d.cid) = { gen := cidGen d.cid, live := some (r, space, level, job), ready := false } →
      let after (z : State) : Cont := (z.clusterAt cl).cont (cidSlot d.cid)
      (1 < (r.extractLsb' 32 32).toNat → s.Does (.decrementApply cl) fun z => z.decs = rest ∧
        ∃ r', after z = { gen := cidGen d.cid, live := some (r', space, level, job), ready := false } ∧
          r'.extractLsb' 32 32 = r.extractLsb' 32 32 - 1 ∧ r'.extractLsb' 0 32 = r.extractLsb' 0 32 ∧ r'.extractLsb' 64 192 = r.extractLsb' 64 192) ∧
      ((r.extractLsb' 32 32).toNat = 1 → level < 8 → (cr.level level).onChip < 256 → s.Does (.decrementApply cl) fun z => z.decs = rest ∧
        (after z).live = none ∧ (after z).gen = (if cidGen d.cid = 0xFF then 1 else cidGen d.cid + 1) ∧
        ∃ t, tasks z level .cont = tasks ringed level .cont ++ [t] ∧ t.b1 = r.extractLsb' 64 128 ∧ t.level = level ∧ t.job = job ∧ t.space = space ∧
          recArg t.bytes = r.extractLsb' 192 64 ∧ t.bytes.extractLsb' 0 16 = r.extractLsb' 0 16)) ∧
    (∀ die e t, s.proxies.get (die, .die (cl / 12)) = some [e] → e.task = some t → e.dec = none → e.bytes.extractLsb' 208 8 = BitVec.ofNat 8 cl →
      cl < 24 → exec (.proxyForwardWrite die (.die (cl / 12))) s = .next { s.setCluster cl { c with arriving := c.arriving ++ [(e.who, t)] } with
        proxies := s.proxies.set (die, .die (cl / 12)) [] }) ∧
    (∀ die n (h : n < 16) q, s.links[n].state = 2 → s.proxies.get (die, .link n) = some q → q ≠ [] →
      exec (.proxyForwardWrite die (.link n)) s = .next { s with
        proxies := s.proxies.set (die, .link n) (q.drop 128), links := s.links.set n { s.links[n] with seqNo := s.links[n].seqNo + (q.take 128).length } })

/-- R28: a bound frame's contexts start with the entries, arguments and tables of their task; R38, R41, R43: a frame whose contexts have ended is free, its
record counts as done, and its parent's decrement is on its way. -/
def Obligations.TaskStartAndEnd : Prop :=
  ∀ (s : State) (core frm : Nat) (f : Frame), s.frames.get (core, frm) = some f →
    let d := f.tdesc
    let t := f.task
    (f.started = false → f.killed = none → ∃ z, exec (.taskStart core frm) s = .next z ∧
      z = { s with frames := s.frames.set (core, frm) { f with started := true }, ctxs := z.ctxs } ∧
      (∀ a, (∀ k, a ≠ .ctx ⟨core, frm, k⟩) → z.ctxs.get a = s.ctxs.get a) ∧
      ∀ k, ∃ x, z.ctxs.get (.ctx ⟨core, frm, k⟩) = some x ∧
        x.pc = pcOf 0 (match k with | .loader => tdLent d % 256 | .computer => tdCent d % 4096 | .storer => tdSent d % 256) ∧
        x.tvec = BitVec.zeroExtend 64 (match k with
          | .loader => (s.coreOf core).ltvec | .computer => (s.clusterAt (clusterOf core)).tvec | .storer => (s.coreOf core).stvec) <<< 6 ∧
        x.gdem = (match k with | .loader => tdLgdem d | .computer => tdCgdem d | .storer => tdSgdem d) ∧
        x.status = 2 ∧ x.space = t.space ∧ x.ended = false ∧ x.readB 1 = t.b1 ∧ (∀ n, n ≠ 1 → x.readB n = 0) ∧
        ∀ n, x.readG n = (match n.toNat with
          | 1 => t.bytes.extractLsb' 64 64 | 2 => (t.bytes.extractLsb' 16 16).zeroExtend 64 | 3 => (t.bytes.extractLsb' 32 16).zeroExtend 64
          | 4 => (t.bytes.extractLsb' 48 16).zeroExtend 64 | 5 => t.index.zeroExtend 64 | _ => 0)) ∧
    (∀ j, f.started = true → f.killed = none → f.group = none → s.frameBusy core frm f = false → s.jobs.get t.job = some j →
      (∀ q ∈ (s.coreOf core).cmds, q.who.frm ≠ frm) → (∀ p ∈ s.atoms, ∀ k, p.2.who ≠ .ctx ⟨core, frm, k⟩) →
      (∀ p ∈ (s.clusterAt (clusterOf core)).conts, p.2.ready = false) →
      s.proxyDest (dieOf core) (cidPkg t.parent) (cidCluster t.parent) = none → s.Does (.taskEnd core frm) fun z =>
        z.frames = s.frames.del (core, frm) ∧ (∀ k, z.ctxs.get (.ctx ⟨core, frm, k⟩) = none) ∧
        (∀ a, (∀ k, a ≠ .ctx ⟨core, frm, k⟩) → z.ctxs.get a = s.ctxs.get a) ∧
        z.decs.map (·.cid) = s.decs.map (·.cid) ++ (if t.parent = 0 then [] else [t.parent]) ∧
        ∃ j', z.jobs.get t.job = some j' ∧ j'.failed = j.failed ∧ j'.done = j.done + (if t.kind = .job then 1 else 0))

/-- R68, R355: a drained frame is kept whole with its contexts under a saved number and leaves its core, and its handle completes with the member count;
R69: a drain of more than 64 microseconds is abandoned with 0x30 and saves nothing; R71, R353: a saved frame binds where its demands fit, with the
registers its area holds (reserved bits of STATUS, EPC and ESTATUS read as zero, R6), and its handle completes with its core and frame; else it
completes with F = 1 and 0x14. A member killed while it drains ends the save with 0x14 by the model's choice (LOG 110). -/
def Obligations.PreemptionEvents : Prop :=
  ∀ (s : State) (n : Nat) (p : Preempt) (op : Nat) (o : Op), s.preempts.get n = some p → p.op = some op → s.ops.get op = some o →
    (∃ a x, s.ctxs.get a = some x ∧ x.holdsOp op = true) → (∃ m, o.kind = .save m ∨ o.kind = .restore m) →
    let ended := { s with preempts := s.preempts.del n }
    let answered (z : State) (own : Agent → Prop) (w : Word) : Prop := z.ops.get op = none ∧ ∀ a x, ¬ own a → s.ctxs.get a = some x →
      ∃ y, z.ctxs.get a = some y ∧ ∀ (i : Nat) (h : i < 16), x.h[i] = .pending op → y.h[i] = .complete w [op]
    (p.save = true → (∀ k ∈ p.frames, ∃ f, s.frames.get k = some f) →
      (∃ k ∈ p.frames, ∃ f, s.frames.get k = some f ∧ f.killed.isSome = true) →
      s.Does (.frameSaveComplete n) fun z => z.preempts = s.preempts.del n ∧ z.frames = s.frames ∧ ended.OpDone z op (faultWord 0x14 0)) ∧
    (p.save = true →
      let end3 := p.step3.getD s.clock
      (p.t0 + 64 * s.boot.mhz < end3 → (s.Does (.preemptAbandon n) fun z =>
          z.preempts = s.preempts.del n ∧ z.frames = s.frames ∧ ended.OpDone z op (faultWord 0x30 0)) ∧
        ((∀ k ∈ p.frames, ∃ f, s.frames.get k = some f ∧ f.killed = none) → exec (.frameSaveComplete n) s = .next s)) ∧
      (end3 ≤ p.t0 + 64 * s.boot.mhz → exec (.preemptAbandon n) s = .next s)) ∧
    (∀ core frm f sid obj off t3, p.save = true → p.step3 = some t3 → t3 ≤ p.t0 + 64 * s.boot.mhz → p.frames = [(core, frm)] → s.frames.get (core, frm) = some f → f.killed = none → f.gidx = 0 →
      s.drained (core, frm) = true → (∀ q ∈ (s.coreOf core).cmds, q.who.frm ≠ frm) → s.unitq = [] →
      (∀ k x, s.ctxs.get (.ctx ⟨core, frm, k⟩) = some x → x.out = []) → (∀ e ∈ (s.clusterAt (clusterOf core)).conts, e.2.ready = false) →
      p.area = .dev sid obj off → s.Readable sid obj off (tdGw f.tdesc * areaBytes (tdSdem f.tdesc)) →
      ∃ z, exec (.frameSaveComplete n) s = .next z ∧ z.preempts = s.preempts.del n ∧ z.scr = s.scr ∧
        answered z (fun a => ∃ k, a = .ctx ⟨core, frm, k⟩) (okWord 1) ∧
        z.frames = s.frames.del (core, frm) ∧ (∀ k, z.ctxs.get (.ctx ⟨core, frm, k⟩) = none) ∧
        ∃ v, z.saved.getLast? = some v ∧ v.area = p.area ∧ v.core = core ∧ v.frm = 4 + n ∧ v.frame = f ∧ v.ctxs.map (·.1) = ctxKinds ∧
          ∀ e ∈ v.ctxs, ∃ x, s.ctxs.get (.ctx ⟨core, frm, e.1⟩) = some x ∧ e.2.pc = x.pc ∧ e.2.g = x.g ∧ e.2.k = x.k ∧ e.2.b = x.b ∧
            e.2.v = x.v ∧ e.2.status = x.status ∧ e.2.pend = x.pend) ∧
    (∀ sid obj off, p.save = false → p.area = .dev sid obj off → s.Readable sid obj off 256 →
      let h := areaHead (s.bytesAt p.area 256)
      let td := s.areaType p.area h
      (s.placeDomain p.area p.target td h (s.bytesAt p.area 256) = none → s.Does (.frameRestoreBind n) fun z =>
        z.preempts = s.preempts.del n ∧ z.frames = s.frames ∧ z.saved.length = s.saved.length ∧ ended.OpDone z op (faultWord 0x14 0)) ∧
      (∀ q v, s.placeDomain p.area p.target td h (s.bytesAt p.area 256) = some [q] → q.area = p.area → s.savedAt p.area = some v → q.saved = v →
        leNat (s.bytesAt (p.area.plus 45) 1) = 0 → v.frame.killed = none → v.frame.gbar = 0 → v.ctxs.map (·.1) = ctxKinds → (∀ e ∈ v.ctxs, e.2.pend = []) →
        (∀ m, QItem.op op m ∉ v.queue) → s.Readable sid obj off (tdGw td * areaBytes (tdSdem td)) →
        ∃ z fr, exec (.frameRestoreBind n) s = .next z ∧ z.mem = s.mem ∧ z.preempts = s.preempts.del n ∧
          answered z (fun a => ∃ k, a = .ctx ⟨q.core, q.frm, k⟩) (okWord (coreX p.target * 2 ^ 25 + coreY p.target * 2 ^ 20 + q.frm)) ∧
          z.frames.get (q.core, q.frm) = some fr ∧ fr.block = leNat (s.bytesAt (p.area.plus 40) 2) ∧ fr.tdesc = v.frame.tdesc ∧ fr.killed = none ∧
          z.savedAt p.area = none ∧ ∀ k, ∃ x, z.ctxs.get (.ctx ⟨q.core, q.frm, k⟩) = some x ∧
            let word (i : Nat) : Word := leWord (s.bytesAt (p.area.plus (0x100 + 0x900 * ctxNo k + i)) 8)
            x.pc = (word 0x280).extractLsb' 0 15 ∧ x.status = word 0x288 &&& statusBits ∧ x.epc = word 0x290 &&& 0x7FFF ∧ x.estatus = word 0x2B0 &&& statusBits ∧
            ∀ r, r ≠ 0 → x.readG r = word (8 * r.toNat)))

/-! ## The host and the pod (R202, R228, R255 to R268, R415 to R418) -/

/-- R261: a start whose image and steps pass ends at CODE 0x02 with its PATH, work stopped, memory cleared (or kept by value 3); a failed one holds its
CODE and makes the next one cold; a START written during a start is held, CODE stays 0x01, and it is run after
the start. R262: the lock keeps the offered bits of ACCEPT and ends
at CODE 0x00. R268: a shutdown stops all work with CODE 0x86. The step number 6 that a start ends with, and that scratch is cleared by
value 3, by a start that fails at its first step and by a shutdown, are the model's choice (LOG 93). -/
def Obligations.StartsAndLock : Prop :=
  ∀ (s : State) (e : StartEnv),
    let b := s.boot
    let stopped (z : State) : Prop := z.ctxs = [] ∧ z.frames = [] ∧ z.jobs = [] ∧ z.spaces = [] ∧ z.pages = [] ∧ z.scr = [] ∧ z.boot.locked = false ∧
      z.hostMem = s.hostMem ∧ z.clock = s.clock
    let started (i : Instr) (path : BitVec 2) (keep : Bool) : Prop := ∃ z, exec i s = .next z ∧ stopped z ∧
      z.mem = (if keep then s.mem else []) ∧ z.tags = (if keep then s.tags else []) ∧
      z.boot.code = (if i = .powerOn e ∧ b.heldStart.isSome = true then 0x01 else 0x02) ∧ z.boot.stepNo = 6 ∧ z.boot.path = path ∧ z.boot.starts = b.starts + 1 ∧ z.boot.hash = some e.hash ∧
      z.boot.coldNext = false ∧ z.boot.heldStart = (if i = .heldStartRun e then none else b.heldStart)
    (b.code = 0x01 → b.path = 0 → e.sigOk = true → e.fail = none → started (.powerOn e) 1 false) ∧
    (b.code = 0x01 → b.path = 0 → b.heldStart = none → e.sigOk = false → ∃ z, exec (.powerOn e) s = .next z ∧ stopped z ∧ z.boot.code = 0x81 ∧ z.boot.stepNo = 1 ∧
      z.boot.coldNext = true) ∧
    (b.code ≠ 0x01 ∨ b.path ≠ 0 → exec (.powerOn e) s = .next s) ∧ (b.path = 0 → exec (.heldStartRun e) s = .next s) ∧
    (b.code = 0x01 → exec (.startCold e) s = .next { s with boot := { b with heldStart := some 1 } } ∧
      exec (.startWarm e) s = .next { s with boot := { b with heldStart := some 2 } } ∧
      exec (.startWarmPreserving e) s = .next { s with boot := { b with heldStart := some 3 } }) ∧
    (b.code ≠ 0x01 → e.fail = none → (e.sigOk = true → started (.startCold e) 1 false) ∧
      (b.coldNext = false → (e.sigOk = true ∨ b.hash = some e.hash) →
        started (.startWarm e) 2 false ∧ started (.startWarmPreserving e) 2 true)) ∧
    (b.path ≠ 0 → e.fail = none → (e.sigOk = true → b.heldStart = some 1 → started (.heldStartRun e) 1 false) ∧
      (b.coldNext = false → (e.sigOk = true ∨ b.hash = some e.hash) →
        (b.heldStart = some 2 → started (.heldStartRun e) 2 false) ∧ (b.heldStart = some 3 → started (.heldStartRun e) 2 true))) ∧
    (∃ a : Vector Word 4, (b.code = 0x02 → exec .lockFeatures s = .next { s with boot := { b with accept := a, locked := true, code := 0x00 } }) ∧
      a[1] = 0 ∧ a[2] = 0 ∧ a[3] = 0 ∧ ∀ i, i < 64 → a[0].getLsbD i = (b.accept[0].getLsbD i && (offered 0).getLsbD i &&
        (i != 2 || b.accept[0].getLsbD 0) && (i != 6 || b.accept[0].getLsbD 5))) ∧
    (b.code ≠ 0x02 → exec .lockFeatures s = .next s) ∧
    (∀ die, ∃ z, exec (.thermalShutdown die) s = .next z ∧ stopped z ∧ z.mem = s.mem ∧ z.boot.code = 0x86 ∧ z.boot.unit = BitVec.ofNat 3 die ∧
      z.boot.coldNext = true)

/-- R255, R256, R260, R262, R265, R267, R268, R418: what a write of the function's registers does; an unsupported request changes nothing, and a read
of the boot and status pages completes with the register's word; the clock steps, and the mailbox queues. -/
def Obligations.HostRegistersAndMailboxes : Prop :=
  ∀ (s : State) (v : BitVec 64),
    let b := s.boot
    (∀ n : BitVec 2, exec (.registerWrite (.accept n) v) s =
      .next (if b.locked then s else { s with boot := { b with accept := b.accept.set n.toNat v n.isLt } })) ∧
    exec (.registerWrite .fwaddr v) s = .next { s with boot := { b with fwaddr := v } } ∧
    exec (.registerWrite .fwlen v) s = .next { s with boot := { b with fwlen := v } } ∧
    (∀ n p, s.pages.get n = some p → exec (.registerWrite (.argp n) v) s = .next { s with pages := s.pages.set n { p with argp := v } } ∧
      exec (.registerWrite (.sel n) v) s = .next { s with pages := s.pages.set n { p with sel := v &&& 0xFFFFF } }) ∧
    (∀ off, ∃ a, exec (.unsupportedRequest off) s = .next { s with completion := some a } ∧
      ((0x2000 ≤ off ∧ off < 0x10000) ∨ 0x50000 ≤ off → a = none) ∧
      (off = 0 → ∃ w : Word, a = some w ∧ w.extractLsb' 48 16 = b.badw ∧ w.extractLsb' 32 16 = b.starts ∧ w.extractLsb' 24 8 = b.code ∧
        w.extractLsb' 16 8 = b.stepNo ∧ w.extractLsb' 8 3 = b.unit ∧ w.extractLsb' 0 2 = b.path ∧ w &&& 0xF8FC = 0) ∧
      (off = 0x08 → a = some (offered 0)) ∧ (off = 0x28 → a = some (b.accept[0] &&& 0x7FF)) ∧ (off = 0x30 ∨ off = 0x38 ∨ off = 0x40 → a = some 0) ∧ (off = 0x58 → a = some b.fwaddr) ∧
      (off = 0x60 → a = some b.fwlen) ∧ (off = 0x48 ∨ off = 0x50 → a = some 0) ∧
      (∀ n (h : n < 16), off = 0x1000 + 8 * n → ∃ w : Word, a = some w ∧ w.extractLsb' 62 2 = s.links[n].state ∧
        w.extractLsb' 48 8 = s.links[n].peer ∧ w.extractLsb' 0 32 = s.links[n].retry ∧ w.extractLsb' 32 16 = 0 ∧ w.extractLsb' 56 6 = 0) ∧
      (off = 0x1080 → ∃ w : Word, a = some w ∧ w.extractLsb' 0 16 = b.tokEpoch ∧ w.extractLsb' 16 32 = b.tokPasses ∧ w.extractLsb' 48 16 = 0) ∧
      (∀ p r, p < 64 → b.replies.get p = some r → (off = 0x1100 + 16 * p → a = some (r.extractLsb' 0 64)) ∧
        (off = 0x1108 + 16 * p → a = some (r.extractLsb' 64 64)))) ∧
    (let steps (i : Instr) (mhz : Nat) : Prop := s.Does i fun z => z.boot = { b with mhz := mhz } ∧ z.ctxs = s.ctxs ∧ z.frames = s.frames
     s.spaces = [] → (∀ die, 550 < b.mhz → steps (.thermalClockLower die) (b.mhz - 50)) ∧ (b.mhz < 1050 → steps .thermalClockRaise (b.mhz + 50)) ∧
       (∀ die, b.mhz ≤ 550 → exec (.thermalClockLower die) s = .next s) ∧ (1050 ≤ b.mhz → exec .thermalClockRaise s = .next s)) ∧
    (∀ page m msg, page < 64 → s.mail.get page = some m → msg.length = 128 →
      (m.queue.length < 32 → exec (.mailboxMessage page msg) s = .next { s with mail := s.mail.set page { m with queue := m.queue ++ [msg] } }) ∧
      (32 ≤ m.queue.length → exec (.mailboxMessage page msg) s = .next s)) ∧
    (∀ page, page < 64 → exec (.badMailboxWrite page) s =
      .next { s with boot := { b with badw := if b.badw = 0xFFFF then 0xFFFF else b.badw + 1 } })

/-- R258, R417, R93, R228, R233, R259, R264, R265: a control message that passes its checks and asks for no reply has its effect and leaves its page's
queue; R418: one of an unknown kind is refused, and its answer stands in the page's REPLY register. The byte order of ATTEST's digests (LOG 103), the
space that RETIRE leaves installed (LOG 85), an ACKOUT above the count (LOG 91) and LINK's keeping of RETRY (LOG 92) are the model's choice. -/
def Obligations.ControlMessages : Prop :=
  ∀ (s : State) (page : Nat) (m : List Byte) (box : Mailbox), s.mail.get page = some box → m.length = 128 → msgReply m = false →
    let n (i k : Nat) : Nat := leAt m i k
    let popped := { box with queue := box.queue.drop 1 }
    let done (t : State) : State := { t with mail := t.mail.set page popped }
    let asks (kind : Nat) : Prop := s.ctrlMsg page kind = some m
    (asks 0x01 → s.spaces.get (n 8 2 % 4096) = none → 0 < n 12 4 → n 12 4 ≤ 2 ^ 24 → n 72 8 % 4096 = 0 →
      (∀ i, i < 7 → n (16 + 8 * i) 8 % 64 = 0 ∧ n (16 + 8 * i) 8 < 512 * 2 ^ 30) →
      exec (.ctrlSpace page) s = .next (done { s with spaces := s.spaces.set (n 8 2 % 4096) {
        gen := BitVec.ofNat 8 (n 10 1), nobj := n 12 4, objTab := n 16 8, taskTab := n 24 8, barTab := #v[n 32 8, n 40 8, n 48 8, n 56 8],
        hdlTab := n 64 8, outPage := n 72 8, seq := 0, unacked := 0, heldOut := [], lost := false } })) ∧
    (∀ sp, asks 0x02 → s.spaces.get (n 8 2 % 4096) = some sp → sp.gen ≠ 0xFF → (∀ f ∈ s.frames, spaceSid f.2.task.space ≠ n 8 2 % 4096) →
      (∀ v ∈ s.saved, spaceSid v.frame.task.space ≠ n 8 2 % 4096) → ∃ z, exec (.ctrlRetire page) s = .next (done z) ∧
        z = { s with spaces := z.spaces } ∧ z.spaces.get (n 8 2 % 4096) = some { sp with gen := sp.gen + 1 } ∧
        ∀ k, k ≠ n 8 2 % 4096 → z.spaces.get k = s.spaces.get k) ∧
    (∀ to_, asks 0x03 → n 8 1 < 64 → s.mail.get (n 8 1) = some to_ → (∀ q ∈ to_.queue, isControl q = true) →
      (n 10 2 % 4096 = 0xFFF ∨ (s.spaces.get (n 10 2 % 4096)).isSome = true) →
      let sid := if n 10 2 % 4096 = 0xFFF then none else some (n 10 2 % 4096)
      let boxes := s.mail.set (n 8 1) { to_ with sid := sid }
      exec (.ctrlBindpage page) s = .next { s with mail := boxes.set page { popped with sid := if n 8 1 = page then sid else box.sid } }) ∧
    (let sid := n 8 2 % 4096
     let (obj, off, host, len) := (n 12 3, n 16 8, n 24 8, n 32 4)
     asks 0x04 → 64 ≤ len → len ≤ 2 ^ 30 → len % 64 = 0 → off % 64 = 0 → host % 64 = 0 → s.hostRange sid obj off len = none →
      s.Readable sid obj off len → ∃ e w kept, let t := { s with extents := e, walks := w, objCache := kept }
        (n 10 1 = 0 → s.derivedObj sid obj off = false → s.markHeld [(sid, obj, off, len)] = false → exec (.ctrlHcopy page) s = .next (done
          ((((t.markStep [(sid, obj, off, len)]).toWrite (.dev sid obj off) len).mend (.dev sid obj off) len).put (.dev sid obj off)
            (memRead s.hostMem host len)))) ∧
        (n 10 1 = 1 → exec (.ctrlHcopy page) s = .next (done { t with hostMem := memWrite s.hostMem host (s.devRead sid obj off len) }))) ∧
    (let sid := n 8 2 % 4096
     let (obj, off, first, k) := (n 12 3, n 16 8, n 24 2, n 26 2)
     asks 0x05 → n 10 1 = 2 → off % 64 = 0 → 0 < k → first + k ≤ 4096 → s.hostRange sid obj off (64 * k) = none → s.Readable sid obj off (64 * k) →
      ∃ z, exec (.ctrlLoadstore page) s = .next (done z) ∧ z.mem = s.mem ∧ z.ctxs = s.ctxs ∧ z.frames = s.frames ∧
        ∀ c, c < 24 → if (n 32 4).testBit c then
            (z.clusterAt c).tvec = (if 2 ^ 15 ≤ n 28 2 then (s.clusterAt c).tvec else BitVec.ofNat 12 (n 28 2)) ∧
            ∀ i, (z.clusterAt c).store.get i = if first ≤ i ∧ i < first + k then some (leLine (s.devRead sid obj (off + 64 * (i - first)) 64))
              else (s.clusterAt c).store.get i
          else z.clusterAt c = s.clusterAt c) ∧
    (∀ k p, asks 0x09 → n 8 1 < 8 → n 9 1 < 8 → k = 8 * n 8 1 + n 9 1 →
      (n 10 1 = 1 → p = { sid := n 12 2 % 4096, obj := n 16 3, cap := capOf ((m.drop 32).take 16) true, argp := 0, sel := 0, lstat := 0, fault := none } →
        exec (.ctrlLaunchpageRegister page) s = .next (done { s with pages := s.pages.set k p })) ∧
      (n 10 1 = 0 → exec (.ctrlLaunchpageRemove page) s = .next (done { s with pages := s.pages.del k }))) ∧
    (asks 0x0A → exec (.ctrlColdidle page) s = .next (done { s with boot := { s.boot with coldIdle := BitVec.ofNat 32 (n 8 4) } })) ∧
    (∀ sp, asks 0x0B → s.spaces.get (n 8 2 % 4096) = some sp → sp.heldOut = [] → 0 < n 12 4 → n 12 4 ≤ 64 →
      ∃ irq, exec (.ctrlAckout page) s = .next (done { s with
        spaces := s.spaces.set (n 8 2 % 4096) { sp with unacked := sp.unacked - n 12 4 }, interrupts := s.interrupts ++ irq }) ∧
        irq = if sp.unacked ≤ n 12 4 then [] else [n 8 2 % 4096 % 64]) ∧
    (asks 0x0C → n 8 1 < 64 → 0 < n 9 1 → n 9 1 ≤ 64 → ∃ l : Vector Link 16, exec (.ctrlLink page) s = .next (done { s with
        links := l, boot := { s.boot with
          ownPkg := BitVec.ofNat 8 (n 8 1), podSize := BitVec.ofNat 8 (n 9 1), successor := BitVec.ofNat 8 (n 10 1), tokTime := s.clock } }) ∧
      ∀ (i : Nat) (h : i < 16), l[i] = { s.links[i] with
        state := if (n 12 2).testBit i ∧ s.feature 8 = true then 1 else 0, peer := BitVec.ofNat 8 (n (16 + i) 1) }) ∧
    (asks 0x0D → n 40 8 % 64 = 0 → ∃ bs, exec (.ctrlAttest page) s = .next (done { s with hostMem := memWrite s.hostMem (n 40 8) bs }) ∧
      bs.length = 256 ∧ leAt bs 0 4 = 1 ∧ leAt bs 4 4 = s.boot.starts.toNat ∧ (bs.drop 8).take 32 = (m.drop 8).take 32 ∧
      ((bs.drop 40).take 32).reverse = bytesOf 32 (s.boot.hash.getD 0).toNat ∧ leAt bs 104 8 = (s.boot.accept[0]).toNat ∧
      leAt bs 120 8 = s.boot.path.toNat ∧ ∀ i, 192 ≤ i → i < 256 → bs[i]? = some 0) ∧
    (s.boot.locked = true → box.queue.head? = some m → isControl m = true → (msgKind m = 0 ∨ 0x0D < msgKind m) → box.sid = none → msgSid m = none →
      ∃ r : BitVec 128, exec (.ctrlUnknownKind page) s = .next (done { s with boot := { s.boot with replies := s.boot.replies.set page r } }) ∧
        (r.extractLsb' 0 32).toNat = n 4 4 ∧ r.extractLsb' 32 8 = 0x01 ∧ (r.extractLsb' 40 8).toNat = msgKind m ∧ r.getLsbD 48 = true)

/-- R40, R258, R415: KILL messages end the frames and the job they name; PREEMPT and RESTORE begin what FSAVE and FREST do (R354, R352). -/
def Obligations.ControlMessagesOnWork : Prop :=
  ∀ (s : State) (page : Nat) (m : List Byte) (box : Mailbox), s.mail.get page = some box → m.length = 128 → msgReply m = false →
    let n (i k : Nat) : Nat := leAt m i k
    let popped := { box with queue := box.queue.drop 1 }
    let done (t : State) : State := { t with mail := t.mail.set page popped }
    let asks (kind : Nat) : Prop := s.ctrlMsg page kind = some m
    let hostKilled (z : State) (k : Nat × Nat) : Prop := (∃ fr info, z.frames.get k = some fr ∧ fr.killed = some info ∧ info.cause = 0 ∧ info.ctx = 3) ∧
      ∀ kd x, s.ctxs.get (.ctx ⟨k.1, k.2, kd⟩) = some x → ∃ y, z.ctxs.get (.ctx ⟨k.1, k.2, kd⟩) = some y ∧ y.ended = true
    let still (fr : Frame) (k : Nat × Nat) : Prop := fr.killed = none ∧ fr.group = none ∧
      ∀ kd x, s.ctxs.get (.ctx ⟨k.1, k.2, kd⟩) = some x → x.held = [] ∧ x.unmarked = []
    (∀ k j, asks 0x06 → n 8 1 = 0 → s.jobs = [(k, j)] → j.mirror = none → spaceSid j.space = n 10 2 % 4096 →
      CapF.obj (Card.doneword j.card) = n 12 3 → CapF.base (Card.doneword j.card) = n 16 8 → Card.count j.card ≤ j.dealt → j.owed = [] → j.chunks = [] →
      s.frames = [] → s.saved = [] → s.clusters = [] → s.proxies = [] → ∃ z, exec (.ctrlKillJob page) s = .next z ∧
        z.jobs = [(k, { j with killed := true, sweep := none })] ∧ z.mem = s.mem ∧ z.mail = s.mail.set page popped) ∧
    (∀ fr, asks 0x06 → n 8 1 = 1 → n 24 2 < 1152 → n 26 1 < 4 → s.frames.get (n 24 2, n 26 1) = some fr → still fr (n 24 2, n 26 1) →
      ∃ z, exec (.ctrlKillFrame page) s = .next (done z) ∧ z.mem = s.mem ∧ hostKilled z (n 24 2, n 26 1)) ∧
    (∀ k fr, asks 0x06 → n 8 1 = 2 → s.frames = [(k, fr)] → s.saved = [] → spaceSid fr.task.space = n 10 2 % 4096 → still fr k →
      ∃ z, exec (.ctrlKillSid page) s = .next (done z) ∧ z.mem = s.mem ∧ hostKilled z k) ∧
    (∀ fr t, asks 0x07 → s.pageBusy page = false → n 10 2 < 1152 → n 12 1 < 4 → s.frames.get (n 10 2, n 12 1) = some fr → fr.group = none →
      s.saving (n 10 2, n 12 1) = false →
      s.areaOr (n 8 2 % 4096) (capOf ((m.drop 16).take 16) true) (n 32 8) (tdGw fr.tdesc * areaBytes (tdSdem fr.tdesc)) { w := true, l := true } = .inr t →
      exec (.ctrlPreempt page) s = .next (State.noteDrained { s with
        nextId := s.nextId + 1, preempts := s.preempts.set s.nextId {
          op := none, page := some page, save := true, frames := [(n 10 2, n 12 1)], target := n 10 2, area := t, t0 := s.clock } })) ∧
    (∀ sid obj off, asks 0x08 → s.pageBusy page = false → n 10 2 < 1152 →
      let t : Target := .dev sid obj off
      let h := areaHead (s.bytesAt t 256)
      let size := tdGw (s.areaType t h) * areaBytes (tdSdem (s.areaType t h))
      let area (k : Nat) := s.areaOr (n 8 2 % 4096) (capOf ((m.drop 16).take 16) true) (n 32 8) k { r := true, l := true }
      area 256 = .inr t → area size = .inr t → s.Readable sid obj off 256 → s.headCause t h (n 10 2) = none →
      ∃ e w kept, exec (.ctrlRestore page) s = .next { s with
        extents := e, walks := w, objCache := kept, nextId := s.nextId + 1, preempts := s.preempts.set s.nextId {
          op := none, page := some page, save := false, frames := [], target := n 10 2, area := t, t0 := s.clock } })

/-- R202, R265, R266, R267: a link trains, counts its replays, whose applied requests the home's filter answers, and fails, with 0x42 for its atomics
and what its jobs are owed taken as received, the records as failed; an entry that arrives over a link is counted by its sender's mirror job and goes
to its cluster; a mirror's return is credited to its job; the token passes, and package 0 makes a new one after a millisecond without it. That a
mirror counts records and decrements in one number (LOG 64), and that a link's failure drops its shadows (LOG 97), are the model's choice. -/
def Obligations.PodEvents : Prop :=
  ∀ (s : State),
    (∀ (i : Nat) (h : i < 16),
      let l := s.links[i]
      (l.state = 1 → s.spaces = [] → exec (.linkTrainingComplete i) s = .next { s with links := s.links.set i { l with state := 2 } }) ∧
      (∀ req, l.state = 2 →
        let counted := { s with links := s.links.set i { l with retry := if l.retry = 0xFFFFFFFF then l.retry else l.retry + 1 } }
        ((∀ r, s.atoms.get req = some r → r.link ≠ some i ∨ r.applied = true) → exec (.linkReplay i req) s = .next counted) ∧
        ∀ r e, s.atoms.get req = some r → r.link = some i → r.applied = false →
          (s.replay.find? fun e => e.home == s.homeOf r.t && e.source == r.source && e.id == r.rid) = some e → r.wants = true →
          exec (.linkReplay i req) s = .next { counted with
            atoms := s.atoms.set req { r with applied := true, reply := some e.reply, led := false, merged := [] } }) ∧
      (∀ n r c x fr, l.state = 2 → s.spaces = [] → s.jobs = [] → s.atoms = [(n, r)] → r.link = some i → r.merged = [] → r.wants = false →
        r.who = .ctx c → s.ctxs.get (.ctx c) = some x → s.frameOf c = some fr → fr.killed = none → x.ended = false → x.pend.length < 4 →
        s.Does (.linkFailure i) fun z => z.atoms = [] ∧
          z.ctxs = s.ctxs.set (.ctx c) { x with pend := x.pend ++ [⟨0x42, r.t.eaddr, BitVec.ofNat 32 i⟩] }) ∧
      (l.state = 2 → s.spaces = [] → (∀ p ∈ s.atoms, p.2.link ≠ some i) → s.Does (.linkFailure i) fun z => z.links = s.links.set i { l with state := 3 } ∧
        z.ctxs = s.ctxs ∧ z.frames = s.frames ∧ (∀ d, z.proxies.get (d, .link i) = none) ∧
        (s.errs.get (0x6000 + i) = none → z.errs.get (0x6000 + i) = some (0, 1)) ∧
        ∀ n j, s.jobs = [(n, j)] → j.mirror = none → (∀ p ∈ j.owed, p.1 = 2 * i ∨ p.1 = 2 * i + 1) →
          ∃ j', z.jobs = [(n, j')] ∧ j'.owed = [] ∧ j'.received = j.received + (j.owed.map (·.2)).sum ∧ j'.done = j.done ∧
            j'.failed = j.failed + ((j.owed.filter fun e => e.1 == 2 * i).map (·.2)).sum) ∧
      (∀ e n j k, l.state = 2 → entCluster e < 24 → s.jobs.get n = some j → j.mirror = some (entPkg e, entJob e, k) →
        (∀ p ∈ s.jobs, ∀ m, p.2.mirror = some (entPkg e, entJob e, m) → p = (n, j)) →
        let counted := s.jobs.set n { j with dealt := j.dealt + 1, sent := j.sent + 1, sweep := none }
        (entKind e = 1 → ∃ d, exec (.mirrorEntryArrival i e) s = .next { s with jobs := counted, decs := s.decs ++ [d] } ∧
          d.cid = entCid e ∧ d.job = some n) ∧
        (entKind e = 0 → entDef e = false → ∃ t, exec (.mirrorEntryArrival i e) s = .next
            { s.setCluster (entCluster e) { s.clusterAt (entCluster e) with arriving := (s.clusterAt (entCluster e)).arriving ++ [(none, t)] } with jobs := counted } ∧
          t.bytes = entRec e ∧ t.level = entLevel e ∧ t.parent = entCid e ∧ t.job = n ∧ t.kind = .spawned)) ∧
      (∀ e j recs decs, entKind e = 3 → s.jobs.get (entJob e) = some j → j.owed.get (2 * i) = some recs → j.owed.get (2 * i + 1) = some decs →
        0 < recs →
        let a := ((entRec e).extractLsb' 0 32).toNat
        a = recs + decs → exec (.mirrorReturn i e) s = .next { s with jobs := s.jobs.set (entJob e) { j with
          received := j.received + a, done := j.done + ((entRec e).extractLsb' 32 32).toNat, failed := j.failed + ((entRec e).extractLsb' 64 32).toNat,
          owed := (j.owed.set (2 * i) 0).set (2 * i + 1) 0 } })) ∧
    (∀ tok, s.boot.locked = true → 2 ≤ s.boot.podSize.toNat → 2 ≤ tokNpkg tok → tokNpkg tok ≤ 64 → s.boot.ownPkg.toNat < tokNpkg tok →
      16 + 8 * tokNpkg tok ≤ tok.length → (tokEpochOf tok < s.boot.tokEpoch → exec (.tokenPass tok) s = .next s) ∧
      (s.boot.tokEpoch ≤ tokEpochOf tok → s.clusters = [] → ∃ sent, exec (.tokenPass tok) s = .next { s with boot := { s.boot with
          tokEpoch := tokEpochOf tok, tokPasses := s.boot.tokPasses + 1, token := sent, tokTime := s.clock } } ∧
        tokNpkg sent = tokNpkg tok ∧ tokEpochOf sent = tokEpochOf tok ∧ tokQueued sent s.boot.ownPkg.toNat = 0)) ∧
    (s.boot.locked = true → s.boot.ownPkg = 0 → 2 ≤ s.boot.podSize.toNat → s.boot.podSize.toNat ≤ 64 →
      (s.clock < s.boot.tokTime + 1000 * s.boot.mhz → exec .tokenTimeout s = .next s) ∧
      (s.boot.tokTime + 1000 * s.boot.mhz ≤ s.clock → s.clusters = [] → ∃ sent, exec .tokenTimeout s = .next { s with boot := { s.boot with
          tokEpoch := s.boot.tokEpoch + 1, tokPasses := s.boot.tokPasses + 1, token := sent, tokTime := s.clock } } ∧
        tokNpkg sent = s.boot.podSize.toNat ∧ tokEpochOf sent = s.boot.tokEpoch + 1))

/-! ## The whole machine: registers, addresses, encodings, the step and reset (R75 to R77, R166 to R173, R260, R261) -/

/-- R75, R77: g0 reads zero, k0 reads all ones and writes to them are discarded; any other g, o or k register reads what was last written to it and
keeps its value through a write to another; a local address names the core, the unit bit and the offset that R77 resolves. -/
def Obligations.ConstantRegistersAndLocalAddresses : Prop :=
  (∀ (x : Ctx) (w : Word), x.readG 0 = 0 ∧ x.readK 0 = BitVec.allOnes 64 ∧ x.writeW (.g 0) w = x ∧ x.writeW (.k 0) w = x ∧
    (∀ n m, (x.writeW (.g n) w).readG m = if m = n ∧ n ≠ 0 then w else x.readG m) ∧
    (∀ n m, (x.writeW (.o n) w).readO m = if m = n then w else x.readO m) ∧
    (∀ n m, (x.writeW (.k n) w).readK m = if m = n ∧ n ≠ 0 then w else x.readK m)) ∧
  ∀ (own : Nat) (a : BitVec 32), own < 1152 →
    let rel := a.getLsbD 31
    let tx : Int := if rel then (coreX own : Int) + (a.extractLsb' 25 6).toInt else ((a.extractLsb' 25 6).toNat : Int)
    let ty : Int := if rel then (coreY own : Int) + (a.extractLsb' 20 5).toInt else ((a.extractLsb' 20 5).toNat : Int)
    if tx < 0 ∨ 47 < tx ∨ ty < 0 ∨ 23 < ty then localTarget own a = none
    else ∃ core, localTarget own a = some (core, a.getLsbD 19, (a.extractLsb' 0 19).toNat) ∧ (coreX core : Int) = tx ∧ (coreY core : Int) = ty

/-- R89, R90: the pseudo-channel that holds an offset of an interleaved and of a bank-linear object (one whose slab no XMIG has moved, R413), and the
slice that serves it; each aligned run of 1,280 granules places exactly one on each pseudo-channel. -/
def Obligations.PlacementOnChannels : Prop :=
  (∀ (s : State) (sid obj off : Nat) (e : ObjEnt), s.objEntry sid obj = some e → off < e.size →
    let n := off / 256
    (e.cls = 0 → ∃ p, s.place sid obj off = some p ∧ p.chan = (n % 1280 + Nat.xor (obj * 2531) (n / 1280 * 753) % 1280) % 1280 ∧ p.slice = p.chan / 8) ∧
    (e.cls = 1 → s.slabHome.get (sid, obj, off / 65536) = none →
      ∃ p, s.place sid obj off = some p ∧ p.chan = 8 * e.slice + off / 4096 % 8 ∧ p.slice = e.slice)) ∧
  ∀ obj m ch, ch < 1280 → ∃ n, (m * 1280 ≤ n ∧ n < (m + 1) * 1280 ∧ channelOf obj (256 * n) = ch) ∧
    ∀ k, m * 1280 ≤ k → k < (m + 1) * 1280 → channelOf obj (256 * k) = ch → k = n

/-- R171, R173, R174: the twelve bytes of a well-formed instruction's word decode to that instruction, with every field; a word that decodes to a
well-formed instruction is that instruction's word. -/
def Obligations.EveryEncodingDecodesBack : Prop :=
  (∀ i : Instr, i.WellFormed = true → decodeBytes (bytesOf 12 (encode i).toNat) = .ok i) ∧
  ∀ (w : BitVec 96) (i : Instr), decode w = .ok i → i.WellFormed = true → encode i = w

/-- Words written out from the spec's encodings decode to the instructions they stand for (a sanity statement). -/
def Obligations.SpecWordsDecode : Prop :=
  let z : Fld := { pk := 0, ps := false, dst := .g 0, sa := .g 0, sb := .g 0, sc := .g 0, talloc := 0, tw0 := 0, tw1 := 0, mod := 0, imm := 0 }
  decode 0x000004027F80000300000004 = .ok (.add { z with dst := .g 2, sa := .g 2, sb := .imm, mod := 3, imm := 4 }) ∧
  decode 0x100207018100000000000002 = .ok (.klog { z with dst := .k 3, sa := .k 1, sb := .k 2, imm := 2 }) ∧
  decode 0x200800000000000000000241 = .ok (.br { z with pk := 1, imm := 0x241 }) ∧
  decode 0x30C082410090804800000000 =
    .ok (.vfma { z with dst := .v 1, sa := .v 1, sb := .g 1, sc := .v 2, tw0 := 1, tw1 := 2 }) ∧
  decode 0x40000A020000040200000000 = .ok (.ld { z with dst := .g 5, sa := .g 2, talloc := 1, mod := 2 }) ∧
  decode 0x50800C020001C80300200010 =
    .ok (.acas { z with dst := .g 6, sa := .g 2, sc := .g 7, talloc := 2, mod := 3, imm := 0x00200010 }) ∧
  decode 0x610000072101000000000040 = .ok (.bfma { z with sa := .g 7, sb := .v 2, sc := .g 4, imm := 0x40 }) ∧
  decode 0x71000C000000000000000001 = .ok (.cbacq { z with dst := .g 6, imm := 1 }) ∧
  decode 0x8282_8741_A100_0000_0000_0000 = .ok (.fjoin { z with dst := .h 3, sa := .h 1, sb := .h 2 }) ∧
  decode 0x9040_0002_2300_C000_0000_0080 = .ok (.mlda { z with sa := .g 2, sb := .v 6, sc := .g 3, imm := 0x80 }) ∧
  decode 0xA140_0008_0491_0000_0000_0064 = .ok (.kacc { z with sa := .g 8, sb := .g 9, sc := .v 4, imm := 0x64 }) ∧
  decode 0xB000_0000_0000_0000_0000_1005 = .ok (.bar { z with imm := 0x1005 }) ∧
  decode 0xC080_0FC1_0402_4000_0000_200C = .ok (.cont { z with dst := .g 7, sa := .b 1, sb := .g 8, sc := .g 9, imm := 0x200C }) ∧
  decode 0xD240_0A00_0000_0000_0000_0010 = .ok (.feat { z with dst := .g 5, imm := 0x10 })

/-- R64, R166, R168, R170, R179: where the agenda gives a sequencer its turn and its first context in cyclic order is ready, with no cause to deliver,
the step runs the instruction that the slot at its pc decodes to, or the pair that the line marks, the lower first, unless the pair
raises a fault of its own; the sequencer notes the frame, and time passes. A turn of an event runs that event. (The agenda, and one turn a step, are the model's: log entries 2 and 3.) -/
def Obligations.StepRunsTheDecodedInstruction : Prop :=
  ∀ (s : State) (rest : List Turn),
    let noted (t : State) (core : Nat) (kind : CtxKind) (frm : BitVec 2) : State :=
      (t.setCore core { t.coreOf core with lastIssue := (t.coreOf core).lastIssue.set! (ctxNo kind) frm }).tick
    (∀ core kind (frm : BitVec 2) x i, s.agenda = .issue core kind :: rest →
      let c : CtxId := ⟨core, frm.toNat, kind⟩
      let ln := s.line (.ctx c) (pcLine x.pc)
      let x0 := { x with fresh := false }
      let s0 := { s with agenda := rest, cur := .ctx c, via := some core, trans := {}, pairView := none, ctxs := s.ctxs.set (.ctx c) x0 }
      (s.coreOf core).lastIssue.toList[ctxNo kind]? = some (frm - 1) → s.ctxs.get (.ctx c) = some x → s.ready c = true → x.pend = [] →
      x.owed = none → x.wait = .none → pcSlot x.pc < 5 → pcLine x.pc < storeLines (.ctx c) → lineFault ln (kind != .computer) = none →
      (x.fresh = true → tgtBit ln (pcSlot x.pc) = true) → decode (slotWord ln (pcSlot x.pc)) = .ok i →
      (∀ t, pairBit ln (pcSlot x.pc) = false → exec i s0 = .next t → t.last ≠ .waited → step s = .next (noted t core kind frm)) ∧
      (pairBit ln (pcSlot x.pc) = true →
        let w1 := slotWord ln (pcSlot x.pc)
        let w2 := slotWord ln (pcSlot x.pc + 1)
        wordWaits x0 w1 = false → wordWaits x0 w2 = false →
        s0.higherWaits x0 w2 = none →
        (∀ t1 e v, exec i s0 = .next t1 → t1.last ≠ .waited → s0.pairFault x0 w1 w2 = some (e, v) →
          let t := (s0.setCtx (.ctx c) x0.consumePrefix).raise e 0 v
          t.last ≠ .waited → step s = .next (noted t core kind frm)) ∧
        (∀ j t1 t2, s0.pairFault x0 w1 w2 = none → decode w2 = .ok j →
          exec i s0 = .next t1 → t1.last = .retired → exec j { t1 with pairView := some x0 } = .next t2 →
          t2.last ≠ .waited → step s = .next (noted { t2 with pairView := none } core kind frm)))) ∧
    (∀ i, s.agenda = .event i :: rest → Instr.isEvent i = true →
      (∀ t, exec i { s with agenda := rest, via := none, trans := {} } = .next t → step s = .next t.tick) ∧
      (∀ r, exec i { s with agenda := rest, via := none, trans := {} } = .fault r → step s = .fault r))

/-- R260: BOOTSTAT's reset values; and what State.reset holds: no context, frame, space or job, every byte of memory zero and every tag clear, in the
canonical form. (That memory reads zero before the first start is the model's choice: log entry 6.) -/
def Obligations.ResetValues : Prop :=
  let s := State.reset
  s.boot.badw = 0 ∧ s.boot.starts = 0 ∧ s.boot.code = 0x01 ∧ s.boot.stepNo = 0 ∧ s.boot.unit = 0 ∧ s.boot.path = 0 ∧ s.boot.locked = false ∧
  s.ctxs = [] ∧ s.frames = [] ∧ s.spaces = [] ∧ s.jobs = [] ∧ s.tags = [] ∧ s.CanonicalMemory ∧
  ∀ a, memGet s.mem a = 0 ∧ memGet s.scr a = 0 ∧ memGet s.hostMem a = 0

/-- Every step keeps memory, scratch and host memory in canonical form: addresses rising, and no zero listed (LOG 6). -/
def Obligations.StepKeepsMemoryCanonical : Prop :=
  ∀ (s t : State), s.CanonicalMemory → step s = .next t → t.CanonicalMemory

end
end

