-- ==== Sys2Proof/Laws/Decode.lean ====
section
/-! SUPPORT. The decoder and the encoder, field by field: what the fields of an encoded word read, and that a word read into an instruction is that
instruction's word. -/

namespace Sys2Proof

/-! ## Slices of concatenated fields -/

theorem extract_skip {a b s n : Nat} (x : BitVec a) (y : BitVec b) (h : b ≤ s) :
    (x ++ y).extractLsb' s n = x.extractLsb' (s - b) n := by
  apply BitVec.eq_of_getLsbD_eq
  intro i hi
  have h1 : ¬ s + i < b := by omega
  simp [BitVec.getLsbD_append, hi, h1, show s + i - b = s - b + i by omega]

theorem extract_low {a b n : Nat} (x : BitVec a) (y : BitVec b) (h : n = b) :
    (x ++ y).extractLsb' 0 n = y.cast h.symm := by
  subst h
  apply BitVec.eq_of_getLsbD_eq
  intro i hi
  simp [BitVec.getLsbD_append, hi]

theorem extract_join {n a b : Nat} (w : BitVec n) (s t : Nat) (h : s = t + b) :
    w.extractLsb' s a ++ w.extractLsb' t b = w.extractLsb' t (a + b) := by
  subst h
  apply BitVec.eq_of_getLsbD_eq
  intro i hi
  rw [BitVec.getLsbD_append]
  split
  · rename_i h; simp [h, hi]
  · rename_i h
    have h2 : i - b < a := by omega
    simp [h2, hi, show t + b + (i - b) = t + i by omega]

theorem extract_bit {n : Nat} (w : BitVec n) (t : Nat) : BitVec.ofBool (w.getLsbD t) = w.extractLsb' t 1 := by
  apply BitVec.eq_of_getLsbD_eq
  intro i hi
  have : i = 0 := by omega
  subst this
  simp

theorem extract_all {n : Nat} (x : BitVec n) : x.extractLsb' 0 n = x := by simp

/-- Every field of an encoded word reads what was encoded (R171). -/
theorem fields_word (opc : BitVec 10) (f : Fld) :
    opcodeOf (f.word opc) = opc ∧ (f.word opc).extractLsb' 73 9 = f.dst.spec ∧ (f.word opc).extractLsb' 64 9 = f.sa.spec ∧
    (f.word opc).extractLsb' 55 9 = f.sb.spec ∧ (f.word opc).extractLsb' 46 9 = f.sc.spec ∧ (f.word opc).extractLsb' 83 3 = f.pk ∧
    (f.word opc).extractLsb' 82 1 = BitVec.ofBool f.ps ∧ (f.word opc).extractLsb' 42 4 = f.talloc ∧ (f.word opc).extractLsb' 38 4 = f.tw0 ∧
    (f.word opc).extractLsb' 34 4 = f.tw1 ∧ modOf (f.word opc) = f.mod ∧ immOf (f.word opc) = f.imm := by
  refine ⟨?_, ?_, ?_, ?_, ?_, ?_, ?_, ?_, ?_, ?_, ?_, ?_⟩ <;>
    (try unfold opcodeOf) <;> (try unfold modOf) <;> (try unfold immOf) <;> unfold Fld.word <;>
    (repeat (refine (extract_skip _ _ (by decide)).trans ?_)) <;>
    first | exact extract_low _ _ rfl | exact extract_all _

theorem opcodeOf_word (opc : BitVec 10) (f : Fld) : opcodeOf (f.word opc) = opc := (fields_word opc f).1

/-! ## Specifiers and fields -/

/-- A specifier reads back its operand (R173, R174). -/
theorem ofSpec_spec (o : Operand) : Operand.ofSpec o.spec = some o := by
  cases o with
  | imm => decide
  | g n => revert n; decide
  | v n => revert n; decide
  | o n => revert n; decide
  | pd n => revert n; decide
  | k n => revert n; decide
  | h n => revert n; decide
  | s n => revert n; decide
  | b n => revert n; decide

/-- A specifier that reads as an operand is that operand's. -/
theorem spec_ofSpec {w : BitVec 9} {o : Operand} (h : Operand.ofSpec w = some o) : o.spec = w := by
  have : ∀ w : BitVec 9, ∀ o ∈ Operand.ofSpec w, o.spec = w := by decide
  exact this w o h

theorem getLsbD_of_extract {n : Nat} (w : BitVec n) (i : Nat) (b : Bool) (h : w.extractLsb' i 1 = BitVec.ofBool b) : w.getLsbD i = b := by
  have := congrArg (fun v => v.getLsbD 0) h
  simpa using this

/-- The fields of an encoded word are the fields encoded. -/
theorem ofWord_word (opc : BitVec 10) (f : Fld) : Fld.ofWord (f.word opc) = some f := by
  obtain ⟨-, h1, h2, h3, h4, h5, h6, h7, h8, h9, h10, h11⟩ := fields_word opc f
  have hps := getLsbD_of_extract _ _ _ h6
  simp only [Fld.ofWord, h1, h2, h3, h4, h5, hps, h7, h8, h9, h10, h11, ofSpec_spec]

/-- A word is its opcode and its fields (R171). -/
theorem word_ofWord {w : BitVec 96} {f : Fld} (h : Fld.ofWord w = some f) : f.word (opcodeOf w) = w := by
  unfold Fld.ofWord at h
  split at h
  · rename_i d a b c hd ha hb hc
    cases h
    simp only [Fld.word, spec_ofSpec hd, spec_ofSpec ha, spec_ofSpec hb, spec_ofSpec hc, opcodeOf, modOf, immOf]
    rw [extract_bit, extract_join w 86 83 rfl, extract_join w 83 82 rfl, extract_join w 82 73 rfl, extract_join w 73 64 rfl,
      extract_join w 64 55 rfl, extract_join w 55 46 rfl, extract_join w 46 42 rfl, extract_join w 42 38 rfl, extract_join w 38 34 rfl,
      extract_join w 34 32 rfl]
    exact (extract_join w 32 0 rfl).trans (extract_all w)
  · cases h

/-! ## Shapes -/

theorem Shape.ok_of_check {p : Shape} {f : Fld} (h : p.check f = none) : p.ok f = true := by
  unfold Shape.check at h
  split at h
  · rename_i hr
    unfold Shape.reservedOk at hr
    simp only [Bool.and_eq_true] at hr
    exact hr.2
  · cases h

/-! ## The opcode map -/

/-- An instruction that holds the fields `f` under the opcode of index `n`. -/
def Instr.HoldsAt (i : Instr) (f : Fld) (n : Nat) : Prop := ∃ p, i.shape = some (p, f) ∧ p.opc.toNat = n

theorem scalarGroup_holds {ix : Nat} {f : Fld} {i : Instr} (h : Instr.scalarGroup ix f = some i) : i.HoldsAt f (64 * 0 + ix) := by
  unfold Instr.scalarGroup at h
  split at h <;> first | (cases h; exact ⟨_, rfl, rfl⟩) | cases h

theorem capabilityGroup_holds {ix : Nat} {f : Fld} {i : Instr} (h : Instr.capabilityGroup ix f = some i) : i.HoldsAt f (64 * 1 + ix) := by
  unfold Instr.capabilityGroup at h
  split at h <;> first | (cases h; exact ⟨_, rfl, rfl⟩) | cases h

theorem controlGroup_holds {ix : Nat} {f : Fld} {i : Instr} (h : Instr.controlGroup ix f = some i) : i.HoldsAt f (64 * 2 + ix) := by
  unfold Instr.controlGroup at h
  split at h <;> first | (cases h; exact ⟨_, rfl, rfl⟩) | (cases h; done) | skip
  all_goals (simp only [Option.some.injEq] at h; split at h <;> (subst h; exact ⟨_, rfl, rfl⟩))

theorem vectorGroup_holds {ix : Nat} {f : Fld} {i : Instr} (h : Instr.vectorGroup ix f = some i) : i.HoldsAt f (64 * 3 + ix) := by
  unfold Instr.vectorGroup at h
  split at h <;> first | (cases h; exact ⟨_, rfl, rfl⟩) | cases h

theorem accessGroup_holds {ix : Nat} {f : Fld} {i : Instr} (h : Instr.accessGroup ix f = some i) : i.HoldsAt f (64 * 4 + ix) := by
  unfold Instr.accessGroup at h
  split at h <;> first | (cases h; exact ⟨_, rfl, rfl⟩) | cases h

theorem atomicGroup_holds {ix : Nat} {f : Fld} {i : Instr} (h : Instr.atomicGroup ix f = some i) : i.HoldsAt f (64 * 5 + ix) := by
  unfold Instr.atomicGroup at h
  split at h <;> first | (cases h; exact ⟨_, rfl, rfl⟩) | cases h

theorem bankGroup_holds {ix : Nat} {f : Fld} {i : Instr} (h : Instr.bankGroup ix f = some i) : i.HoldsAt f (64 * 6 + ix) := by
  unfold Instr.bankGroup at h
  split at h <;> first | (cases h; exact ⟨_, rfl, rfl⟩) | cases h

theorem streamGroup_holds {ix : Nat} {f : Fld} {i : Instr} (h : Instr.streamGroup ix f = some i) : i.HoldsAt f (64 * 7 + ix) := by
  unfold Instr.streamGroup at h
  split at h <;> first | (cases h; exact ⟨_, rfl, rfl⟩) | (cases h; done) | skip
  all_goals (simp only [Option.some.injEq] at h; split at h <;> (subst h; exact ⟨_, rfl, rfl⟩))

theorem engineGroup_holds {ix : Nat} {f : Fld} {i : Instr} (h : Instr.engineGroup ix f = some i) : i.HoldsAt f (64 * 8 + ix) := by
  unfold Instr.engineGroup at h
  split at h <;> first | (cases h; exact ⟨_, rfl, rfl⟩) | (cases h; done) | skip
  all_goals (simp only [Option.some.injEq] at h; split at h <;> (subst h; exact ⟨_, rfl, rfl⟩))

theorem matrixGroup_holds {ix : Nat} {f : Fld} {i : Instr} (h : Instr.matrixGroup ix f = some i) : i.HoldsAt f (64 * 9 + ix) := by
  unfold Instr.matrixGroup at h
  split at h <;> first | (cases h; exact ⟨_, rfl, rfl⟩) | cases h

theorem joinGroup_holds {ix : Nat} {f : Fld} {i : Instr} (h : Instr.joinGroup ix f = some i) : i.HoldsAt f (64 * 10 + ix) := by
  unfold Instr.joinGroup at h
  split at h <;> first | (cases h; exact ⟨_, rfl, rfl⟩) | cases h

theorem barrierGroup_holds {ix : Nat} {f : Fld} {i : Instr} (h : Instr.barrierGroup ix f = some i) : i.HoldsAt f (64 * 11 + ix) := by
  unfold Instr.barrierGroup at h
  split at h <;> first | (cases h; exact ⟨_, rfl, rfl⟩) | (cases h; done) | skip
  all_goals (simp only [Option.some.injEq] at h; split at h <;> (subst h; exact ⟨_, rfl, rfl⟩))

theorem taskGroup_holds {ix : Nat} {f : Fld} {i : Instr} (h : Instr.taskGroup ix f = some i) : i.HoldsAt f (64 * 12 + ix) := by
  unfold Instr.taskGroup at h
  split at h <;> first | (cases h; exact ⟨_, rfl, rfl⟩) | cases h

theorem systemGroup_holds {ix : Nat} {f : Fld} {i : Instr} (h : Instr.systemGroup ix f = some i) : i.HoldsAt f (64 * 13 + ix) := by
  unfold Instr.systemGroup at h
  split at h <;> first | (cases h; exact ⟨_, rfl, rfl⟩) | cases h

/-- The opcode map gives each opcode an instruction of that opcode, with the fields as read (R185). -/
theorem ofOpcode_holds {opc : BitVec 10} {f : Fld} {i : Instr} (h : Instr.ofOpcode opc f = some i) : ∃ p, i.shape = some (p, f) ∧ p.opc = opc := by
  have key : ∀ n, i.HoldsAt f (64 * (opc.toNat / 64) + n) → n = opc.toNat % 64 → ∃ p, i.shape = some (p, f) ∧ p.opc = opc := by
    rintro n ⟨p, hs, hp⟩ rfl
    exact ⟨p, hs, BitVec.eq_of_toNat_eq (by omega)⟩
  unfold Instr.ofOpcode at h
  split at h <;> first | (rename_i hg; refine key _ ?_ rfl; rw [hg]) | cases h
  · exact scalarGroup_holds h
  · exact capabilityGroup_holds h
  · exact controlGroup_holds h
  · exact vectorGroup_holds h
  · exact accessGroup_holds h
  · exact atomicGroup_holds h
  · exact bankGroup_holds h
  · exact streamGroup_holds h
  · exact engineGroup_holds h
  · exact matrixGroup_holds h
  · exact joinGroup_holds h
  · exact barrierGroup_holds h
  · exact taskGroup_holds h
  · exact systemGroup_holds h

end Sys2Proof
end

