-- ==== Sys2Proof/Laws/Memory.lean ====
section
/-! SUPPORT. The laws of the byte stores and of the tables by key: read after write, and the canonical form that every write keeps. -/

namespace Sys2Proof.Machine

/-! ## Tables -/

variable {κ α : Type} [DecidableEq κ]

@[simp] theorem Assoc.get_set_self (m : Assoc κ α) (q : κ) (x : α) : Assoc.get (Assoc.set m q x) q = some x := by
  induction m with
  | nil => simp [Assoc.set, Assoc.get]
  | cons p rest ih =>
    obtain ⟨k, v⟩ := p
    by_cases h : k = q <;> simp [Assoc.set, Assoc.get, h, ih]

theorem Assoc.get_set_other (m : Assoc κ α) {q r : κ} (x : α) (h : r ≠ q) :
    Assoc.get (Assoc.set m q x) r = Assoc.get m r := by
  induction m with
  | nil => simp [Assoc.set, Assoc.get, Ne.symm h]
  | cons p rest ih =>
    obtain ⟨k, v⟩ := p
    by_cases hk : k = q
    · subst hk; simp [Assoc.set, Assoc.get, Ne.symm h]
    · by_cases hr : k = r
      · subst hr; simp [Assoc.set, Assoc.get, hk]
      · simp [Assoc.set, Assoc.get, hk, hr, ih]

@[simp] theorem Assoc.set_set (m : Assoc κ α) (q : κ) (x y : α) :
    Assoc.set (Assoc.set m q x) q y = Assoc.set m q y := by
  induction m with
  | nil => simp [Assoc.set]
  | cons p rest ih =>
    obtain ⟨k, v⟩ := p
    by_cases h : k = q <;> simp [Assoc.set, h, ih]

/-- Writing back what a key holds changes nothing. -/
theorem Assoc.set_get_self (m : Assoc κ α) {q : κ} {x : α} (h : Assoc.get m q = some x) : Assoc.set m q x = m := by
  induction m with
  | nil => simp [Assoc.get] at h
  | cons p rest ih =>
    obtain ⟨k, v⟩ := p
    by_cases hk : k = q
    · simp [Assoc.get, hk] at h; simp [Assoc.set, hk, h]
    · simp [Assoc.get, hk] at h; simp [Assoc.set, hk, ih h]

/-! ## Bytes -/

theorem memGet_below {m : List Host.Cell} {lo a : Nat} (h : Memory.above lo m = true) (ha : a < lo) : memGet m a = 0 := by
  induction m generalizing lo with
  | nil => rfl
  | cons p rest ih =>
    obtain ⟨k, v⟩ := p
    simp only [Memory.above, Bool.and_eq_true, decide_eq_true_eq] at h
    have hk : k ≠ a := by omega
    simp only [memGet, hk, if_false]
    exact ih h.2 (by omega)

theorem Memory.above_mono {m : List Host.Cell} {lo hi : Nat} (h : Memory.above hi m = true) (hl : lo ≤ hi) :
    Memory.above lo m = true := by
  cases m with
  | nil => rfl
  | cons p rest =>
    obtain ⟨k, v⟩ := p
    simp only [Memory.above, Bool.and_eq_true, decide_eq_true_eq] at h ⊢
    exact ⟨⟨by omega, h.1.2⟩, h.2⟩

/-- A byte write keeps the canonical form. -/
theorem Memory.above_memSet {m : List Host.Cell} {lo : Nat} (h : Memory.above lo m = true) {a : Nat} (ha : lo ≤ a) (x : Byte) :
    Memory.above lo (memSet m a x) = true := by
  induction m generalizing lo with
  | nil => by_cases hx : x = 0#8 <;> simp [memSet, Memory.above, hx, ha]
  | cons p rest ih =>
    obtain ⟨k, v⟩ := p
    have h' := h
    simp only [Memory.above, Bool.and_eq_true, decide_eq_true_eq] at h
    obtain ⟨⟨h1, h2⟩, h3⟩ := h
    simp only [memSet]
    split
    · split
      · exact h'
      · rename_i hlt hx
        simp only [Memory.above, Bool.and_eq_true, decide_eq_true_eq, bne_iff_ne]
        exact ⟨⟨ha, hx⟩, ⟨by omega, by simpa using h2⟩, h3⟩
    · split
      · rename_i hne heq
        split
        · exact Memory.above_mono h3 (by omega)
        · rename_i hx
          simp only [Memory.above, Bool.and_eq_true, decide_eq_true_eq, bne_iff_ne]
          exact ⟨⟨ha, hx⟩, by rw [heq]; exact h3⟩
      · rename_i hnlt hne
        simp only [Memory.above, Bool.and_eq_true, decide_eq_true_eq]
        exact ⟨⟨h1, h2⟩, ih h3 (by omega)⟩

@[simp] theorem Memory.wf_memSet {m : List Host.Cell} (h : Memory.wf m = true) (a : Nat) (x : Byte) :
    Memory.wf (memSet m a x) = true := Memory.above_memSet h (Nat.zero_le a) x

/-- A write of bytes keeps the canonical form. -/
@[simp] theorem Memory.wf_memWrite {m : List Host.Cell} (h : Memory.wf m = true) (a : Nat) (bs : List Byte) :
    Memory.wf (memWrite m a bs) = true := by
  induction bs generalizing m a with
  | nil => exact h
  | cons b bs ih => exact ih (Memory.wf_memSet h a b) (a + 1)

/-- A byte reads back, and every other byte is as it was. -/
theorem memGet_memSet {m : List Host.Cell} {lo : Nat} (h : Memory.above lo m = true) (a r : Nat) (x : Byte) :
    memGet (memSet m a x) r = if r = a then x else memGet m r := by
  induction m generalizing lo with
  | nil =>
    by_cases hx : x = 0#8 <;> by_cases hr : r = a
    · simp [memSet, memGet, hx]
    · simp [memSet, memGet, hx]
    · simp [memSet, memGet, hx, hr]
    · simp [memSet, memGet, hx, hr, Ne.symm hr]
  | cons p rest ih =>
    obtain ⟨k, v⟩ := p
    simp only [Memory.above, Bool.and_eq_true, decide_eq_true_eq] at h
    obtain ⟨⟨h1, h2⟩, h3⟩ := h
    simp only [memSet]
    split
    · rename_i hlt
      have hbelow : memGet rest a = 0 := memGet_below h3 (by omega)
      by_cases hx : x = 0#8
      · by_cases hr : r = a
        · subst hr
          have : k ≠ r := by omega
          simp [hx, memGet, this, hbelow]
        · simp [hx, hr]
      · by_cases hr : r = a
        · simp [hx, memGet, hr]
        · simp [hx, memGet, hr, Ne.symm hr]
    · split
      · rename_i hne heq
        subst heq
        by_cases hx : x = 0#8
        · by_cases hr : r = a
          · subst hr; simp [hx, memGet_below h3 (Nat.lt_succ_self _)]
          · simp [hx, hr, memGet, Ne.symm hr]
        · by_cases hr : r = a
          · simp [hx, hr, memGet]
          · simp [hx, hr, memGet, Ne.symm hr]
      · rename_i hnlt hne
        by_cases hk : k = r
        · have : r ≠ a := by omega
          simp [memGet, hk, this]
        · simp only [memGet, hk, if_false]
          exact ih h3

/-- A byte outside the bytes written is as it was. -/
theorem memGet_memWrite_outside {m : List Host.Cell} (h : Memory.wf m = true) (a r : Nat) (bs : List Byte)
    (hr : r < a ∨ a + bs.length ≤ r) : memGet (memWrite m a bs) r = memGet m r := by
  induction bs generalizing m a with
  | nil => rfl
  | cons b bs ih =>
    have hlen : (b :: bs).length = bs.length + 1 := rfl
    rw [hlen] at hr
    have h' : Memory.wf (memSet m a b) = true := Memory.wf_memSet h a b
    show memGet (memWrite (memSet m a b) (a + 1) bs) r = _
    rw [ih h' (a + 1) (by omega), memGet_memSet h a r b, if_neg (by omega)]

/-- A byte among the bytes written reads back. -/
theorem memGet_memWrite_inside {m : List Host.Cell} (h : Memory.wf m = true) (a i : Nat) (bs : List Byte) (hi : i < bs.length) :
    memGet (memWrite m a bs) (a + i) = bs[i] := by
  induction bs generalizing m a i with
  | nil => simp at hi
  | cons b bs ih =>
    have h' : Memory.wf (memSet m a b) = true := Memory.wf_memSet h a b
    show memGet (memWrite (memSet m a b) (a + 1) bs) (a + i) = _
    cases i with
    | zero => rw [memGet_memWrite_outside h' (a + 1) (a + 0) bs (by omega), memGet_memSet h a (a + 0) b]; simp
    | succ i =>
      have e : a + (i + 1) = a + 1 + i := by omega
      rw [e, ih h' (a + 1) i (by simpa using hi)]
      simp

end Sys2Proof.Machine
end

