-- ==== Sys2Proof/Laws/State.lean ====
section
/-! SUPPORT. One lemma per field of State for each of its updates, and per part of a context for each register write: no later proof
unfolds a record update. -/

namespace Sys2Proof.Machine

/-! ## setCtx -/

@[simp] theorem State.setCtx_clock (s : State) (a : Agent) (x : Ctx) : (s.setCtx a x).clock = s.clock := rfl
@[simp] theorem State.setCtx_boot (s : State) (a : Agent) (x : Ctx) : (s.setCtx a x).boot = s.boot := rfl
@[simp] theorem State.setCtx_links (s : State) (a : Agent) (x : Ctx) : (s.setCtx a x).links = s.links := rfl
@[simp] theorem State.setCtx_mail (s : State) (a : Agent) (x : Ctx) : (s.setCtx a x).mail = s.mail := rfl
@[simp] theorem State.setCtx_hostMem (s : State) (a : Agent) (x : Ctx) : (s.setCtx a x).hostMem = s.hostMem := rfl
@[simp] theorem State.setCtx_interrupts (s : State) (a : Agent) (x : Ctx) : (s.setCtx a x).interrupts = s.interrupts := rfl
@[simp] theorem State.setCtx_spaces (s : State) (a : Agent) (x : Ctx) : (s.setCtx a x).spaces = s.spaces := rfl
@[simp] theorem State.setCtx_mem (s : State) (a : Agent) (x : Ctx) : (s.setCtx a x).mem = s.mem := rfl
@[simp] theorem State.setCtx_tags (s : State) (a : Agent) (x : Ctx) : (s.setCtx a x).tags = s.tags := rfl
@[simp] theorem State.setCtx_scr (s : State) (a : Agent) (x : Ctx) : (s.setCtx a x).scr = s.scr := rfl
@[simp] theorem State.setCtx_bad (s : State) (a : Agent) (x : Ctx) : (s.setCtx a x).bad = s.bad := rfl
@[simp] theorem State.setCtx_badScr (s : State) (a : Agent) (x : Ctx) : (s.setCtx a x).badScr = s.badScr := rfl
@[simp] theorem State.setCtx_badLine (s : State) (a : Agent) (x : Ctx) : (s.setCtx a x).badLine = s.badLine := rfl
@[simp] theorem State.setCtx_stale (s : State) (a : Agent) (x : Ctx) : (s.setCtx a x).stale = s.stale := rfl
@[simp] theorem State.setCtx_pool (s : State) (a : Agent) (x : Ctx) : (s.setCtx a x).pool = s.pool := rfl
@[simp] theorem State.setCtx_lent (s : State) (a : Agent) (x : Ctx) : (s.setCtx a x).lent = s.lent := rfl
@[simp] theorem State.setCtx_errs (s : State) (a : Agent) (x : Ctx) : (s.setCtx a x).errs = s.errs := rfl
@[simp] theorem State.setCtx_extents (s : State) (a : Agent) (x : Ctx) : (s.setCtx a x).extents = s.extents := rfl
@[simp] theorem State.setCtx_lastUse (s : State) (a : Agent) (x : Ctx) : (s.setCtx a x).lastUse = s.lastUse := rfl
@[simp] theorem State.setCtx_slabHome (s : State) (a : Agent) (x : Ctx) : (s.setCtx a x).slabHome = s.slabHome := rfl
@[simp] theorem State.setCtx_walks (s : State) (a : Agent) (x : Ctx) : (s.setCtx a x).walks = s.walks := rfl
@[simp] theorem State.setCtx_objCache (s : State) (a : Agent) (x : Ctx) : (s.setCtx a x).objCache = s.objCache := rfl
@[simp] theorem State.setCtx_migrations (s : State) (a : Agent) (x : Ctx) : (s.setCtx a x).migrations = s.migrations := rfl
@[simp] theorem State.setCtx_jobs (s : State) (a : Agent) (x : Ctx) : (s.setCtx a x).jobs = s.jobs := rfl
@[simp] theorem State.setCtx_leaseExts (s : State) (a : Agent) (x : Ctx) : (s.setCtx a x).leaseExts = s.leaseExts := rfl
@[simp] theorem State.setCtx_frames (s : State) (a : Agent) (x : Ctx) : (s.setCtx a x).frames = s.frames := rfl
@[simp] theorem State.setCtx_frozen (s : State) (a : Agent) (x : Ctx) : (s.setCtx a x).frozen = s.frozen := rfl
@[simp] theorem State.setCtx_groups (s : State) (a : Agent) (x : Ctx) : (s.setCtx a x).groups = s.groups := rfl
@[simp] theorem State.setCtx_ctxs (s : State) (a : Agent) (x : Ctx) : (s.setCtx a x).ctxs = s.ctxs.set a x := rfl
@[simp] theorem State.setCtx_cores (s : State) (a : Agent) (x : Ctx) : (s.setCtx a x).cores = s.cores := rfl
@[simp] theorem State.setCtx_clusters (s : State) (a : Agent) (x : Ctx) : (s.setCtx a x).clusters = s.clusters := rfl
@[simp] theorem State.setCtx_decs (s : State) (a : Agent) (x : Ctx) : (s.setCtx a x).decs = s.decs := rfl
@[simp] theorem State.setCtx_proxies (s : State) (a : Agent) (x : Ctx) : (s.setCtx a x).proxies = s.proxies := rfl
@[simp] theorem State.setCtx_unitq (s : State) (a : Agent) (x : Ctx) : (s.setCtx a x).unitq = s.unitq := rfl
@[simp] theorem State.setCtx_barriers (s : State) (a : Agent) (x : Ctx) : (s.setCtx a x).barriers = s.barriers := rfl
@[simp] theorem State.setCtx_arrivals (s : State) (a : Agent) (x : Ctx) : (s.setCtx a x).arrivals = s.arrivals := rfl
@[simp] theorem State.setCtx_portMarks (s : State) (a : Agent) (x : Ctx) : (s.setCtx a x).portMarks = s.portMarks := rfl
@[simp] theorem State.setCtx_releases (s : State) (a : Agent) (x : Ctx) : (s.setCtx a x).releases = s.releases := rfl
@[simp] theorem State.setCtx_ops (s : State) (a : Agent) (x : Ctx) : (s.setCtx a x).ops = s.ops := rfl
@[simp] theorem State.setCtx_engine (s : State) (a : Agent) (x : Ctx) : (s.setCtx a x).engine = s.engine := rfl
@[simp] theorem State.setCtx_engWin (s : State) (a : Agent) (x : Ctx) : (s.setCtx a x).engWin = s.engWin := rfl
@[simp] theorem State.setCtx_atoms (s : State) (a : Agent) (x : Ctx) : (s.setCtx a x).atoms = s.atoms := rfl
@[simp] theorem State.setCtx_replay (s : State) (a : Agent) (x : Ctx) : (s.setCtx a x).replay = s.replay := rfl
@[simp] theorem State.setCtx_atomIds (s : State) (a : Agent) (x : Ctx) : (s.setCtx a x).atomIds = s.atomIds := rfl
@[simp] theorem State.setCtx_derivs (s : State) (a : Agent) (x : Ctx) : (s.setCtx a x).derivs = s.derivs := rfl
@[simp] theorem State.setCtx_tiles (s : State) (a : Agent) (x : Ctx) : (s.setCtx a x).tiles = s.tiles := rfl
@[simp] theorem State.setCtx_handlerStore (s : State) (a : Agent) (x : Ctx) : (s.setCtx a x).handlerStore = s.handlerStore := rfl
@[simp] theorem State.setCtx_trigq (s : State) (a : Agent) (x : Ctx) : (s.setCtx a x).trigq = s.trigq := rfl
@[simp] theorem State.setCtx_runs (s : State) (a : Agent) (x : Ctx) : (s.setCtx a x).runs = s.runs := rfl
@[simp] theorem State.setCtx_chains (s : State) (a : Agent) (x : Ctx) : (s.setCtx a x).chains = s.chains := rfl
@[simp] theorem State.setCtx_pages (s : State) (a : Agent) (x : Ctx) : (s.setCtx a x).pages = s.pages := rfl
@[simp] theorem State.setCtx_notes (s : State) (a : Agent) (x : Ctx) : (s.setCtx a x).notes = s.notes := rfl
@[simp] theorem State.setCtx_redq (s : State) (a : Agent) (x : Ctx) : (s.setCtx a x).redq = s.redq := rfl
@[simp] theorem State.setCtx_climbs (s : State) (a : Agent) (x : Ctx) : (s.setCtx a x).climbs = s.climbs := rfl
@[simp] theorem State.setCtx_refresh (s : State) (a : Agent) (x : Ctx) : (s.setCtx a x).refresh = s.refresh := rfl
@[simp] theorem State.setCtx_preempts (s : State) (a : Agent) (x : Ctx) : (s.setCtx a x).preempts = s.preempts := rfl
@[simp] theorem State.setCtx_saved (s : State) (a : Agent) (x : Ctx) : (s.setCtx a x).saved = s.saved := rfl
@[simp] theorem State.setCtx_lineBack (s : State) (a : Agent) (x : Ctx) : (s.setCtx a x).lineBack = s.lineBack := rfl
@[simp] theorem State.setCtx_completion (s : State) (a : Agent) (x : Ctx) : (s.setCtx a x).completion = s.completion := rfl
@[simp] theorem State.setCtx_nextId (s : State) (a : Agent) (x : Ctx) : (s.setCtx a x).nextId = s.nextId := rfl
@[simp] theorem State.setCtx_agenda (s : State) (a : Agent) (x : Ctx) : (s.setCtx a x).agenda = s.agenda := rfl
@[simp] theorem State.setCtx_pace (s : State) (a : Agent) (x : Ctx) : (s.setCtx a x).pace = s.pace := rfl
@[simp] theorem State.setCtx_focus (s : State) (a : Agent) (x : Ctx) : (s.setCtx a x).focus = s.focus := rfl
@[simp] theorem State.setCtx_cur (s : State) (a : Agent) (x : Ctx) : (s.setCtx a x).cur = s.cur := rfl
@[simp] theorem State.setCtx_via (s : State) (a : Agent) (x : Ctx) : (s.setCtx a x).via = s.via := rfl
@[simp] theorem State.setCtx_trans (s : State) (a : Agent) (x : Ctx) : (s.setCtx a x).trans = s.trans := rfl
@[simp] theorem State.setCtx_pairView (s : State) (a : Agent) (x : Ctx) : (s.setCtx a x).pairView = s.pairView := rfl
@[simp] theorem State.setCtx_last (s : State) (a : Agent) (x : Ctx) : (s.setCtx a x).last = s.last := rfl
@[simp] theorem State.setCtx_freeTick (s : State) (a : Agent) (x : Ctx) : (s.setCtx a x).freeTick = s.freeTick := rfl

/-! ## setFrame -/

@[simp] theorem State.setFrame_clock (s : State) (c n : Nat) (f : Frame) : (s.setFrame c n f).clock = s.clock := rfl
@[simp] theorem State.setFrame_boot (s : State) (c n : Nat) (f : Frame) : (s.setFrame c n f).boot = s.boot := rfl
@[simp] theorem State.setFrame_links (s : State) (c n : Nat) (f : Frame) : (s.setFrame c n f).links = s.links := rfl
@[simp] theorem State.setFrame_mail (s : State) (c n : Nat) (f : Frame) : (s.setFrame c n f).mail = s.mail := rfl
@[simp] theorem State.setFrame_hostMem (s : State) (c n : Nat) (f : Frame) : (s.setFrame c n f).hostMem = s.hostMem := rfl
@[simp] theorem State.setFrame_interrupts (s : State) (c n : Nat) (f : Frame) : (s.setFrame c n f).interrupts = s.interrupts := rfl
@[simp] theorem State.setFrame_spaces (s : State) (c n : Nat) (f : Frame) : (s.setFrame c n f).spaces = s.spaces := rfl
@[simp] theorem State.setFrame_mem (s : State) (c n : Nat) (f : Frame) : (s.setFrame c n f).mem = s.mem := rfl
@[simp] theorem State.setFrame_tags (s : State) (c n : Nat) (f : Frame) : (s.setFrame c n f).tags = s.tags := rfl
@[simp] theorem State.setFrame_scr (s : State) (c n : Nat) (f : Frame) : (s.setFrame c n f).scr = s.scr := rfl
@[simp] theorem State.setFrame_bad (s : State) (c n : Nat) (f : Frame) : (s.setFrame c n f).bad = s.bad := rfl
@[simp] theorem State.setFrame_badScr (s : State) (c n : Nat) (f : Frame) : (s.setFrame c n f).badScr = s.badScr := rfl
@[simp] theorem State.setFrame_badLine (s : State) (c n : Nat) (f : Frame) : (s.setFrame c n f).badLine = s.badLine := rfl
@[simp] theorem State.setFrame_stale (s : State) (c n : Nat) (f : Frame) : (s.setFrame c n f).stale = s.stale := rfl
@[simp] theorem State.setFrame_pool (s : State) (c n : Nat) (f : Frame) : (s.setFrame c n f).pool = s.pool := rfl
@[simp] theorem State.setFrame_lent (s : State) (c n : Nat) (f : Frame) : (s.setFrame c n f).lent = s.lent := rfl
@[simp] theorem State.setFrame_errs (s : State) (c n : Nat) (f : Frame) : (s.setFrame c n f).errs = s.errs := rfl
@[simp] theorem State.setFrame_extents (s : State) (c n : Nat) (f : Frame) : (s.setFrame c n f).extents = s.extents := rfl
@[simp] theorem State.setFrame_lastUse (s : State) (c n : Nat) (f : Frame) : (s.setFrame c n f).lastUse = s.lastUse := rfl
@[simp] theorem State.setFrame_slabHome (s : State) (c n : Nat) (f : Frame) : (s.setFrame c n f).slabHome = s.slabHome := rfl
@[simp] theorem State.setFrame_walks (s : State) (c n : Nat) (f : Frame) : (s.setFrame c n f).walks = s.walks := rfl
@[simp] theorem State.setFrame_objCache (s : State) (c n : Nat) (f : Frame) : (s.setFrame c n f).objCache = s.objCache := rfl
@[simp] theorem State.setFrame_migrations (s : State) (c n : Nat) (f : Frame) : (s.setFrame c n f).migrations = s.migrations := rfl
@[simp] theorem State.setFrame_jobs (s : State) (c n : Nat) (f : Frame) : (s.setFrame c n f).jobs = s.jobs := rfl
@[simp] theorem State.setFrame_leaseExts (s : State) (c n : Nat) (f : Frame) : (s.setFrame c n f).leaseExts = s.leaseExts := rfl
@[simp] theorem State.setFrame_frames (s : State) (c n : Nat) (f : Frame) : (s.setFrame c n f).frames = s.frames.set (c, n) f := rfl
@[simp] theorem State.setFrame_frozen (s : State) (c n : Nat) (f : Frame) : (s.setFrame c n f).frozen = s.frozen := rfl
@[simp] theorem State.setFrame_groups (s : State) (c n : Nat) (f : Frame) : (s.setFrame c n f).groups = s.groups := rfl
@[simp] theorem State.setFrame_ctxs (s : State) (c n : Nat) (f : Frame) : (s.setFrame c n f).ctxs = s.ctxs := rfl
@[simp] theorem State.setFrame_cores (s : State) (c n : Nat) (f : Frame) : (s.setFrame c n f).cores = s.cores := rfl
@[simp] theorem State.setFrame_clusters (s : State) (c n : Nat) (f : Frame) : (s.setFrame c n f).clusters = s.clusters := rfl
@[simp] theorem State.setFrame_decs (s : State) (c n : Nat) (f : Frame) : (s.setFrame c n f).decs = s.decs := rfl
@[simp] theorem State.setFrame_proxies (s : State) (c n : Nat) (f : Frame) : (s.setFrame c n f).proxies = s.proxies := rfl
@[simp] theorem State.setFrame_unitq (s : State) (c n : Nat) (f : Frame) : (s.setFrame c n f).unitq = s.unitq := rfl
@[simp] theorem State.setFrame_barriers (s : State) (c n : Nat) (f : Frame) : (s.setFrame c n f).barriers = s.barriers := rfl
@[simp] theorem State.setFrame_arrivals (s : State) (c n : Nat) (f : Frame) : (s.setFrame c n f).arrivals = s.arrivals := rfl
@[simp] theorem State.setFrame_portMarks (s : State) (c n : Nat) (f : Frame) : (s.setFrame c n f).portMarks = s.portMarks := rfl
@[simp] theorem State.setFrame_releases (s : State) (c n : Nat) (f : Frame) : (s.setFrame c n f).releases = s.releases := rfl
@[simp] theorem State.setFrame_ops (s : State) (c n : Nat) (f : Frame) : (s.setFrame c n f).ops = s.ops := rfl
@[simp] theorem State.setFrame_engine (s : State) (c n : Nat) (f : Frame) : (s.setFrame c n f).engine = s.engine := rfl
@[simp] theorem State.setFrame_engWin (s : State) (c n : Nat) (f : Frame) : (s.setFrame c n f).engWin = s.engWin := rfl
@[simp] theorem State.setFrame_atoms (s : State) (c n : Nat) (f : Frame) : (s.setFrame c n f).atoms = s.atoms := rfl
@[simp] theorem State.setFrame_replay (s : State) (c n : Nat) (f : Frame) : (s.setFrame c n f).replay = s.replay := rfl
@[simp] theorem State.setFrame_atomIds (s : State) (c n : Nat) (f : Frame) : (s.setFrame c n f).atomIds = s.atomIds := rfl
@[simp] theorem State.setFrame_derivs (s : State) (c n : Nat) (f : Frame) : (s.setFrame c n f).derivs = s.derivs := rfl
@[simp] theorem State.setFrame_tiles (s : State) (c n : Nat) (f : Frame) : (s.setFrame c n f).tiles = s.tiles := rfl
@[simp] theorem State.setFrame_handlerStore (s : State) (c n : Nat) (f : Frame) : (s.setFrame c n f).handlerStore = s.handlerStore := rfl
@[simp] theorem State.setFrame_trigq (s : State) (c n : Nat) (f : Frame) : (s.setFrame c n f).trigq = s.trigq := rfl
@[simp] theorem State.setFrame_runs (s : State) (c n : Nat) (f : Frame) : (s.setFrame c n f).runs = s.runs := rfl
@[simp] theorem State.setFrame_chains (s : State) (c n : Nat) (f : Frame) : (s.setFrame c n f).chains = s.chains := rfl
@[simp] theorem State.setFrame_pages (s : State) (c n : Nat) (f : Frame) : (s.setFrame c n f).pages = s.pages := rfl
@[simp] theorem State.setFrame_notes (s : State) (c n : Nat) (f : Frame) : (s.setFrame c n f).notes = s.notes := rfl
@[simp] theorem State.setFrame_redq (s : State) (c n : Nat) (f : Frame) : (s.setFrame c n f).redq = s.redq := rfl
@[simp] theorem State.setFrame_climbs (s : State) (c n : Nat) (f : Frame) : (s.setFrame c n f).climbs = s.climbs := rfl
@[simp] theorem State.setFrame_refresh (s : State) (c n : Nat) (f : Frame) : (s.setFrame c n f).refresh = s.refresh := rfl
@[simp] theorem State.setFrame_preempts (s : State) (c n : Nat) (f : Frame) : (s.setFrame c n f).preempts = s.preempts := rfl
@[simp] theorem State.setFrame_saved (s : State) (c n : Nat) (f : Frame) : (s.setFrame c n f).saved = s.saved := rfl
@[simp] theorem State.setFrame_lineBack (s : State) (c n : Nat) (f : Frame) : (s.setFrame c n f).lineBack = s.lineBack := rfl
@[simp] theorem State.setFrame_completion (s : State) (c n : Nat) (f : Frame) : (s.setFrame c n f).completion = s.completion := rfl
@[simp] theorem State.setFrame_nextId (s : State) (c n : Nat) (f : Frame) : (s.setFrame c n f).nextId = s.nextId := rfl
@[simp] theorem State.setFrame_agenda (s : State) (c n : Nat) (f : Frame) : (s.setFrame c n f).agenda = s.agenda := rfl
@[simp] theorem State.setFrame_pace (s : State) (c n : Nat) (f : Frame) : (s.setFrame c n f).pace = s.pace := rfl
@[simp] theorem State.setFrame_focus (s : State) (c n : Nat) (f : Frame) : (s.setFrame c n f).focus = s.focus := rfl
@[simp] theorem State.setFrame_cur (s : State) (c n : Nat) (f : Frame) : (s.setFrame c n f).cur = s.cur := rfl
@[simp] theorem State.setFrame_via (s : State) (c n : Nat) (f : Frame) : (s.setFrame c n f).via = s.via := rfl
@[simp] theorem State.setFrame_trans (s : State) (c n : Nat) (f : Frame) : (s.setFrame c n f).trans = s.trans := rfl
@[simp] theorem State.setFrame_pairView (s : State) (c n : Nat) (f : Frame) : (s.setFrame c n f).pairView = s.pairView := rfl
@[simp] theorem State.setFrame_last (s : State) (c n : Nat) (f : Frame) : (s.setFrame c n f).last = s.last := rfl
@[simp] theorem State.setFrame_freeTick (s : State) (c n : Nat) (f : Frame) : (s.setFrame c n f).freeTick = s.freeTick := rfl

/-! ## setCore -/

@[simp] theorem State.setCore_clock (s : State) (c : Nat) (k : Core) : (s.setCore c k).clock = s.clock := rfl
@[simp] theorem State.setCore_boot (s : State) (c : Nat) (k : Core) : (s.setCore c k).boot = s.boot := rfl
@[simp] theorem State.setCore_links (s : State) (c : Nat) (k : Core) : (s.setCore c k).links = s.links := rfl
@[simp] theorem State.setCore_mail (s : State) (c : Nat) (k : Core) : (s.setCore c k).mail = s.mail := rfl
@[simp] theorem State.setCore_hostMem (s : State) (c : Nat) (k : Core) : (s.setCore c k).hostMem = s.hostMem := rfl
@[simp] theorem State.setCore_interrupts (s : State) (c : Nat) (k : Core) : (s.setCore c k).interrupts = s.interrupts := rfl
@[simp] theorem State.setCore_spaces (s : State) (c : Nat) (k : Core) : (s.setCore c k).spaces = s.spaces := rfl
@[simp] theorem State.setCore_mem (s : State) (c : Nat) (k : Core) : (s.setCore c k).mem = s.mem := rfl
@[simp] theorem State.setCore_tags (s : State) (c : Nat) (k : Core) : (s.setCore c k).tags = s.tags := rfl
@[simp] theorem State.setCore_scr (s : State) (c : Nat) (k : Core) : (s.setCore c k).scr = s.scr := rfl
@[simp] theorem State.setCore_bad (s : State) (c : Nat) (k : Core) : (s.setCore c k).bad = s.bad := rfl
@[simp] theorem State.setCore_badScr (s : State) (c : Nat) (k : Core) : (s.setCore c k).badScr = s.badScr := rfl
@[simp] theorem State.setCore_badLine (s : State) (c : Nat) (k : Core) : (s.setCore c k).badLine = s.badLine := rfl
@[simp] theorem State.setCore_stale (s : State) (c : Nat) (k : Core) : (s.setCore c k).stale = s.stale := rfl
@[simp] theorem State.setCore_pool (s : State) (c : Nat) (k : Core) : (s.setCore c k).pool = s.pool := rfl
@[simp] theorem State.setCore_lent (s : State) (c : Nat) (k : Core) : (s.setCore c k).lent = s.lent := rfl
@[simp] theorem State.setCore_errs (s : State) (c : Nat) (k : Core) : (s.setCore c k).errs = s.errs := rfl
@[simp] theorem State.setCore_extents (s : State) (c : Nat) (k : Core) : (s.setCore c k).extents = s.extents := rfl
@[simp] theorem State.setCore_lastUse (s : State) (c : Nat) (k : Core) : (s.setCore c k).lastUse = s.lastUse := rfl
@[simp] theorem State.setCore_slabHome (s : State) (c : Nat) (k : Core) : (s.setCore c k).slabHome = s.slabHome := rfl
@[simp] theorem State.setCore_walks (s : State) (c : Nat) (k : Core) : (s.setCore c k).walks = s.walks := rfl
@[simp] theorem State.setCore_objCache (s : State) (c : Nat) (k : Core) : (s.setCore c k).objCache = s.objCache := rfl
@[simp] theorem State.setCore_migrations (s : State) (c : Nat) (k : Core) : (s.setCore c k).migrations = s.migrations := rfl
@[simp] theorem State.setCore_jobs (s : State) (c : Nat) (k : Core) : (s.setCore c k).jobs = s.jobs := rfl
@[simp] theorem State.setCore_leaseExts (s : State) (c : Nat) (k : Core) : (s.setCore c k).leaseExts = s.leaseExts := rfl
@[simp] theorem State.setCore_frames (s : State) (c : Nat) (k : Core) : (s.setCore c k).frames = s.frames := rfl
@[simp] theorem State.setCore_frozen (s : State) (c : Nat) (k : Core) : (s.setCore c k).frozen = s.frozen := rfl
@[simp] theorem State.setCore_groups (s : State) (c : Nat) (k : Core) : (s.setCore c k).groups = s.groups := rfl
@[simp] theorem State.setCore_ctxs (s : State) (c : Nat) (k : Core) : (s.setCore c k).ctxs = s.ctxs := rfl
@[simp] theorem State.setCore_cores (s : State) (c : Nat) (k : Core) : (s.setCore c k).cores = s.cores.set c k := rfl
@[simp] theorem State.setCore_clusters (s : State) (c : Nat) (k : Core) : (s.setCore c k).clusters = s.clusters := rfl
@[simp] theorem State.setCore_decs (s : State) (c : Nat) (k : Core) : (s.setCore c k).decs = s.decs := rfl
@[simp] theorem State.setCore_proxies (s : State) (c : Nat) (k : Core) : (s.setCore c k).proxies = s.proxies := rfl
@[simp] theorem State.setCore_unitq (s : State) (c : Nat) (k : Core) : (s.setCore c k).unitq = s.unitq := rfl
@[simp] theorem State.setCore_barriers (s : State) (c : Nat) (k : Core) : (s.setCore c k).barriers = s.barriers := rfl
@[simp] theorem State.setCore_arrivals (s : State) (c : Nat) (k : Core) : (s.setCore c k).arrivals = s.arrivals := rfl
@[simp] theorem State.setCore_portMarks (s : State) (c : Nat) (k : Core) : (s.setCore c k).portMarks = s.portMarks := rfl
@[simp] theorem State.setCore_releases (s : State) (c : Nat) (k : Core) : (s.setCore c k).releases = s.releases := rfl
@[simp] theorem State.setCore_ops (s : State) (c : Nat) (k : Core) : (s.setCore c k).ops = s.ops := rfl
@[simp] theorem State.setCore_engine (s : State) (c : Nat) (k : Core) : (s.setCore c k).engine = s.engine := rfl
@[simp] theorem State.setCore_engWin (s : State) (c : Nat) (k : Core) : (s.setCore c k).engWin = s.engWin := rfl
@[simp] theorem State.setCore_atoms (s : State) (c : Nat) (k : Core) : (s.setCore c k).atoms = s.atoms := rfl
@[simp] theorem State.setCore_replay (s : State) (c : Nat) (k : Core) : (s.setCore c k).replay = s.replay := rfl
@[simp] theorem State.setCore_atomIds (s : State) (c : Nat) (k : Core) : (s.setCore c k).atomIds = s.atomIds := rfl
@[simp] theorem State.setCore_derivs (s : State) (c : Nat) (k : Core) : (s.setCore c k).derivs = s.derivs := rfl
@[simp] theorem State.setCore_tiles (s : State) (c : Nat) (k : Core) : (s.setCore c k).tiles = s.tiles := rfl
@[simp] theorem State.setCore_handlerStore (s : State) (c : Nat) (k : Core) : (s.setCore c k).handlerStore = s.handlerStore := rfl
@[simp] theorem State.setCore_trigq (s : State) (c : Nat) (k : Core) : (s.setCore c k).trigq = s.trigq := rfl
@[simp] theorem State.setCore_runs (s : State) (c : Nat) (k : Core) : (s.setCore c k).runs = s.runs := rfl
@[simp] theorem State.setCore_chains (s : State) (c : Nat) (k : Core) : (s.setCore c k).chains = s.chains := rfl
@[simp] theorem State.setCore_pages (s : State) (c : Nat) (k : Core) : (s.setCore c k).pages = s.pages := rfl
@[simp] theorem State.setCore_notes (s : State) (c : Nat) (k : Core) : (s.setCore c k).notes = s.notes := rfl
@[simp] theorem State.setCore_redq (s : State) (c : Nat) (k : Core) : (s.setCore c k).redq = s.redq := rfl
@[simp] theorem State.setCore_climbs (s : State) (c : Nat) (k : Core) : (s.setCore c k).climbs = s.climbs := rfl
@[simp] theorem State.setCore_refresh (s : State) (c : Nat) (k : Core) : (s.setCore c k).refresh = s.refresh := rfl
@[simp] theorem State.setCore_preempts (s : State) (c : Nat) (k : Core) : (s.setCore c k).preempts = s.preempts := rfl
@[simp] theorem State.setCore_saved (s : State) (c : Nat) (k : Core) : (s.setCore c k).saved = s.saved := rfl
@[simp] theorem State.setCore_lineBack (s : State) (c : Nat) (k : Core) : (s.setCore c k).lineBack = s.lineBack := rfl
@[simp] theorem State.setCore_completion (s : State) (c : Nat) (k : Core) : (s.setCore c k).completion = s.completion := rfl
@[simp] theorem State.setCore_nextId (s : State) (c : Nat) (k : Core) : (s.setCore c k).nextId = s.nextId := rfl
@[simp] theorem State.setCore_agenda (s : State) (c : Nat) (k : Core) : (s.setCore c k).agenda = s.agenda := rfl
@[simp] theorem State.setCore_pace (s : State) (c : Nat) (k : Core) : (s.setCore c k).pace = s.pace := rfl
@[simp] theorem State.setCore_focus (s : State) (c : Nat) (k : Core) : (s.setCore c k).focus = s.focus := rfl
@[simp] theorem State.setCore_cur (s : State) (c : Nat) (k : Core) : (s.setCore c k).cur = s.cur := rfl
@[simp] theorem State.setCore_via (s : State) (c : Nat) (k : Core) : (s.setCore c k).via = s.via := rfl
@[simp] theorem State.setCore_trans (s : State) (c : Nat) (k : Core) : (s.setCore c k).trans = s.trans := rfl
@[simp] theorem State.setCore_pairView (s : State) (c : Nat) (k : Core) : (s.setCore c k).pairView = s.pairView := rfl
@[simp] theorem State.setCore_last (s : State) (c : Nat) (k : Core) : (s.setCore c k).last = s.last := rfl
@[simp] theorem State.setCore_freeTick (s : State) (c : Nat) (k : Core) : (s.setCore c k).freeTick = s.freeTick := rfl

/-! ## setCluster -/

@[simp] theorem State.setCluster_clock (s : State) (c : Nat) (k : Cluster) : (s.setCluster c k).clock = s.clock := rfl
@[simp] theorem State.setCluster_boot (s : State) (c : Nat) (k : Cluster) : (s.setCluster c k).boot = s.boot := rfl
@[simp] theorem State.setCluster_links (s : State) (c : Nat) (k : Cluster) : (s.setCluster c k).links = s.links := rfl
@[simp] theorem State.setCluster_mail (s : State) (c : Nat) (k : Cluster) : (s.setCluster c k).mail = s.mail := rfl
@[simp] theorem State.setCluster_hostMem (s : State) (c : Nat) (k : Cluster) : (s.setCluster c k).hostMem = s.hostMem := rfl
@[simp] theorem State.setCluster_interrupts (s : State) (c : Nat) (k : Cluster) : (s.setCluster c k).interrupts = s.interrupts := rfl
@[simp] theorem State.setCluster_spaces (s : State) (c : Nat) (k : Cluster) : (s.setCluster c k).spaces = s.spaces := rfl
@[simp] theorem State.setCluster_mem (s : State) (c : Nat) (k : Cluster) : (s.setCluster c k).mem = s.mem := rfl
@[simp] theorem State.setCluster_tags (s : State) (c : Nat) (k : Cluster) : (s.setCluster c k).tags = s.tags := rfl
@[simp] theorem State.setCluster_scr (s : State) (c : Nat) (k : Cluster) : (s.setCluster c k).scr = s.scr := rfl
@[simp] theorem State.setCluster_bad (s : State) (c : Nat) (k : Cluster) : (s.setCluster c k).bad = s.bad := rfl
@[simp] theorem State.setCluster_badScr (s : State) (c : Nat) (k : Cluster) : (s.setCluster c k).badScr = s.badScr := rfl
@[simp] theorem State.setCluster_badLine (s : State) (c : Nat) (k : Cluster) : (s.setCluster c k).badLine = s.badLine := rfl
@[simp] theorem State.setCluster_stale (s : State) (c : Nat) (k : Cluster) : (s.setCluster c k).stale = s.stale := rfl
@[simp] theorem State.setCluster_pool (s : State) (c : Nat) (k : Cluster) : (s.setCluster c k).pool = s.pool := rfl
@[simp] theorem State.setCluster_lent (s : State) (c : Nat) (k : Cluster) : (s.setCluster c k).lent = s.lent := rfl
@[simp] theorem State.setCluster_errs (s : State) (c : Nat) (k : Cluster) : (s.setCluster c k).errs = s.errs := rfl
@[simp] theorem State.setCluster_extents (s : State) (c : Nat) (k : Cluster) : (s.setCluster c k).extents = s.extents := rfl
@[simp] theorem State.setCluster_lastUse (s : State) (c : Nat) (k : Cluster) : (s.setCluster c k).lastUse = s.lastUse := rfl
@[simp] theorem State.setCluster_slabHome (s : State) (c : Nat) (k : Cluster) : (s.setCluster c k).slabHome = s.slabHome := rfl
@[simp] theorem State.setCluster_walks (s : State) (c : Nat) (k : Cluster) : (s.setCluster c k).walks = s.walks := rfl
@[simp] theorem State.setCluster_objCache (s : State) (c : Nat) (k : Cluster) : (s.setCluster c k).objCache = s.objCache := rfl
@[simp] theorem State.setCluster_migrations (s : State) (c : Nat) (k : Cluster) : (s.setCluster c k).migrations = s.migrations := rfl
@[simp] theorem State.setCluster_jobs (s : State) (c : Nat) (k : Cluster) : (s.setCluster c k).jobs = s.jobs := rfl
@[simp] theorem State.setCluster_leaseExts (s : State) (c : Nat) (k : Cluster) : (s.setCluster c k).leaseExts = s.leaseExts := rfl
@[simp] theorem State.setCluster_frames (s : State) (c : Nat) (k : Cluster) : (s.setCluster c k).frames = s.frames := rfl
@[simp] theorem State.setCluster_frozen (s : State) (c : Nat) (k : Cluster) : (s.setCluster c k).frozen = s.frozen := rfl
@[simp] theorem State.setCluster_groups (s : State) (c : Nat) (k : Cluster) : (s.setCluster c k).groups = s.groups := rfl
@[simp] theorem State.setCluster_ctxs (s : State) (c : Nat) (k : Cluster) : (s.setCluster c k).ctxs = s.ctxs := rfl
@[simp] theorem State.setCluster_cores (s : State) (c : Nat) (k : Cluster) : (s.setCluster c k).cores = s.cores := rfl
@[simp] theorem State.setCluster_clusters (s : State) (c : Nat) (k : Cluster) : (s.setCluster c k).clusters = s.clusters.set c k := rfl
@[simp] theorem State.setCluster_decs (s : State) (c : Nat) (k : Cluster) : (s.setCluster c k).decs = s.decs := rfl
@[simp] theorem State.setCluster_proxies (s : State) (c : Nat) (k : Cluster) : (s.setCluster c k).proxies = s.proxies := rfl
@[simp] theorem State.setCluster_unitq (s : State) (c : Nat) (k : Cluster) : (s.setCluster c k).unitq = s.unitq := rfl
@[simp] theorem State.setCluster_barriers (s : State) (c : Nat) (k : Cluster) : (s.setCluster c k).barriers = s.barriers := rfl
@[simp] theorem State.setCluster_arrivals (s : State) (c : Nat) (k : Cluster) : (s.setCluster c k).arrivals = s.arrivals := rfl
@[simp] theorem State.setCluster_portMarks (s : State) (c : Nat) (k : Cluster) : (s.setCluster c k).portMarks = s.portMarks := rfl
@[simp] theorem State.setCluster_releases (s : State) (c : Nat) (k : Cluster) : (s.setCluster c k).releases = s.releases := rfl
@[simp] theorem State.setCluster_ops (s : State) (c : Nat) (k : Cluster) : (s.setCluster c k).ops = s.ops := rfl
@[simp] theorem State.setCluster_engine (s : State) (c : Nat) (k : Cluster) : (s.setCluster c k).engine = s.engine := rfl
@[simp] theorem State.setCluster_engWin (s : State) (c : Nat) (k : Cluster) : (s.setCluster c k).engWin = s.engWin := rfl
@[simp] theorem State.setCluster_atoms (s : State) (c : Nat) (k : Cluster) : (s.setCluster c k).atoms = s.atoms := rfl
@[simp] theorem State.setCluster_replay (s : State) (c : Nat) (k : Cluster) : (s.setCluster c k).replay = s.replay := rfl
@[simp] theorem State.setCluster_atomIds (s : State) (c : Nat) (k : Cluster) : (s.setCluster c k).atomIds = s.atomIds := rfl
@[simp] theorem State.setCluster_derivs (s : State) (c : Nat) (k : Cluster) : (s.setCluster c k).derivs = s.derivs := rfl
@[simp] theorem State.setCluster_tiles (s : State) (c : Nat) (k : Cluster) : (s.setCluster c k).tiles = s.tiles := rfl
@[simp] theorem State.setCluster_handlerStore (s : State) (c : Nat) (k : Cluster) : (s.setCluster c k).handlerStore = s.handlerStore := rfl
@[simp] theorem State.setCluster_trigq (s : State) (c : Nat) (k : Cluster) : (s.setCluster c k).trigq = s.trigq := rfl
@[simp] theorem State.setCluster_runs (s : State) (c : Nat) (k : Cluster) : (s.setCluster c k).runs = s.runs := rfl
@[simp] theorem State.setCluster_chains (s : State) (c : Nat) (k : Cluster) : (s.setCluster c k).chains = s.chains := rfl
@[simp] theorem State.setCluster_pages (s : State) (c : Nat) (k : Cluster) : (s.setCluster c k).pages = s.pages := rfl
@[simp] theorem State.setCluster_notes (s : State) (c : Nat) (k : Cluster) : (s.setCluster c k).notes = s.notes := rfl
@[simp] theorem State.setCluster_redq (s : State) (c : Nat) (k : Cluster) : (s.setCluster c k).redq = s.redq := rfl
@[simp] theorem State.setCluster_climbs (s : State) (c : Nat) (k : Cluster) : (s.setCluster c k).climbs = s.climbs := rfl
@[simp] theorem State.setCluster_refresh (s : State) (c : Nat) (k : Cluster) : (s.setCluster c k).refresh = s.refresh := rfl
@[simp] theorem State.setCluster_preempts (s : State) (c : Nat) (k : Cluster) : (s.setCluster c k).preempts = s.preempts := rfl
@[simp] theorem State.setCluster_saved (s : State) (c : Nat) (k : Cluster) : (s.setCluster c k).saved = s.saved := rfl
@[simp] theorem State.setCluster_lineBack (s : State) (c : Nat) (k : Cluster) : (s.setCluster c k).lineBack = s.lineBack := rfl
@[simp] theorem State.setCluster_completion (s : State) (c : Nat) (k : Cluster) : (s.setCluster c k).completion = s.completion := rfl
@[simp] theorem State.setCluster_nextId (s : State) (c : Nat) (k : Cluster) : (s.setCluster c k).nextId = s.nextId := rfl
@[simp] theorem State.setCluster_agenda (s : State) (c : Nat) (k : Cluster) : (s.setCluster c k).agenda = s.agenda := rfl
@[simp] theorem State.setCluster_pace (s : State) (c : Nat) (k : Cluster) : (s.setCluster c k).pace = s.pace := rfl
@[simp] theorem State.setCluster_focus (s : State) (c : Nat) (k : Cluster) : (s.setCluster c k).focus = s.focus := rfl
@[simp] theorem State.setCluster_cur (s : State) (c : Nat) (k : Cluster) : (s.setCluster c k).cur = s.cur := rfl
@[simp] theorem State.setCluster_via (s : State) (c : Nat) (k : Cluster) : (s.setCluster c k).via = s.via := rfl
@[simp] theorem State.setCluster_trans (s : State) (c : Nat) (k : Cluster) : (s.setCluster c k).trans = s.trans := rfl
@[simp] theorem State.setCluster_pairView (s : State) (c : Nat) (k : Cluster) : (s.setCluster c k).pairView = s.pairView := rfl
@[simp] theorem State.setCluster_last (s : State) (c : Nat) (k : Cluster) : (s.setCluster c k).last = s.last := rfl
@[simp] theorem State.setCluster_freeTick (s : State) (c : Nat) (k : Cluster) : (s.setCluster c k).freeTick = s.freeTick := rfl

/-! ## setBarrier -/

@[simp] theorem State.setBarrier_clock (s : State) (k : ObjKey) (b : Barrier) : (s.setBarrier k b).clock = s.clock := rfl
@[simp] theorem State.setBarrier_boot (s : State) (k : ObjKey) (b : Barrier) : (s.setBarrier k b).boot = s.boot := rfl
@[simp] theorem State.setBarrier_links (s : State) (k : ObjKey) (b : Barrier) : (s.setBarrier k b).links = s.links := rfl
@[simp] theorem State.setBarrier_mail (s : State) (k : ObjKey) (b : Barrier) : (s.setBarrier k b).mail = s.mail := rfl
@[simp] theorem State.setBarrier_hostMem (s : State) (k : ObjKey) (b : Barrier) : (s.setBarrier k b).hostMem = s.hostMem := rfl
@[simp] theorem State.setBarrier_interrupts (s : State) (k : ObjKey) (b : Barrier) : (s.setBarrier k b).interrupts = s.interrupts := rfl
@[simp] theorem State.setBarrier_spaces (s : State) (k : ObjKey) (b : Barrier) : (s.setBarrier k b).spaces = s.spaces := rfl
@[simp] theorem State.setBarrier_mem (s : State) (k : ObjKey) (b : Barrier) : (s.setBarrier k b).mem = s.mem := rfl
@[simp] theorem State.setBarrier_tags (s : State) (k : ObjKey) (b : Barrier) : (s.setBarrier k b).tags = s.tags := rfl
@[simp] theorem State.setBarrier_scr (s : State) (k : ObjKey) (b : Barrier) : (s.setBarrier k b).scr = s.scr := rfl
@[simp] theorem State.setBarrier_bad (s : State) (k : ObjKey) (b : Barrier) : (s.setBarrier k b).bad = s.bad := rfl
@[simp] theorem State.setBarrier_badScr (s : State) (k : ObjKey) (b : Barrier) : (s.setBarrier k b).badScr = s.badScr := rfl
@[simp] theorem State.setBarrier_badLine (s : State) (k : ObjKey) (b : Barrier) : (s.setBarrier k b).badLine = s.badLine := rfl
@[simp] theorem State.setBarrier_stale (s : State) (k : ObjKey) (b : Barrier) : (s.setBarrier k b).stale = s.stale := rfl
@[simp] theorem State.setBarrier_pool (s : State) (k : ObjKey) (b : Barrier) : (s.setBarrier k b).pool = s.pool := rfl
@[simp] theorem State.setBarrier_lent (s : State) (k : ObjKey) (b : Barrier) : (s.setBarrier k b).lent = s.lent := rfl
@[simp] theorem State.setBarrier_errs (s : State) (k : ObjKey) (b : Barrier) : (s.setBarrier k b).errs = s.errs := rfl
@[simp] theorem State.setBarrier_extents (s : State) (k : ObjKey) (b : Barrier) : (s.setBarrier k b).extents = s.extents := rfl
@[simp] theorem State.setBarrier_lastUse (s : State) (k : ObjKey) (b : Barrier) : (s.setBarrier k b).lastUse = s.lastUse := rfl
@[simp] theorem State.setBarrier_slabHome (s : State) (k : ObjKey) (b : Barrier) : (s.setBarrier k b).slabHome = s.slabHome := rfl
@[simp] theorem State.setBarrier_walks (s : State) (k : ObjKey) (b : Barrier) : (s.setBarrier k b).walks = s.walks := rfl
@[simp] theorem State.setBarrier_objCache (s : State) (k : ObjKey) (b : Barrier) : (s.setBarrier k b).objCache = s.objCache := rfl
@[simp] theorem State.setBarrier_migrations (s : State) (k : ObjKey) (b : Barrier) : (s.setBarrier k b).migrations = s.migrations := rfl
@[simp] theorem State.setBarrier_jobs (s : State) (k : ObjKey) (b : Barrier) : (s.setBarrier k b).jobs = s.jobs := rfl
@[simp] theorem State.setBarrier_leaseExts (s : State) (k : ObjKey) (b : Barrier) : (s.setBarrier k b).leaseExts = s.leaseExts := rfl
@[simp] theorem State.setBarrier_frames (s : State) (k : ObjKey) (b : Barrier) : (s.setBarrier k b).frames = s.frames := rfl
@[simp] theorem State.setBarrier_frozen (s : State) (k : ObjKey) (b : Barrier) : (s.setBarrier k b).frozen = s.frozen := rfl
@[simp] theorem State.setBarrier_groups (s : State) (k : ObjKey) (b : Barrier) : (s.setBarrier k b).groups = s.groups := rfl
@[simp] theorem State.setBarrier_ctxs (s : State) (k : ObjKey) (b : Barrier) : (s.setBarrier k b).ctxs = s.ctxs := rfl
@[simp] theorem State.setBarrier_cores (s : State) (k : ObjKey) (b : Barrier) : (s.setBarrier k b).cores = s.cores := rfl
@[simp] theorem State.setBarrier_clusters (s : State) (k : ObjKey) (b : Barrier) : (s.setBarrier k b).clusters = s.clusters := rfl
@[simp] theorem State.setBarrier_decs (s : State) (k : ObjKey) (b : Barrier) : (s.setBarrier k b).decs = s.decs := rfl
@[simp] theorem State.setBarrier_proxies (s : State) (k : ObjKey) (b : Barrier) : (s.setBarrier k b).proxies = s.proxies := rfl
@[simp] theorem State.setBarrier_unitq (s : State) (k : ObjKey) (b : Barrier) : (s.setBarrier k b).unitq = s.unitq := rfl
@[simp] theorem State.setBarrier_barriers (s : State) (k : ObjKey) (b : Barrier) : (s.setBarrier k b).barriers = s.barriers.set k b := rfl
@[simp] theorem State.setBarrier_arrivals (s : State) (k : ObjKey) (b : Barrier) : (s.setBarrier k b).arrivals = s.arrivals := rfl
@[simp] theorem State.setBarrier_portMarks (s : State) (k : ObjKey) (b : Barrier) : (s.setBarrier k b).portMarks = s.portMarks := rfl
@[simp] theorem State.setBarrier_releases (s : State) (k : ObjKey) (b : Barrier) : (s.setBarrier k b).releases = s.releases := rfl
@[simp] theorem State.setBarrier_ops (s : State) (k : ObjKey) (b : Barrier) : (s.setBarrier k b).ops = s.ops := rfl
@[simp] theorem State.setBarrier_engine (s : State) (k : ObjKey) (b : Barrier) : (s.setBarrier k b).engine = s.engine := rfl
@[simp] theorem State.setBarrier_engWin (s : State) (k : ObjKey) (b : Barrier) : (s.setBarrier k b).engWin = s.engWin := rfl
@[simp] theorem State.setBarrier_atoms (s : State) (k : ObjKey) (b : Barrier) : (s.setBarrier k b).atoms = s.atoms := rfl
@[simp] theorem State.setBarrier_replay (s : State) (k : ObjKey) (b : Barrier) : (s.setBarrier k b).replay = s.replay := rfl
@[simp] theorem State.setBarrier_atomIds (s : State) (k : ObjKey) (b : Barrier) : (s.setBarrier k b).atomIds = s.atomIds := rfl
@[simp] theorem State.setBarrier_derivs (s : State) (k : ObjKey) (b : Barrier) : (s.setBarrier k b).derivs = s.derivs := rfl
@[simp] theorem State.setBarrier_tiles (s : State) (k : ObjKey) (b : Barrier) : (s.setBarrier k b).tiles = s.tiles := rfl
@[simp] theorem State.setBarrier_handlerStore (s : State) (k : ObjKey) (b : Barrier) : (s.setBarrier k b).handlerStore = s.handlerStore := rfl
@[simp] theorem State.setBarrier_trigq (s : State) (k : ObjKey) (b : Barrier) : (s.setBarrier k b).trigq = s.trigq := rfl
@[simp] theorem State.setBarrier_runs (s : State) (k : ObjKey) (b : Barrier) : (s.setBarrier k b).runs = s.runs := rfl
@[simp] theorem State.setBarrier_chains (s : State) (k : ObjKey) (b : Barrier) : (s.setBarrier k b).chains = s.chains := rfl
@[simp] theorem State.setBarrier_pages (s : State) (k : ObjKey) (b : Barrier) : (s.setBarrier k b).pages = s.pages := rfl
@[simp] theorem State.setBarrier_notes (s : State) (k : ObjKey) (b : Barrier) : (s.setBarrier k b).notes = s.notes := rfl
@[simp] theorem State.setBarrier_redq (s : State) (k : ObjKey) (b : Barrier) : (s.setBarrier k b).redq = s.redq := rfl
@[simp] theorem State.setBarrier_climbs (s : State) (k : ObjKey) (b : Barrier) : (s.setBarrier k b).climbs = s.climbs := rfl
@[simp] theorem State.setBarrier_refresh (s : State) (k : ObjKey) (b : Barrier) : (s.setBarrier k b).refresh = s.refresh := rfl
@[simp] theorem State.setBarrier_preempts (s : State) (k : ObjKey) (b : Barrier) : (s.setBarrier k b).preempts = s.preempts := rfl
@[simp] theorem State.setBarrier_saved (s : State) (k : ObjKey) (b : Barrier) : (s.setBarrier k b).saved = s.saved := rfl
@[simp] theorem State.setBarrier_lineBack (s : State) (k : ObjKey) (b : Barrier) : (s.setBarrier k b).lineBack = s.lineBack := rfl
@[simp] theorem State.setBarrier_completion (s : State) (k : ObjKey) (b : Barrier) : (s.setBarrier k b).completion = s.completion := rfl
@[simp] theorem State.setBarrier_nextId (s : State) (k : ObjKey) (b : Barrier) : (s.setBarrier k b).nextId = s.nextId := rfl
@[simp] theorem State.setBarrier_agenda (s : State) (k : ObjKey) (b : Barrier) : (s.setBarrier k b).agenda = s.agenda := rfl
@[simp] theorem State.setBarrier_pace (s : State) (k : ObjKey) (b : Barrier) : (s.setBarrier k b).pace = s.pace := rfl
@[simp] theorem State.setBarrier_focus (s : State) (k : ObjKey) (b : Barrier) : (s.setBarrier k b).focus = s.focus := rfl
@[simp] theorem State.setBarrier_cur (s : State) (k : ObjKey) (b : Barrier) : (s.setBarrier k b).cur = s.cur := rfl
@[simp] theorem State.setBarrier_via (s : State) (k : ObjKey) (b : Barrier) : (s.setBarrier k b).via = s.via := rfl
@[simp] theorem State.setBarrier_trans (s : State) (k : ObjKey) (b : Barrier) : (s.setBarrier k b).trans = s.trans := rfl
@[simp] theorem State.setBarrier_pairView (s : State) (k : ObjKey) (b : Barrier) : (s.setBarrier k b).pairView = s.pairView := rfl
@[simp] theorem State.setBarrier_last (s : State) (k : ObjKey) (b : Barrier) : (s.setBarrier k b).last = s.last := rfl
@[simp] theorem State.setBarrier_freeTick (s : State) (k : ObjKey) (b : Barrier) : (s.setBarrier k b).freeTick = s.freeTick := rfl

/-! ## Register writes -/

theorem Ctx.writeG_eq (x : Ctx) (n : BitVec 6) (w : Word) : x.writeG n w = { x with g := (x.writeG n w).g } := by
  unfold Ctx.writeG; split <;> rfl
theorem Ctx.writeK_eq (x : Ctx) (n : BitVec 3) (w : Word) : x.writeK n w = { x with k := (x.writeK n w).k } := by
  unfold Ctx.writeK; split <;> rfl
theorem Ctx.writeO_eq (x : Ctx) (n : BitVec 3) (w : Word) : x.writeO n w = { x with o := (x.writeO n w).o } := rfl
theorem Ctx.writeB_eq (x : Ctx) (n : BitVec 4) (w : Cap) : x.writeB n w = { x with b := (x.writeB n w).b } := rfl
theorem Ctx.writeV_eq (x : Ctx) (n : BitVec 5) (w : Vec) : x.writeV n w = { x with v := (x.writeV n w).v } := rfl
theorem Ctx.writeH_eq (x : Ctx) (n : BitVec 4) (w : Handle) : x.writeH n w = { x with h := (x.writeH n w).h } := rfl
theorem Ctx.writeS_eq (x : Ctx) (n : BitVec 3) (w : Option Stream) : x.writeS n w = { x with st := (x.writeS n w).st } := rfl

@[simp] theorem Ctx.writeG_pc (x : Ctx) (n : BitVec 6) (w : Word) : (x.writeG n w).pc = x.pc := by
  unfold Ctx.writeG; split <;> rfl
@[simp] theorem Ctx.writeG_o (x : Ctx) (n : BitVec 6) (w : Word) : (x.writeG n w).o = x.o := by
  unfold Ctx.writeG; split <;> rfl
@[simp] theorem Ctx.writeG_k (x : Ctx) (n : BitVec 6) (w : Word) : (x.writeG n w).k = x.k := by
  unfold Ctx.writeG; split <;> rfl
@[simp] theorem Ctx.writeG_b (x : Ctx) (n : BitVec 6) (w : Word) : (x.writeG n w).b = x.b := by
  unfold Ctx.writeG; split <;> rfl
@[simp] theorem Ctx.writeG_v (x : Ctx) (n : BitVec 6) (w : Word) : (x.writeG n w).v = x.v := by
  unfold Ctx.writeG; split <;> rfl
@[simp] theorem Ctx.writeG_h (x : Ctx) (n : BitVec 6) (w : Word) : (x.writeG n w).h = x.h := by
  unfold Ctx.writeG; split <;> rfl
@[simp] theorem Ctx.writeG_st (x : Ctx) (n : BitVec 6) (w : Word) : (x.writeG n w).st = x.st := by
  unfold Ctx.writeG; split <;> rfl
@[simp] theorem Ctx.writeG_pd (x : Ctx) (n : BitVec 6) (w : Word) : (x.writeG n w).pd = x.pd := by
  unfold Ctx.writeG; split <;> rfl
@[simp] theorem Ctx.writeG_status (x : Ctx) (n : BitVec 6) (w : Word) : (x.writeG n w).status = x.status := by
  unfold Ctx.writeG; split <;> rfl
@[simp] theorem Ctx.writeG_epc (x : Ctx) (n : BitVec 6) (w : Word) : (x.writeG n w).epc = x.epc := by
  unfold Ctx.writeG; split <;> rfl
@[simp] theorem Ctx.writeG_ecause (x : Ctx) (n : BitVec 6) (w : Word) : (x.writeG n w).ecause = x.ecause := by
  unfold Ctx.writeG; split <;> rfl
@[simp] theorem Ctx.writeG_eaddr (x : Ctx) (n : BitVec 6) (w : Word) : (x.writeG n w).eaddr = x.eaddr := by
  unfold Ctx.writeG; split <;> rfl
@[simp] theorem Ctx.writeG_einfo (x : Ctx) (n : BitVec 6) (w : Word) : (x.writeG n w).einfo = x.einfo := by
  unfold Ctx.writeG; split <;> rfl
@[simp] theorem Ctx.writeG_tvec (x : Ctx) (n : BitVec 6) (w : Word) : (x.writeG n w).tvec = x.tvec := by
  unfold Ctx.writeG; split <;> rfl
@[simp] theorem Ctx.writeG_estatus (x : Ctx) (n : BitVec 6) (w : Word) : (x.writeG n w).estatus = x.estatus := by
  unfold Ctx.writeG; split <;> rfl
@[simp] theorem Ctx.writeG_space (x : Ctx) (n : BitVec 6) (w : Word) : (x.writeG n w).space = x.space := by
  unfold Ctx.writeG; split <;> rfl
@[simp] theorem Ctx.writeG_gdem (x : Ctx) (n : BitVec 6) (w : Word) : (x.writeG n w).gdem = x.gdem := by
  unfold Ctx.writeG; split <;> rfl
@[simp] theorem Ctx.writeG_vdem (x : Ctx) (n : BitVec 6) (w : Word) : (x.writeG n w).vdem = x.vdem := by
  unfold Ctx.writeG; split <;> rfl
@[simp] theorem Ctx.writeG_adem (x : Ctx) (n : BitVec 6) (w : Word) : (x.writeG n w).adem = x.adem := by
  unfold Ctx.writeG; split <;> rfl
@[simp] theorem Ctx.writeG_ended (x : Ctx) (n : BitVec 6) (w : Word) : (x.writeG n w).ended = x.ended := by
  unfold Ctx.writeG; split <;> rfl
@[simp] theorem Ctx.writeG_fresh (x : Ctx) (n : BitVec 6) (w : Word) : (x.writeG n w).fresh = x.fresh := by
  unfold Ctx.writeG; split <;> rfl
@[simp] theorem Ctx.writeG_pend (x : Ctx) (n : BitVec 6) (w : Word) : (x.writeG n w).pend = x.pend := by
  unfold Ctx.writeG; split <;> rfl
@[simp] theorem Ctx.writeG_bara (x : Ctx) (n : BitVec 6) (w : Word) : (x.writeG n w).bara = x.bara := by
  unfold Ctx.writeG; split <;> rfl
@[simp] theorem Ctx.writeG_out (x : Ctx) (n : BitVec 6) (w : Word) : (x.writeG n w).out = x.out := by
  unfold Ctx.writeG; split <;> rfl
@[simp] theorem Ctx.writeG_held (x : Ctx) (n : BitVec 6) (w : Word) : (x.writeG n w).held = x.held := by
  unfold Ctx.writeG; split <;> rfl
@[simp] theorem Ctx.writeG_unmarked (x : Ctx) (n : BitVec 6) (w : Word) : (x.writeG n w).unmarked = x.unmarked := by
  unfold Ctx.writeG; split <;> rfl
@[simp] theorem Ctx.writeG_wait (x : Ctx) (n : BitVec 6) (w : Word) : (x.writeG n w).wait = x.wait := by
  unfold Ctx.writeG; split <;> rfl
@[simp] theorem Ctx.writeG_xch (x : Ctx) (n : BitVec 6) (w : Word) : (x.writeG n w).xch = x.xch := by
  unfold Ctx.writeG; split <;> rfl
@[simp] theorem Ctx.writeG_win (x : Ctx) (n : BitVec 6) (w : Word) : (x.writeG n w).win = x.win := by
  unfold Ctx.writeG; split <;> rfl
@[simp] theorem Ctx.writeG_coming (x : Ctx) (n : BitVec 6) (w : Word) : (x.writeG n w).coming = x.coming := by
  unfold Ctx.writeG; split <;> rfl
@[simp] theorem Ctx.writeG_issued (x : Ctx) (n : BitVec 6) (w : Word) : (x.writeG n w).issued = x.issued := by
  unfold Ctx.writeG; split <;> rfl
@[simp] theorem Ctx.writeG_owed (x : Ctx) (n : BitVec 6) (w : Word) : (x.writeG n w).owed = x.owed := by
  unfold Ctx.writeG; split <;> rfl
@[simp] theorem Ctx.writeG_early (x : Ctx) (n : BitVec 6) (w : Word) : (x.writeG n w).early = x.early := by
  unfold Ctx.writeG; split <;> rfl

@[simp] theorem Ctx.writeK_pc (x : Ctx) (n : BitVec 3) (w : Word) : (x.writeK n w).pc = x.pc := by
  unfold Ctx.writeK; split <;> rfl
@[simp] theorem Ctx.writeK_g (x : Ctx) (n : BitVec 3) (w : Word) : (x.writeK n w).g = x.g := by
  unfold Ctx.writeK; split <;> rfl
@[simp] theorem Ctx.writeK_o (x : Ctx) (n : BitVec 3) (w : Word) : (x.writeK n w).o = x.o := by
  unfold Ctx.writeK; split <;> rfl
@[simp] theorem Ctx.writeK_b (x : Ctx) (n : BitVec 3) (w : Word) : (x.writeK n w).b = x.b := by
  unfold Ctx.writeK; split <;> rfl
@[simp] theorem Ctx.writeK_v (x : Ctx) (n : BitVec 3) (w : Word) : (x.writeK n w).v = x.v := by
  unfold Ctx.writeK; split <;> rfl
@[simp] theorem Ctx.writeK_h (x : Ctx) (n : BitVec 3) (w : Word) : (x.writeK n w).h = x.h := by
  unfold Ctx.writeK; split <;> rfl
@[simp] theorem Ctx.writeK_st (x : Ctx) (n : BitVec 3) (w : Word) : (x.writeK n w).st = x.st := by
  unfold Ctx.writeK; split <;> rfl
@[simp] theorem Ctx.writeK_pd (x : Ctx) (n : BitVec 3) (w : Word) : (x.writeK n w).pd = x.pd := by
  unfold Ctx.writeK; split <;> rfl
@[simp] theorem Ctx.writeK_status (x : Ctx) (n : BitVec 3) (w : Word) : (x.writeK n w).status = x.status := by
  unfold Ctx.writeK; split <;> rfl
@[simp] theorem Ctx.writeK_epc (x : Ctx) (n : BitVec 3) (w : Word) : (x.writeK n w).epc = x.epc := by
  unfold Ctx.writeK; split <;> rfl
@[simp] theorem Ctx.writeK_ecause (x : Ctx) (n : BitVec 3) (w : Word) : (x.writeK n w).ecause = x.ecause := by
  unfold Ctx.writeK; split <;> rfl
@[simp] theorem Ctx.writeK_eaddr (x : Ctx) (n : BitVec 3) (w : Word) : (x.writeK n w).eaddr = x.eaddr := by
  unfold Ctx.writeK; split <;> rfl
@[simp] theorem Ctx.writeK_einfo (x : Ctx) (n : BitVec 3) (w : Word) : (x.writeK n w).einfo = x.einfo := by
  unfold Ctx.writeK; split <;> rfl
@[simp] theorem Ctx.writeK_tvec (x : Ctx) (n : BitVec 3) (w : Word) : (x.writeK n w).tvec = x.tvec := by
  unfold Ctx.writeK; split <;> rfl
@[simp] theorem Ctx.writeK_estatus (x : Ctx) (n : BitVec 3) (w : Word) : (x.writeK n w).estatus = x.estatus := by
  unfold Ctx.writeK; split <;> rfl
@[simp] theorem Ctx.writeK_space (x : Ctx) (n : BitVec 3) (w : Word) : (x.writeK n w).space = x.space := by
  unfold Ctx.writeK; split <;> rfl
@[simp] theorem Ctx.writeK_gdem (x : Ctx) (n : BitVec 3) (w : Word) : (x.writeK n w).gdem = x.gdem := by
  unfold Ctx.writeK; split <;> rfl
@[simp] theorem Ctx.writeK_vdem (x : Ctx) (n : BitVec 3) (w : Word) : (x.writeK n w).vdem = x.vdem := by
  unfold Ctx.writeK; split <;> rfl
@[simp] theorem Ctx.writeK_adem (x : Ctx) (n : BitVec 3) (w : Word) : (x.writeK n w).adem = x.adem := by
  unfold Ctx.writeK; split <;> rfl
@[simp] theorem Ctx.writeK_ended (x : Ctx) (n : BitVec 3) (w : Word) : (x.writeK n w).ended = x.ended := by
  unfold Ctx.writeK; split <;> rfl
@[simp] theorem Ctx.writeK_fresh (x : Ctx) (n : BitVec 3) (w : Word) : (x.writeK n w).fresh = x.fresh := by
  unfold Ctx.writeK; split <;> rfl
@[simp] theorem Ctx.writeK_pend (x : Ctx) (n : BitVec 3) (w : Word) : (x.writeK n w).pend = x.pend := by
  unfold Ctx.writeK; split <;> rfl
@[simp] theorem Ctx.writeK_bara (x : Ctx) (n : BitVec 3) (w : Word) : (x.writeK n w).bara = x.bara := by
  unfold Ctx.writeK; split <;> rfl
@[simp] theorem Ctx.writeK_out (x : Ctx) (n : BitVec 3) (w : Word) : (x.writeK n w).out = x.out := by
  unfold Ctx.writeK; split <;> rfl
@[simp] theorem Ctx.writeK_held (x : Ctx) (n : BitVec 3) (w : Word) : (x.writeK n w).held = x.held := by
  unfold Ctx.writeK; split <;> rfl
@[simp] theorem Ctx.writeK_unmarked (x : Ctx) (n : BitVec 3) (w : Word) : (x.writeK n w).unmarked = x.unmarked := by
  unfold Ctx.writeK; split <;> rfl
@[simp] theorem Ctx.writeK_wait (x : Ctx) (n : BitVec 3) (w : Word) : (x.writeK n w).wait = x.wait := by
  unfold Ctx.writeK; split <;> rfl
@[simp] theorem Ctx.writeK_xch (x : Ctx) (n : BitVec 3) (w : Word) : (x.writeK n w).xch = x.xch := by
  unfold Ctx.writeK; split <;> rfl
@[simp] theorem Ctx.writeK_win (x : Ctx) (n : BitVec 3) (w : Word) : (x.writeK n w).win = x.win := by
  unfold Ctx.writeK; split <;> rfl
@[simp] theorem Ctx.writeK_coming (x : Ctx) (n : BitVec 3) (w : Word) : (x.writeK n w).coming = x.coming := by
  unfold Ctx.writeK; split <;> rfl
@[simp] theorem Ctx.writeK_issued (x : Ctx) (n : BitVec 3) (w : Word) : (x.writeK n w).issued = x.issued := by
  unfold Ctx.writeK; split <;> rfl
@[simp] theorem Ctx.writeK_owed (x : Ctx) (n : BitVec 3) (w : Word) : (x.writeK n w).owed = x.owed := by
  unfold Ctx.writeK; split <;> rfl
@[simp] theorem Ctx.writeK_early (x : Ctx) (n : BitVec 3) (w : Word) : (x.writeK n w).early = x.early := by
  unfold Ctx.writeK; split <;> rfl

@[simp] theorem Ctx.writeO_pc (x : Ctx) (n : BitVec 3) (w : Word) : (x.writeO n w).pc = x.pc := rfl
@[simp] theorem Ctx.writeO_g (x : Ctx) (n : BitVec 3) (w : Word) : (x.writeO n w).g = x.g := rfl
@[simp] theorem Ctx.writeO_k (x : Ctx) (n : BitVec 3) (w : Word) : (x.writeO n w).k = x.k := rfl
@[simp] theorem Ctx.writeO_b (x : Ctx) (n : BitVec 3) (w : Word) : (x.writeO n w).b = x.b := rfl
@[simp] theorem Ctx.writeO_v (x : Ctx) (n : BitVec 3) (w : Word) : (x.writeO n w).v = x.v := rfl
@[simp] theorem Ctx.writeO_h (x : Ctx) (n : BitVec 3) (w : Word) : (x.writeO n w).h = x.h := rfl
@[simp] theorem Ctx.writeO_st (x : Ctx) (n : BitVec 3) (w : Word) : (x.writeO n w).st = x.st := rfl
@[simp] theorem Ctx.writeO_pd (x : Ctx) (n : BitVec 3) (w : Word) : (x.writeO n w).pd = x.pd := rfl
@[simp] theorem Ctx.writeO_status (x : Ctx) (n : BitVec 3) (w : Word) : (x.writeO n w).status = x.status := rfl
@[simp] theorem Ctx.writeO_epc (x : Ctx) (n : BitVec 3) (w : Word) : (x.writeO n w).epc = x.epc := rfl
@[simp] theorem Ctx.writeO_ecause (x : Ctx) (n : BitVec 3) (w : Word) : (x.writeO n w).ecause = x.ecause := rfl
@[simp] theorem Ctx.writeO_eaddr (x : Ctx) (n : BitVec 3) (w : Word) : (x.writeO n w).eaddr = x.eaddr := rfl
@[simp] theorem Ctx.writeO_einfo (x : Ctx) (n : BitVec 3) (w : Word) : (x.writeO n w).einfo = x.einfo := rfl
@[simp] theorem Ctx.writeO_tvec (x : Ctx) (n : BitVec 3) (w : Word) : (x.writeO n w).tvec = x.tvec := rfl
@[simp] theorem Ctx.writeO_estatus (x : Ctx) (n : BitVec 3) (w : Word) : (x.writeO n w).estatus = x.estatus := rfl
@[simp] theorem Ctx.writeO_space (x : Ctx) (n : BitVec 3) (w : Word) : (x.writeO n w).space = x.space := rfl
@[simp] theorem Ctx.writeO_gdem (x : Ctx) (n : BitVec 3) (w : Word) : (x.writeO n w).gdem = x.gdem := rfl
@[simp] theorem Ctx.writeO_vdem (x : Ctx) (n : BitVec 3) (w : Word) : (x.writeO n w).vdem = x.vdem := rfl
@[simp] theorem Ctx.writeO_adem (x : Ctx) (n : BitVec 3) (w : Word) : (x.writeO n w).adem = x.adem := rfl
@[simp] theorem Ctx.writeO_ended (x : Ctx) (n : BitVec 3) (w : Word) : (x.writeO n w).ended = x.ended := rfl
@[simp] theorem Ctx.writeO_fresh (x : Ctx) (n : BitVec 3) (w : Word) : (x.writeO n w).fresh = x.fresh := rfl
@[simp] theorem Ctx.writeO_pend (x : Ctx) (n : BitVec 3) (w : Word) : (x.writeO n w).pend = x.pend := rfl
@[simp] theorem Ctx.writeO_bara (x : Ctx) (n : BitVec 3) (w : Word) : (x.writeO n w).bara = x.bara := rfl
@[simp] theorem Ctx.writeO_out (x : Ctx) (n : BitVec 3) (w : Word) : (x.writeO n w).out = x.out := rfl
@[simp] theorem Ctx.writeO_held (x : Ctx) (n : BitVec 3) (w : Word) : (x.writeO n w).held = x.held := rfl
@[simp] theorem Ctx.writeO_unmarked (x : Ctx) (n : BitVec 3) (w : Word) : (x.writeO n w).unmarked = x.unmarked := rfl
@[simp] theorem Ctx.writeO_wait (x : Ctx) (n : BitVec 3) (w : Word) : (x.writeO n w).wait = x.wait := rfl
@[simp] theorem Ctx.writeO_xch (x : Ctx) (n : BitVec 3) (w : Word) : (x.writeO n w).xch = x.xch := rfl
@[simp] theorem Ctx.writeO_win (x : Ctx) (n : BitVec 3) (w : Word) : (x.writeO n w).win = x.win := rfl
@[simp] theorem Ctx.writeO_coming (x : Ctx) (n : BitVec 3) (w : Word) : (x.writeO n w).coming = x.coming := rfl
@[simp] theorem Ctx.writeO_issued (x : Ctx) (n : BitVec 3) (w : Word) : (x.writeO n w).issued = x.issued := rfl
@[simp] theorem Ctx.writeO_owed (x : Ctx) (n : BitVec 3) (w : Word) : (x.writeO n w).owed = x.owed := rfl
@[simp] theorem Ctx.writeO_early (x : Ctx) (n : BitVec 3) (w : Word) : (x.writeO n w).early = x.early := rfl

@[simp] theorem Ctx.writeB_pc (x : Ctx) (n : BitVec 4) (w : Cap) : (x.writeB n w).pc = x.pc := rfl
@[simp] theorem Ctx.writeB_g (x : Ctx) (n : BitVec 4) (w : Cap) : (x.writeB n w).g = x.g := rfl
@[simp] theorem Ctx.writeB_o (x : Ctx) (n : BitVec 4) (w : Cap) : (x.writeB n w).o = x.o := rfl
@[simp] theorem Ctx.writeB_k (x : Ctx) (n : BitVec 4) (w : Cap) : (x.writeB n w).k = x.k := rfl
@[simp] theorem Ctx.writeB_v (x : Ctx) (n : BitVec 4) (w : Cap) : (x.writeB n w).v = x.v := rfl
@[simp] theorem Ctx.writeB_h (x : Ctx) (n : BitVec 4) (w : Cap) : (x.writeB n w).h = x.h := rfl
@[simp] theorem Ctx.writeB_st (x : Ctx) (n : BitVec 4) (w : Cap) : (x.writeB n w).st = x.st := rfl
@[simp] theorem Ctx.writeB_pd (x : Ctx) (n : BitVec 4) (w : Cap) : (x.writeB n w).pd = x.pd := rfl
@[simp] theorem Ctx.writeB_status (x : Ctx) (n : BitVec 4) (w : Cap) : (x.writeB n w).status = x.status := rfl
@[simp] theorem Ctx.writeB_epc (x : Ctx) (n : BitVec 4) (w : Cap) : (x.writeB n w).epc = x.epc := rfl
@[simp] theorem Ctx.writeB_ecause (x : Ctx) (n : BitVec 4) (w : Cap) : (x.writeB n w).ecause = x.ecause := rfl
@[simp] theorem Ctx.writeB_eaddr (x : Ctx) (n : BitVec 4) (w : Cap) : (x.writeB n w).eaddr = x.eaddr := rfl
@[simp] theorem Ctx.writeB_einfo (x : Ctx) (n : BitVec 4) (w : Cap) : (x.writeB n w).einfo = x.einfo := rfl
@[simp] theorem Ctx.writeB_tvec (x : Ctx) (n : BitVec 4) (w : Cap) : (x.writeB n w).tvec = x.tvec := rfl
@[simp] theorem Ctx.writeB_estatus (x : Ctx) (n : BitVec 4) (w : Cap) : (x.writeB n w).estatus = x.estatus := rfl
@[simp] theorem Ctx.writeB_space (x : Ctx) (n : BitVec 4) (w : Cap) : (x.writeB n w).space = x.space := rfl
@[simp] theorem Ctx.writeB_gdem (x : Ctx) (n : BitVec 4) (w : Cap) : (x.writeB n w).gdem = x.gdem := rfl
@[simp] theorem Ctx.writeB_vdem (x : Ctx) (n : BitVec 4) (w : Cap) : (x.writeB n w).vdem = x.vdem := rfl
@[simp] theorem Ctx.writeB_adem (x : Ctx) (n : BitVec 4) (w : Cap) : (x.writeB n w).adem = x.adem := rfl
@[simp] theorem Ctx.writeB_ended (x : Ctx) (n : BitVec 4) (w : Cap) : (x.writeB n w).ended = x.ended := rfl
@[simp] theorem Ctx.writeB_fresh (x : Ctx) (n : BitVec 4) (w : Cap) : (x.writeB n w).fresh = x.fresh := rfl
@[simp] theorem Ctx.writeB_pend (x : Ctx) (n : BitVec 4) (w : Cap) : (x.writeB n w).pend = x.pend := rfl
@[simp] theorem Ctx.writeB_bara (x : Ctx) (n : BitVec 4) (w : Cap) : (x.writeB n w).bara = x.bara := rfl
@[simp] theorem Ctx.writeB_out (x : Ctx) (n : BitVec 4) (w : Cap) : (x.writeB n w).out = x.out := rfl
@[simp] theorem Ctx.writeB_held (x : Ctx) (n : BitVec 4) (w : Cap) : (x.writeB n w).held = x.held := rfl
@[simp] theorem Ctx.writeB_unmarked (x : Ctx) (n : BitVec 4) (w : Cap) : (x.writeB n w).unmarked = x.unmarked := rfl
@[simp] theorem Ctx.writeB_wait (x : Ctx) (n : BitVec 4) (w : Cap) : (x.writeB n w).wait = x.wait := rfl
@[simp] theorem Ctx.writeB_xch (x : Ctx) (n : BitVec 4) (w : Cap) : (x.writeB n w).xch = x.xch := rfl
@[simp] theorem Ctx.writeB_win (x : Ctx) (n : BitVec 4) (w : Cap) : (x.writeB n w).win = x.win := rfl
@[simp] theorem Ctx.writeB_coming (x : Ctx) (n : BitVec 4) (w : Cap) : (x.writeB n w).coming = x.coming := rfl
@[simp] theorem Ctx.writeB_issued (x : Ctx) (n : BitVec 4) (w : Cap) : (x.writeB n w).issued = x.issued := rfl
@[simp] theorem Ctx.writeB_owed (x : Ctx) (n : BitVec 4) (w : Cap) : (x.writeB n w).owed = x.owed := rfl
@[simp] theorem Ctx.writeB_early (x : Ctx) (n : BitVec 4) (w : Cap) : (x.writeB n w).early = x.early := rfl

@[simp] theorem Ctx.writeV_pc (x : Ctx) (n : BitVec 5) (w : Vec) : (x.writeV n w).pc = x.pc := rfl
@[simp] theorem Ctx.writeV_g (x : Ctx) (n : BitVec 5) (w : Vec) : (x.writeV n w).g = x.g := rfl
@[simp] theorem Ctx.writeV_o (x : Ctx) (n : BitVec 5) (w : Vec) : (x.writeV n w).o = x.o := rfl
@[simp] theorem Ctx.writeV_k (x : Ctx) (n : BitVec 5) (w : Vec) : (x.writeV n w).k = x.k := rfl
@[simp] theorem Ctx.writeV_b (x : Ctx) (n : BitVec 5) (w : Vec) : (x.writeV n w).b = x.b := rfl
@[simp] theorem Ctx.writeV_h (x : Ctx) (n : BitVec 5) (w : Vec) : (x.writeV n w).h = x.h := rfl
@[simp] theorem Ctx.writeV_st (x : Ctx) (n : BitVec 5) (w : Vec) : (x.writeV n w).st = x.st := rfl
@[simp] theorem Ctx.writeV_pd (x : Ctx) (n : BitVec 5) (w : Vec) : (x.writeV n w).pd = x.pd := rfl
@[simp] theorem Ctx.writeV_status (x : Ctx) (n : BitVec 5) (w : Vec) : (x.writeV n w).status = x.status := rfl
@[simp] theorem Ctx.writeV_epc (x : Ctx) (n : BitVec 5) (w : Vec) : (x.writeV n w).epc = x.epc := rfl
@[simp] theorem Ctx.writeV_ecause (x : Ctx) (n : BitVec 5) (w : Vec) : (x.writeV n w).ecause = x.ecause := rfl
@[simp] theorem Ctx.writeV_eaddr (x : Ctx) (n : BitVec 5) (w : Vec) : (x.writeV n w).eaddr = x.eaddr := rfl
@[simp] theorem Ctx.writeV_einfo (x : Ctx) (n : BitVec 5) (w : Vec) : (x.writeV n w).einfo = x.einfo := rfl
@[simp] theorem Ctx.writeV_tvec (x : Ctx) (n : BitVec 5) (w : Vec) : (x.writeV n w).tvec = x.tvec := rfl
@[simp] theorem Ctx.writeV_estatus (x : Ctx) (n : BitVec 5) (w : Vec) : (x.writeV n w).estatus = x.estatus := rfl
@[simp] theorem Ctx.writeV_space (x : Ctx) (n : BitVec 5) (w : Vec) : (x.writeV n w).space = x.space := rfl
@[simp] theorem Ctx.writeV_gdem (x : Ctx) (n : BitVec 5) (w : Vec) : (x.writeV n w).gdem = x.gdem := rfl
@[simp] theorem Ctx.writeV_vdem (x : Ctx) (n : BitVec 5) (w : Vec) : (x.writeV n w).vdem = x.vdem := rfl
@[simp] theorem Ctx.writeV_adem (x : Ctx) (n : BitVec 5) (w : Vec) : (x.writeV n w).adem = x.adem := rfl
@[simp] theorem Ctx.writeV_ended (x : Ctx) (n : BitVec 5) (w : Vec) : (x.writeV n w).ended = x.ended := rfl
@[simp] theorem Ctx.writeV_fresh (x : Ctx) (n : BitVec 5) (w : Vec) : (x.writeV n w).fresh = x.fresh := rfl
@[simp] theorem Ctx.writeV_pend (x : Ctx) (n : BitVec 5) (w : Vec) : (x.writeV n w).pend = x.pend := rfl
@[simp] theorem Ctx.writeV_bara (x : Ctx) (n : BitVec 5) (w : Vec) : (x.writeV n w).bara = x.bara := rfl
@[simp] theorem Ctx.writeV_out (x : Ctx) (n : BitVec 5) (w : Vec) : (x.writeV n w).out = x.out := rfl
@[simp] theorem Ctx.writeV_held (x : Ctx) (n : BitVec 5) (w : Vec) : (x.writeV n w).held = x.held := rfl
@[simp] theorem Ctx.writeV_unmarked (x : Ctx) (n : BitVec 5) (w : Vec) : (x.writeV n w).unmarked = x.unmarked := rfl
@[simp] theorem Ctx.writeV_wait (x : Ctx) (n : BitVec 5) (w : Vec) : (x.writeV n w).wait = x.wait := rfl
@[simp] theorem Ctx.writeV_xch (x : Ctx) (n : BitVec 5) (w : Vec) : (x.writeV n w).xch = x.xch := rfl
@[simp] theorem Ctx.writeV_win (x : Ctx) (n : BitVec 5) (w : Vec) : (x.writeV n w).win = x.win := rfl
@[simp] theorem Ctx.writeV_coming (x : Ctx) (n : BitVec 5) (w : Vec) : (x.writeV n w).coming = x.coming := rfl
@[simp] theorem Ctx.writeV_issued (x : Ctx) (n : BitVec 5) (w : Vec) : (x.writeV n w).issued = x.issued := rfl
@[simp] theorem Ctx.writeV_owed (x : Ctx) (n : BitVec 5) (w : Vec) : (x.writeV n w).owed = x.owed := rfl
@[simp] theorem Ctx.writeV_early (x : Ctx) (n : BitVec 5) (w : Vec) : (x.writeV n w).early = x.early := rfl

@[simp] theorem Ctx.writeH_pc (x : Ctx) (n : BitVec 4) (w : Handle) : (x.writeH n w).pc = x.pc := rfl
@[simp] theorem Ctx.writeH_g (x : Ctx) (n : BitVec 4) (w : Handle) : (x.writeH n w).g = x.g := rfl
@[simp] theorem Ctx.writeH_o (x : Ctx) (n : BitVec 4) (w : Handle) : (x.writeH n w).o = x.o := rfl
@[simp] theorem Ctx.writeH_k (x : Ctx) (n : BitVec 4) (w : Handle) : (x.writeH n w).k = x.k := rfl
@[simp] theorem Ctx.writeH_b (x : Ctx) (n : BitVec 4) (w : Handle) : (x.writeH n w).b = x.b := rfl
@[simp] theorem Ctx.writeH_v (x : Ctx) (n : BitVec 4) (w : Handle) : (x.writeH n w).v = x.v := rfl
@[simp] theorem Ctx.writeH_st (x : Ctx) (n : BitVec 4) (w : Handle) : (x.writeH n w).st = x.st := rfl
@[simp] theorem Ctx.writeH_pd (x : Ctx) (n : BitVec 4) (w : Handle) : (x.writeH n w).pd = x.pd := rfl
@[simp] theorem Ctx.writeH_status (x : Ctx) (n : BitVec 4) (w : Handle) : (x.writeH n w).status = x.status := rfl
@[simp] theorem Ctx.writeH_epc (x : Ctx) (n : BitVec 4) (w : Handle) : (x.writeH n w).epc = x.epc := rfl
@[simp] theorem Ctx.writeH_ecause (x : Ctx) (n : BitVec 4) (w : Handle) : (x.writeH n w).ecause = x.ecause := rfl
@[simp] theorem Ctx.writeH_eaddr (x : Ctx) (n : BitVec 4) (w : Handle) : (x.writeH n w).eaddr = x.eaddr := rfl
@[simp] theorem Ctx.writeH_einfo (x : Ctx) (n : BitVec 4) (w : Handle) : (x.writeH n w).einfo = x.einfo := rfl
@[simp] theorem Ctx.writeH_tvec (x : Ctx) (n : BitVec 4) (w : Handle) : (x.writeH n w).tvec = x.tvec := rfl
@[simp] theorem Ctx.writeH_estatus (x : Ctx) (n : BitVec 4) (w : Handle) : (x.writeH n w).estatus = x.estatus := rfl
@[simp] theorem Ctx.writeH_space (x : Ctx) (n : BitVec 4) (w : Handle) : (x.writeH n w).space = x.space := rfl
@[simp] theorem Ctx.writeH_gdem (x : Ctx) (n : BitVec 4) (w : Handle) : (x.writeH n w).gdem = x.gdem := rfl
@[simp] theorem Ctx.writeH_vdem (x : Ctx) (n : BitVec 4) (w : Handle) : (x.writeH n w).vdem = x.vdem := rfl
@[simp] theorem Ctx.writeH_adem (x : Ctx) (n : BitVec 4) (w : Handle) : (x.writeH n w).adem = x.adem := rfl
@[simp] theorem Ctx.writeH_ended (x : Ctx) (n : BitVec 4) (w : Handle) : (x.writeH n w).ended = x.ended := rfl
@[simp] theorem Ctx.writeH_fresh (x : Ctx) (n : BitVec 4) (w : Handle) : (x.writeH n w).fresh = x.fresh := rfl
@[simp] theorem Ctx.writeH_pend (x : Ctx) (n : BitVec 4) (w : Handle) : (x.writeH n w).pend = x.pend := rfl
@[simp] theorem Ctx.writeH_bara (x : Ctx) (n : BitVec 4) (w : Handle) : (x.writeH n w).bara = x.bara := rfl
@[simp] theorem Ctx.writeH_out (x : Ctx) (n : BitVec 4) (w : Handle) : (x.writeH n w).out = x.out := rfl
@[simp] theorem Ctx.writeH_held (x : Ctx) (n : BitVec 4) (w : Handle) : (x.writeH n w).held = x.held := rfl
@[simp] theorem Ctx.writeH_unmarked (x : Ctx) (n : BitVec 4) (w : Handle) : (x.writeH n w).unmarked = x.unmarked := rfl
@[simp] theorem Ctx.writeH_wait (x : Ctx) (n : BitVec 4) (w : Handle) : (x.writeH n w).wait = x.wait := rfl
@[simp] theorem Ctx.writeH_xch (x : Ctx) (n : BitVec 4) (w : Handle) : (x.writeH n w).xch = x.xch := rfl
@[simp] theorem Ctx.writeH_win (x : Ctx) (n : BitVec 4) (w : Handle) : (x.writeH n w).win = x.win := rfl
@[simp] theorem Ctx.writeH_coming (x : Ctx) (n : BitVec 4) (w : Handle) : (x.writeH n w).coming = x.coming := rfl
@[simp] theorem Ctx.writeH_issued (x : Ctx) (n : BitVec 4) (w : Handle) : (x.writeH n w).issued = x.issued := rfl
@[simp] theorem Ctx.writeH_owed (x : Ctx) (n : BitVec 4) (w : Handle) : (x.writeH n w).owed = x.owed := rfl
@[simp] theorem Ctx.writeH_early (x : Ctx) (n : BitVec 4) (w : Handle) : (x.writeH n w).early = x.early := rfl

@[simp] theorem Ctx.writeS_pc (x : Ctx) (n : BitVec 3) (w : Option Stream) : (x.writeS n w).pc = x.pc := rfl
@[simp] theorem Ctx.writeS_g (x : Ctx) (n : BitVec 3) (w : Option Stream) : (x.writeS n w).g = x.g := rfl
@[simp] theorem Ctx.writeS_o (x : Ctx) (n : BitVec 3) (w : Option Stream) : (x.writeS n w).o = x.o := rfl
@[simp] theorem Ctx.writeS_k (x : Ctx) (n : BitVec 3) (w : Option Stream) : (x.writeS n w).k = x.k := rfl
@[simp] theorem Ctx.writeS_b (x : Ctx) (n : BitVec 3) (w : Option Stream) : (x.writeS n w).b = x.b := rfl
@[simp] theorem Ctx.writeS_v (x : Ctx) (n : BitVec 3) (w : Option Stream) : (x.writeS n w).v = x.v := rfl
@[simp] theorem Ctx.writeS_h (x : Ctx) (n : BitVec 3) (w : Option Stream) : (x.writeS n w).h = x.h := rfl
@[simp] theorem Ctx.writeS_pd (x : Ctx) (n : BitVec 3) (w : Option Stream) : (x.writeS n w).pd = x.pd := rfl
@[simp] theorem Ctx.writeS_status (x : Ctx) (n : BitVec 3) (w : Option Stream) : (x.writeS n w).status = x.status := rfl
@[simp] theorem Ctx.writeS_epc (x : Ctx) (n : BitVec 3) (w : Option Stream) : (x.writeS n w).epc = x.epc := rfl
@[simp] theorem Ctx.writeS_ecause (x : Ctx) (n : BitVec 3) (w : Option Stream) : (x.writeS n w).ecause = x.ecause := rfl
@[simp] theorem Ctx.writeS_eaddr (x : Ctx) (n : BitVec 3) (w : Option Stream) : (x.writeS n w).eaddr = x.eaddr := rfl
@[simp] theorem Ctx.writeS_einfo (x : Ctx) (n : BitVec 3) (w : Option Stream) : (x.writeS n w).einfo = x.einfo := rfl
@[simp] theorem Ctx.writeS_tvec (x : Ctx) (n : BitVec 3) (w : Option Stream) : (x.writeS n w).tvec = x.tvec := rfl
@[simp] theorem Ctx.writeS_estatus (x : Ctx) (n : BitVec 3) (w : Option Stream) : (x.writeS n w).estatus = x.estatus := rfl
@[simp] theorem Ctx.writeS_space (x : Ctx) (n : BitVec 3) (w : Option Stream) : (x.writeS n w).space = x.space := rfl
@[simp] theorem Ctx.writeS_gdem (x : Ctx) (n : BitVec 3) (w : Option Stream) : (x.writeS n w).gdem = x.gdem := rfl
@[simp] theorem Ctx.writeS_vdem (x : Ctx) (n : BitVec 3) (w : Option Stream) : (x.writeS n w).vdem = x.vdem := rfl
@[simp] theorem Ctx.writeS_adem (x : Ctx) (n : BitVec 3) (w : Option Stream) : (x.writeS n w).adem = x.adem := rfl
@[simp] theorem Ctx.writeS_ended (x : Ctx) (n : BitVec 3) (w : Option Stream) : (x.writeS n w).ended = x.ended := rfl
@[simp] theorem Ctx.writeS_fresh (x : Ctx) (n : BitVec 3) (w : Option Stream) : (x.writeS n w).fresh = x.fresh := rfl
@[simp] theorem Ctx.writeS_pend (x : Ctx) (n : BitVec 3) (w : Option Stream) : (x.writeS n w).pend = x.pend := rfl
@[simp] theorem Ctx.writeS_bara (x : Ctx) (n : BitVec 3) (w : Option Stream) : (x.writeS n w).bara = x.bara := rfl
@[simp] theorem Ctx.writeS_out (x : Ctx) (n : BitVec 3) (w : Option Stream) : (x.writeS n w).out = x.out := rfl
@[simp] theorem Ctx.writeS_held (x : Ctx) (n : BitVec 3) (w : Option Stream) : (x.writeS n w).held = x.held := rfl
@[simp] theorem Ctx.writeS_unmarked (x : Ctx) (n : BitVec 3) (w : Option Stream) : (x.writeS n w).unmarked = x.unmarked := rfl
@[simp] theorem Ctx.writeS_wait (x : Ctx) (n : BitVec 3) (w : Option Stream) : (x.writeS n w).wait = x.wait := rfl
@[simp] theorem Ctx.writeS_xch (x : Ctx) (n : BitVec 3) (w : Option Stream) : (x.writeS n w).xch = x.xch := rfl
@[simp] theorem Ctx.writeS_win (x : Ctx) (n : BitVec 3) (w : Option Stream) : (x.writeS n w).win = x.win := rfl
@[simp] theorem Ctx.writeS_coming (x : Ctx) (n : BitVec 3) (w : Option Stream) : (x.writeS n w).coming = x.coming := rfl
@[simp] theorem Ctx.writeS_issued (x : Ctx) (n : BitVec 3) (w : Option Stream) : (x.writeS n w).issued = x.issued := rfl
@[simp] theorem Ctx.writeS_owed (x : Ctx) (n : BitVec 3) (w : Option Stream) : (x.writeS n w).owed = x.owed := rfl
@[simp] theorem Ctx.writeS_early (x : Ctx) (n : BitVec 3) (w : Option Stream) : (x.writeS n w).early = x.early := rfl

end Sys2Proof.Machine
end

