-- ==== Sys2Proof/Laws/Issue.lean ====
section
/-! SUPPORT. The spec lemma of the issue of one instruction (R184): when it runs its body, and what it then leaves. -/

namespace Sys2Proof.Machine

/-! ## The issuing context -/

theorem State.me_live {s : State} {x : Ctx} (h : s.ctxs.get s.cur = some x) (g : Ctx → Ctx) : s.me g = s.setCtx s.cur (g x) := by
  simp [State.me, State.updCtx, h]

@[simp] theorem State.setCtx_setCtx (s : State) (a : Agent) (x y : Ctx) : (s.setCtx a x).setCtx a y = s.setCtx a y := by
  simp [State.setCtx]

/-- A context with any prefix consumed (R154). -/
def Ctx.prefixDone (x : Ctx) : Ctx := { x with status := x.status &&& ~~~4#64 }

@[simp] theorem Ctx.readG_prefixDone (x : Ctx) (n) : x.prefixDone.readG n = x.readG n := rfl
@[simp] theorem Ctx.readO_prefixDone (x : Ctx) (n) : x.prefixDone.readO n = x.readO n := rfl
@[simp] theorem Ctx.readK_prefixDone (x : Ctx) (n) : x.prefixDone.readK n = x.readK n := rfl
@[simp] theorem Ctx.readB_prefixDone (x : Ctx) (n) : x.prefixDone.readB n = x.readB n := rfl
@[simp] theorem Ctx.readV_prefixDone (x : Ctx) (n) : x.prefixDone.readV n = x.readV n := rfl
@[simp] theorem Ctx.readH_prefixDone (x : Ctx) (n) : x.prefixDone.readH n = x.readH n := rfl
@[simp] theorem Ctx.readS_prefixDone (x : Ctx) (n) : x.prefixDone.readS n = x.readS n := rfl

/-- The state in which an instruction's body runs: any prefix consumed (R154). -/
def State.begun (s : State) (x : Ctx) : State := s.setCtx s.cur (if x.pp then x.consumePrefix else x)

theorem Ctx.consume_status (x : Ctx) : (if x.pp then x.consumePrefix else x) = x.prefixDone := by
  unfold Ctx.pp
  split
  · simp [Ctx.consumePrefix, Ctx.prefixDone, setBit]
  · rename_i h
    have : x.status &&& ~~~4#64 = x.status := by
      apply BitVec.eq_of_getLsbD_eq
      intro i hi
      by_cases h2 : i = 2
      · subst h2; simpa using h
      · have : (~~~4#64).getLsbD i = true := (by decide : ∀ i < 64, i ≠ 2 → (~~~4#64).getLsbD i = true) i hi h2
        rw [BitVec.getLsbD_and, this, Bool.and_true]
    unfold Ctx.prefixDone
    rw [this]

theorem State.begun_live (s : State) (x : Ctx) :
    (s.begun x).ctxs.get s.cur = some x.prefixDone := by
  simp [State.begun, Ctx.consume_status]

@[simp] theorem State.begun_cur (s : State) (x : Ctx) : (s.begun x).cur = s.cur := rfl
@[simp] theorem State.begun_pairView (s : State) (x : Ctx) : (s.begun x).pairView = s.pairView := rfl
@[simp] theorem State.begun_runs (s : State) (x : Ctx) : (s.begun x).runs = s.runs := rfl

/-! ## The checks -/

theorem find_none_of_all {α : Type} {l : List α} {p : α → Bool} (h : ∀ o ∈ l, p o = true) : l.find? (fun o => ! p o) = none := by
  rw [List.find?_eq_none]; intro o ho; simp [h o ho]

/-- The conditions of `Issues` pass every check. -/
theorem State.Issues.passes {s : State} {i : Instr} {p : Pre} {x : Ctx} (h : s.Issues i p x) : issueFault s (s.view x) i p = none := by
  have hv : (s.view x).sv = x.sv ∧ (s.view x).pp = x.pp ∧ (s.view x).adem = x.adem ∧ (s.view x).gdem = x.gdem ∧ (s.view x).vdem = x.vdem := by
    unfold State.view; split <;> simp [Ctx.sv, Ctx.pp]
  have hf := h.formed
  unfold issueFault
  unfold Instr.WellFormed at hf
  cases hs : i.shape with
  | none => rfl
  | some q =>
    obtain ⟨sh, f⟩ := q
    rw [hs] at hf
    have hchk : sh.check f = none := by simpa using hf
    obtain ⟨hp, hft⟩ := h.allowed sh f hs
    have hfeat : (featuresOf sh.opc f.imm).any (fun n => ! s.feature n) = false := by
      rw [List.any_eq_false]; intro n hn; simp [hft n hn]
    have hdem : ∀ o ∈ usedFields i ++ p.regs, inDemand s.cur (s.view x) o = true := by
      intro o ho
      have := h.demand o ho
      unfold inDemand at this ⊢
      simp only [hv.2.2.2.1, hv.2.2.2.2]
      exact this
    have hacc : p.accs.any (fun n => decide ((s.view x).adem ≤ n)) = false := by
      rw [List.any_eq_false]; intro n hn; have := h.accs n hn; simp [hv.2.2.1]; omega
    simp only [hv.1, hp, hfeat, h.privileged sh f hs, hchk, h.own02, find_none_of_all h.open_, h.pds, h.own07, find_none_of_all hdem, hacc,
      h.own05]
    simp
    intro hpp
    obtain ⟨ok, ho, hk⟩ := h.prefixOk (hv.2.1 ▸ hpp)
    simp [ho, hk]

/-- An instruction that passes its checks runs its body, and what the body answers is retired. -/
theorem issue_runs {s : State} {i : Instr} {p : Pre} {x : Ctx} (h : s.Issues i p x) {body : Body} {e : Eff}
    (hb : body (s.view x) (s.begun x) = .ok e) : issue i p body s = .next (e.retire x.pc) := by
  have hf := h.formed
  unfold Instr.WellFormed at hf
  cases hs : i.shape with
  | none => rw [hs] at hf; simp at hf
  | some q =>
    obtain ⟨sh, f⟩ := q
    have hg : (p.gated && ! (s.view x).executes f) = false := by
      cases hgt : p.gated with
      | false => rfl
      | true => simp [h.runs hgt sh f hs]
    unfold issue
    simp only [h.live, hs, h.free, hg, h.passes]
    change (match body (s.view x) (s.begun x) with
      | .ok e => _
      | .error (.trap c ea ei) => _
      | .error (.trapIn s2 c ea ei) => _
      | .error (.kill c ea) => _
      | .error (.wait s2) => _) = _
    rw [hb]

/-- An instruction whose body finds a fault raises it. -/
theorem issue_traps {s : State} {i : Instr} {p : Pre} {x : Ctx} (h : s.Issues i p x) {body : Body} {c : Cause} {ea : Word} {ei : BitVec 32}
    (hb : body (s.view x) (s.begun x) = .error (.trap c ea ei)) : issue i p body s = .next ((s.begun x).raise c ea ei) := by
  have hf := h.formed
  unfold Instr.WellFormed at hf
  cases hs : i.shape with
  | none => rw [hs] at hf; simp at hf
  | some q =>
    obtain ⟨sh, f⟩ := q
    have hg : (p.gated && ! (s.view x).executes f) = false := by
      cases hgt : p.gated with
      | false => rfl
      | true => simp [h.runs hgt sh f hs]
    unfold issue
    simp only [h.live, hs, h.free, hg, h.passes]
    change (match body (s.view x) (s.begun x) with
      | .ok e => _
      | .error (.trap c ea ei) => _
      | .error (.trapIn s2 c ea ei) => _
      | .error (.kill c ea) => _
      | .error (.wait s2) => _) = _
    rw [hb]
    rfl

/-! ## Retirement -/

/-- An effect on the issuing context alone, with no jump and no trap after it. -/
theorem retire_plain {s : State} (x y : Ctx) (e : PdEntry) :
    Eff.retire { s := (s.begun x).setCtx s.cur y, pd := e } x.pc =
      s.afterIssue { y with pc := pcNext x.pc, pd := (e :: y.pd).take 4, issued := y.issued + 1, pend := y.pend.map PendCause.bump } := by
  have hget : ((s.begun x).setCtx s.cur y).ctxs.get ((s.begun x).setCtx s.cur y).cur = some y := by simp
  unfold Eff.retire
  simp only [Option.getD_none, State.me_live hget]
  unfold State.afterIssue State.counted
  cases hc : s.cur with
  | ctx c => simp [State.begun, State.setCtx, hc, Ctx.pushPd, Ctx.countIssue]
  | handler n =>
    cases hr : s.runs.get n <;> simp [State.begun, State.setCtx, hc, hr, Ctx.pushPd, Ctx.countIssue]

/-- An effect on the issuing context alone, with a jump. -/
theorem retire_jump {s : State} (x y : Ctx) (e : PdEntry) (q : Pc) :
    Eff.retire { s := (s.begun x).setCtx s.cur y, pd := e, jump := some q } x.pc =
      s.afterIssue { y with pc := q, pd := (e :: y.pd).take 4, issued := y.issued + 1, pend := y.pend.map PendCause.bump } := by
  have hget : ((s.begun x).setCtx s.cur y).ctxs.get ((s.begun x).setCtx s.cur y).cur = some y := by simp
  unfold Eff.retire
  simp only [Option.getD_some, State.me_live hget]
  unfold State.afterIssue State.counted
  cases hc : s.cur with
  | ctx c => simp [State.begun, State.setCtx, hc, Ctx.pushPd, Ctx.countIssue]
  | handler n =>
    cases hr : s.runs.get n <;> simp [State.begun, State.setCtx, hc, hr, Ctx.pushPd, Ctx.countIssue]

/-! ## Results -/

@[simp] theorem Ctx.readG_writeG (x : Ctx) (n m : BitVec 6) (w : Word) :
    (x.writeG n w).readG m = if n = m ∧ m ≠ 0 then w else x.readG m := by
  unfold Ctx.writeG Ctx.readG
  by_cases hm : m = 0#6
  · simp [hm]
  · by_cases hn : n = 0#6
    · subst hn
      simp [hm, Ne.symm hm]
    · by_cases h : n = m
      · subst h; simp [hm]
      · have : n.toNat ≠ m.toNat := fun e => h (BitVec.eq_of_toNat_eq e)
        simp [hm, hn, h, this]

@[simp] theorem Ctx.readK_writeK (x : Ctx) (n m : BitVec 3) (w : Word) :
    (x.writeK n w).readK m = if n = m ∧ m ≠ 0 then w else x.readK m := by
  unfold Ctx.writeK Ctx.readK
  by_cases hm : m = 0#3
  · simp [hm]
  · by_cases hn : n = 0#3
    · subst hn
      simp [hm, Ne.symm hm]
    · by_cases h : n = m
      · subst h; simp [hm]
      · have : n.toNat ≠ m.toNat := fun e => h (BitVec.eq_of_toNat_eq e)
        simp [hm, hn, h, this]

@[simp] theorem Ctx.readO_writeO (x : Ctx) (n m : BitVec 3) (w : Word) : (x.writeO n w).readO m = if n = m then w else x.readO m := by
  unfold Ctx.writeO Ctx.readO
  by_cases h : n = m
  · subst h; simp
  · have : n.toNat ≠ m.toNat := fun e => h (BitVec.eq_of_toNat_eq e)
    simp [h, this]

@[simp] theorem Ctx.readB_writeB (x : Ctx) (n m : BitVec 4) (w : Cap) : (x.writeB n w).readB m = if n = m then w else x.readB m := by
  unfold Ctx.writeB Ctx.readB
  by_cases h : n = m
  · subst h; simp
  · have : n.toNat ≠ m.toNat := fun e => h (BitVec.eq_of_toNat_eq e)
    simp [h, this]

@[simp] theorem Ctx.readV_writeV (x : Ctx) (n m : BitVec 5) (w : Vec) : (x.writeV n w).readV m = if n = m then w else x.readV m := by
  unfold Ctx.writeV Ctx.readV
  by_cases h : n = m
  · subst h; simp
  · have : n.toNat ≠ m.toNat := fun e => h (BitVec.eq_of_toNat_eq e)
    simp [h, this]

@[simp] theorem Ctx.readH_writeH (x : Ctx) (n m : BitVec 4) (w : Handle) : (x.writeH n w).readH m = if n = m then w else x.readH m := by
  unfold Ctx.writeH Ctx.readH
  by_cases h : n = m
  · subst h; simp
  · have : n.toNat ≠ m.toNat := fun e => h (BitVec.eq_of_toNat_eq e)
    simp [h, this]

@[simp] theorem Ctx.readS_writeS (x : Ctx) (n m : BitVec 3) (w : Option Stream) : (x.writeS n w).readS m = if n = m then w else x.readS m := by
  unfold Ctx.writeS Ctx.readS
  by_cases h : n = m
  · subst h; simp
  · have : n.toNat ≠ m.toNat := fun e => h (BitVec.eq_of_toNat_eq e)
    simp [h, this]

/-- A context with its prefix consumed, the pc moved on and a result recorded for pd: what every issue adds to its own writes. -/
def Ctx.closed (x y : Ctx) (e : PdEntry) : Ctx :=
  { y with pc := pcNext x.pc, pd := (e :: y.pd).take 4, issued := y.issued + 1, pend := y.pend.map PendCause.bump }

section
variable (x y : Ctx) (e : PdEntry)
@[simp] theorem Ctx.readG_closed (n) : (x.closed y e).readG n = y.readG n := rfl
@[simp] theorem Ctx.readO_closed (n) : (x.closed y e).readO n = y.readO n := rfl
@[simp] theorem Ctx.readK_closed (n) : (x.closed y e).readK n = y.readK n := rfl
@[simp] theorem Ctx.readB_closed (n) : (x.closed y e).readB n = y.readB n := rfl
@[simp] theorem Ctx.readV_closed (n) : (x.closed y e).readV n = y.readV n := rfl
@[simp] theorem Ctx.readH_closed (n) : (x.closed y e).readH n = y.readH n := rfl
@[simp] theorem Ctx.readS_closed (n) : (x.closed y e).readS n = y.readS n := rfl
end

section
variable (y : Ctx) (w : Word)
@[simp] theorem Ctx.readO_writeG (n m) : (y.writeG n w).readO m = y.readO m := by unfold Ctx.readO; simp
@[simp] theorem Ctx.readK_writeG (n m) : (y.writeG n w).readK m = y.readK m := by unfold Ctx.readK; simp
@[simp] theorem Ctx.readG_writeO (n m) : (y.writeO n w).readG m = y.readG m := by unfold Ctx.readG; simp
@[simp] theorem Ctx.readK_writeO (n m) : (y.writeO n w).readK m = y.readK m := by unfold Ctx.readK; simp
@[simp] theorem Ctx.readG_writeK (n m) : (y.writeK n w).readG m = y.readG m := by unfold Ctx.readG; simp
@[simp] theorem Ctx.readO_writeK (n m) : (y.writeK n w).readO m = y.readO m := by unfold Ctx.readO; simp
end

/-- What the write of a scalar result leaves. -/
theorem Ctx.scalarResult_closed (x : Ctx) (dst : Operand) (w : Word) :
    x.ScalarResult (x.closed (x.prefixDone.writeW dst w) (.scalar w)) dst w := by
  constructor
  · intro n; cases dst <;> simp [Ctx.writeW]
  · intro n; cases dst <;> simp [Ctx.writeW]
  · intro n; cases dst <;> simp [Ctx.writeW]
  · cases dst with
    | g n => simp only [Ctx.writeW]; unfold Ctx.writeG; split <;> rfl
    | k n => simp only [Ctx.writeW]; unfold Ctx.writeK; split <;> rfl
    | _ => rfl

/-- A body that changes the issuing context alone, by `g`. -/
theorem leaves_of {s : State} {i : Instr} {p : Pre} {x : Ctx} (h : s.Issues i p x) {body : Body} {g : Ctx → Ctx} {e : PdEntry}
    (he : exec i s = issue i p body s) (hb : body (s.view x) (s.begun x) = .ok { s := (s.begun x).me g, pd := e }) :
    s.Leaves i (x.closed (g x.prefixDone) e) := by
  rw [State.Leaves, he, issue_runs h hb, State.me_live (s.begun_live x)]
  exact congrArg _ (retire_plain x _ _)

/-- A body that changes nothing of its own. -/
theorem leaves_plain {s : State} {i : Instr} {p : Pre} {x : Ctx} (h : s.Issues i p x) {body : Body} {e : PdEntry}
    (he : exec i s = issue i p body s) (hb : body (s.view x) (s.begun x) = .ok { s := s.begun x, pd := e }) :
    s.Leaves i (x.past e) := by
  have hs : (s.begun x).setCtx s.cur x.prefixDone = s.begun x := by
    rw [State.begun, Ctx.consume_status]; exact State.setCtx_setCtx s s.cur _ _
  rw [State.Leaves, he, issue_runs h hb, ← hs]
  exact congrArg _ (retire_plain x _ _)

/-- A body that changes the issuing context by `g` and jumps. -/
theorem leaves_jump {s : State} {i : Instr} {p : Pre} {x : Ctx} (h : s.Issues i p x) {body : Body} {g : Ctx → Ctx} {e : PdEntry} {q : Pc}
    (he : exec i s = issue i p body s) (hb : body (s.view x) (s.begun x) = .ok { s := (s.begun x).me g, pd := e, jump := some q }) :
    s.Leaves i { x.closed (g x.prefixDone) e with pc := q } := by
  rw [State.Leaves, he, issue_runs h hb, State.me_live (s.begun_live x)]
  exact congrArg _ (retire_jump x _ _ _)

/-- A body's precise trap. -/
theorem faults_of {s : State} {i : Instr} {p : Pre} {x : Ctx} (h : s.Issues i p x) {body : Body} {c : Cause} {ea : Word} {ei : BitVec 32}
    (he : exec i s = issue i p body s) (hb : body (s.view x) (s.begun x) = .error (.trap c ea ei)) :
    s.Faults i x c ea ei := by
  rw [State.Faults, he, issue_traps h hb, State.begun, Ctx.consume_status]
  rfl

/-- The body of a scalar instruction completes as `GivesScalar` says. -/
theorem givesScalar_of {s : State} {i : Instr} {p : Pre} {x : Ctx} (h : s.Issues i p x) {body : Body} {dst : Operand} {w : Word}
    (he : exec i s = issue i p body s) (hb : body (s.view x) (s.begun x) = .ok (scalarResult (s.begun x) dst w)) :
    s.GivesScalar i x dst w := by
  refine ⟨_, ?_, x.scalarResult_closed dst w⟩
  rw [State.Leaves, he, issue_runs h hb]
  unfold scalarResult
  rw [State.me_live (s.begun_live x)]
  exact congrArg _ (retire_plain x _ _)

end Sys2Proof.Machine
end

