-- ==== Sys2Proof/Laws/Order.lean ====
section
/-! SUPPORT. The order before an access (R109, R193) where nothing of the context's own meets it: nothing happens. -/

namespace Sys2Proof.Machine

theorem State.setCtx_self {s : State} {a : Agent} {x : Ctx} (h : s.ctxs.get a = some x) : s.setCtx a x = s := by
  simp [State.setCtx, Assoc.set_get_self _ h]

/-- A fold whose step keeps every element keeps the list. -/
theorem foldl_keep {α γ : Type} (F : γ → α → γ) (pk : List α → γ) (l acc : List α)
    (hF : ∀ acc e, e ∈ l → F (pk acc) e = pk (acc ++ [e])) : l.foldl F (pk acc) = pk (acc ++ l) := by
  induction l generalizing acc with
  | nil => simp
  | cons a l ih =>
    rw [List.foldl_cons, hF acc a (by simp), ih _ (fun acc e he => hF acc e (by simp [he]))]
    simp

/-- Where no producer is selected, none goes before one. -/
theorem State.withEarlier_none {s : State} {sel : Outst → Bool} {l : List Outst} (hs : ∀ o ∈ l, sel o = false) :
    s.withEarlier sel l = l.map fun e => (e, false) := by
  induction l with
  | nil => rfl
  | cons a l ih =>
    unfold State.withEarlier
    simp [ih fun o ho => hs o (by simp [ho]), hs a (by simp)]

/-- Where nothing read early meets an access, nothing is dropped (R192). -/
theorem State.dropEarly_none {s : State} {a : Agent} {x : Ctx} (hx : s.ctxs.get a = some x) {ts : List (Target × Nat)}
    (h : ∀ e ∈ x.early, ∀ t ∈ ts, s.meets t.1 t.2 e.1 8 = false) : s.dropEarly a ts = s := by
  have : x.dropEarly s ts = x := by
    unfold Ctx.dropEarly
    rw [List.filter_eq_self.2]
    intro e he
    simpa using h e he
  unfold State.dropEarly
  simp only [hx, this, State.setCtx_self hx, ite_self]

/-- Loads that no test selects stay as they are. -/
theorem State.settle_none {s : State} {a : Agent} {x : Ctx} (hx : s.ctxs.get a = some x) {sel : Outst → Bool}
    (hs : ∀ o ∈ x.out, sel o = false) : s.settle a sel = some s := by
  unfold State.settle
  simp only [hx]
  rw [State.withEarlier_none hs, List.foldl_map,
    foldl_keep _ (fun acc => some (s, acc)) x.out [] (by intro acc e he; simp)]
  simp only [List.nil_append, hx]
  exact congrArg some (State.setCtx_self hx)

/-- Stores that no test selects stay held. -/
theorem State.drainHeld_none {s : State} {a : Agent} {x : Ctx} (hx : s.ctxs.get a = some x) {sel : HeldStore → Bool}
    (hs : ∀ o ∈ x.held, sel o = false) : s.drainHeld a sel = some (s, []) := by
  unfold State.drainHeld
  simp only [hx]
  rw [foldl_keep _ (fun acc => some (s, [], acc, [])) x.held [] (by intro acc e he; simp [hs e he])]
  simp only [List.nil_append, hx, List.filter_nil, List.append_nil]
  exact congrArg (fun z => some (z, [])) (State.setCtx_self hx)

theorem lastSel_zero {l : List QueuedCmd} {sel : QueuedCmd → Bool} (h : ∀ q ∈ l, sel q = false) : lastSel l sel = 0 := by
  have key : ∀ (l : List QueuedCmd) (n : Nat), (∀ q ∈ l, sel q = false) →
      (l.foldl (fun (acc : Nat × Nat) q => (acc.1 + 1, if sel q then acc.1 + 1 else acc.2)) (n, 0)).2 = 0 := by
    intro l
    induction l with
    | nil => intro n _; rfl
    | cons b l ih =>
      intro n hl
      simp only [List.foldl_cons, hl b (by simp)]
      exact ih (n + 1) (fun q hq => hl q (by simp [hq]))
  exact key l 0 h

/-- Where nothing of the context's own meets an access, its order asks for nothing. -/
theorem State.Clear.order {s : State} {x : Ctx} {ts : List (Target × Nat)} (hc : s.Clear x ts) {z : State} {w : Ctx}
    (hcur : z.cur = s.cur) (hz : z.ctxs.get z.cur = some w) (hout : w.out = x.out) (hheld : w.held = x.held) (hearly : w.early = x.early)
    (hmeets : z.meets = s.meets) (hcores : z.cores = s.cores) (hboot : z.boot = s.boot) (hatoms : z.atoms = s.atoms) (hframes : z.frames = s.frames)
    (writes drains : Bool) : z.orderBefore z.cur ts writes drains = some (z, []) := by
  cases hk : z.cur with
  | handler n => rfl
  | ctx c =>
    have hk' : s.cur = .ctx c := by rw [← hcur, hk]
    have hm : (ts.any fun t => z.matrixMeets c t.1 t.2) = false := by
      rw [List.any_eq_false]
      intro t ht
      have := hc.matrix c hk' t ht
      unfold State.matrixMeets at this ⊢
      simp [hframes, this]
    have hset : z.settle (.ctx c) (fun e => e.what.ranges.any fun r => ts.any fun u => z.meets u.1 u.2 r.1 r.2) = some z := by
      refine State.settle_none (hk ▸ hz) ?_
      intro o ho
      rw [List.any_eq_false]; intro r hr
      rw [Bool.not_eq_true, List.any_eq_false]; intro t ht
      simp [hmeets, hc.loads o (hout ▸ ho) r hr t ht]
    have hdr : z.drainHeld (.ctx c) (fun h => h.parts.any fun p => ts.any fun u => z.meets u.1 u.2 p.1 p.2.length) = some (z, []) := by
      refine State.drainHeld_none (hk ▸ hz) ?_
      intro o ho
      rw [List.any_eq_false]; intro r hr
      rw [Bool.not_eq_true, List.any_eq_false]; intro t ht
      simp [hmeets, hc.stores o (hheld ▸ ho) r hr t ht]
    have hcmds : (z.coreOf c.core).cmds = (s.coreOf c.core).cmds := by unfold State.coreOf; rw [hcores, hboot]
    have hl : lastSel (z.coreOf c.core).cmds (fun q => q.who == c && q.cmd.rows.any fun r => ts.any fun u => z.meets u.1 u.2 (rowTarget r) 64) = 0 := by
      refine lastSel_zero ?_
      intro q hq
      by_cases hw : q.who = c
      · rw [Bool.and_eq_false_iff]; right
        rw [List.any_eq_false]; intro r hr
        rw [Bool.not_eq_true, List.any_eq_false]; intro t ht
        simp [hmeets, hc.commands c hk' q (hcmds ▸ hq) hw r hr t ht]
      · simp [hw]
    have ha : z.applyAtoms (.ctx c) (fun r => ts.any fun u => z.meets u.1 u.2 r.t r.bytes) = some (z, []) := by
      unfold State.applyAtoms
      have : z.atoms.filter (fun p => p.2.who == .ctx c && ! p.2.applied && ts.any fun u => z.meets u.1 u.2 p.2.t p.2.bytes) = [] := by
        rw [List.filter_eq_nil_iff]
        intro p hp
        by_cases hw : p.2.who = .ctx c
        · have : (ts.any fun u => z.meets u.1 u.2 p.2.t p.2.bytes) = false := by
            rw [List.any_eq_false]; intro t ht
            simp [hmeets, hc.atomics p (hatoms ▸ hp) (hk'.symm ▸ hw) t ht]
          simp [this]
        · simp [hw]
      rw [this]
      rfl
    unfold State.orderBefore
    simp only [hm]
    unfold State.orderCore
    have hde : z.dropEarly (.ctx c) ts = z := State.dropEarly_none (hk ▸ hz) (hmeets ▸ hearly ▸ hc.early)
    simp only [hset, hdr, ite_self, hl, State.performCmds, ha, hde]
    simp

end Sys2Proof.Machine
end

