-- ==== Sys2Proof/Laws/PerInstr.lean ====
section
/-! SUPPORT. The family RoundTrip: for each constructor, decoding the word of a well-formed instruction gives it back (R171, R173). -/

namespace Sys2Proof.Laws.RoundTrip

/-- Decoding the word of a well-formed instruction gives the instruction back. -/
def Statement (i : Instr) : Prop := i.WellFormed = true → decode (encode i) = .ok i

theorem of_shape {i : Instr} {p : Shape} {f : Fld} (hs : i.shape = some (p, f)) (ha : opcodeAssigned p.opc = true)
    (ho : p.ok f = true → Instr.ofOpcode p.opc f = some i) : Statement i := by
  intro hw
  have hc : p.check f = none := by simpa [Instr.WellFormed, hs] using hw
  have hk : p.ok f = true := Shape.ok_of_check hc
  have he : encode i = f.word p.opc := by simp [encode, hs]
  have hp : parse (f.word p.opc) = some i := by simp [parse, opcodeOf_word, ha, ofWord_word, ho hk]
  simp [decode, he, hp, Instr.staticFault, hs, hc]

theorem of_event {i : Instr} (hs : i.shape = none) : Statement i := by
  intro hw
  simp [Instr.WellFormed, hs] at hw

theorem acas (f : Fld) : Statement (.acas f) := of_shape rfl rfl fun _ => rfl
theorem add (f : Fld) : Statement (.add f) := of_shape rfl rfl fun _ => rfl
theorem and (f : Fld) : Statement (.and f) := of_shape rfl rfl fun _ => rfl
theorem ared (f : Fld) : Statement (.ared f) := of_shape rfl rfl fun _ => rfl
theorem atom (f : Fld) : Statement (.atom f) := of_shape rfl rfl fun _ => rfl
theorem badd (f : Fld) : Statement (.badd f) := of_shape rfl rfl fun _ => rfl
theorem bar (f : Fld) : Statement (.bar f) := of_shape rfl rfl fun _ => rfl
theorem bara (f : Fld) : Statement (.bara f) := of_shape rfl rfl fun _ => rfl
theorem barw (f : Fld) : Statement (.barw f) := of_shape rfl rfl fun _ => rfl
theorem bcnt (f : Fld) : Statement (.bcnt f) := of_shape rfl rfl fun _ => rfl
theorem bcvt (f : Fld) : Statement (.bcvt f) := of_shape rfl rfl fun _ => rfl
theorem bfi (f : Fld) : Statement (.bfi f) := of_shape rfl rfl fun _ => rfl
theorem bfill (f : Fld) : Statement (.bfill f) := of_shape rfl rfl fun _ => rfl
theorem bfma (f : Fld) : Statement (.bfma f) := of_shape rfl rfl fun _ => rfl
theorem bfx (f : Fld) : Statement (.bfx f) := of_shape rfl rfl fun _ => rfl
theorem bmax (f : Fld) : Statement (.bmax f) := of_shape rfl rfl fun _ => rfl
theorem bmin (f : Fld) : Statement (.bmin f) := of_shape rfl rfl fun _ => rfl
theorem br (f : Fld) : Statement (.br f) := of_shape rfl rfl fun _ => rfl
theorem bred (f : Fld) : Statement (.bred f) := of_shape rfl rfl fun _ => rfl
theorem brk (f : Fld) : Statement (.brk f) := of_shape rfl rfl fun _ => rfl
theorem brx (f : Fld) : Statement (.brx f) := of_shape rfl rfl fun _ => rfl
theorem bscl (f : Fld) : Statement (.bscl f) := of_shape rfl rfl fun _ => rfl
theorem bse (f : Fld) : Statement (.bse f) := of_shape rfl rfl fun _ => rfl
theorem bsmx (f : Fld) : Statement (.bsmx f) := of_shape rfl rfl fun _ => rfl
theorem bsync (f : Fld) : Statement (.bsync f) := of_shape rfl rfl fun _ => rfl
theorem call (f : Fld) : Statement (.call f) := of_shape rfl rfl fun _ => rfl
theorem cbacq (f : Fld) : Statement (.cbacq f) := of_shape rfl rfl fun _ => rfl
theorem cbclose (f : Fld) : Statement (.cbclose f) := of_shape rfl rfl fun _ => rfl
theorem cbpub (f : Fld) : Statement (.cbpub f) := of_shape rfl rfl fun _ => rfl
theorem cbrel (f : Fld) : Statement (.cbrel f) := of_shape rfl rfl fun _ => rfl
theorem cbwait (f : Fld) : Statement (.cbwait f) := of_shape rfl rfl fun _ => rfl
theorem cdrop (f : Fld) : Statement (.cdrop f) := of_shape rfl rfl fun _ => rfl
theorem cget (f : Fld) : Statement (.cget f) := of_shape rfl rfl fun _ => rfl
theorem clz (f : Fld) : Statement (.clz f) := of_shape rfl rfl fun _ => rfl
theorem cmp (f : Fld) : Statement (.cmp f) := of_shape rfl rfl fun _ => rfl
theorem cnarrow (f : Fld) : Statement (.cnarrow f) := of_shape rfl rfl fun _ => rfl
theorem cont (f : Fld) : Statement (.cont f) := of_shape rfl rfl fun _ => rfl
theorem cpyScratchFromDevice (f : Fld) : Statement (.cpyScratchFromDevice f) := of_shape rfl rfl fun h => by
  have hm : f.mod = 0 := by simp at h; simp [h]
  simp [Instr.ofOpcode, Instr.engineGroup, hm]
theorem cpyDeviceFromScratch (f : Fld) : Statement (.cpyDeviceFromScratch f) := of_shape rfl rfl fun h => by
  have hm : f.mod = 1 := by simp at h; simp [h]
  simp [Instr.ofOpcode, Instr.engineGroup, hm]
theorem cpyScratchFromScratch (f : Fld) : Statement (.cpyScratchFromScratch f) := of_shape rfl rfl fun h => by
  have hm : f.mod = 2 := by simp at h; simp [h]
  simp [Instr.ofOpcode, Instr.engineGroup, hm]
theorem cpyDeviceFromDevice (f : Fld) : Statement (.cpyDeviceFromDevice f) := of_shape rfl rfl fun h => by
  have hm : f.mod = 3 := by simp at h; simp [h]
  simp [Instr.ofOpcode, Instr.engineGroup, hm]
theorem cpya (f : Fld) : Statement (.cpya f) := of_shape rfl rfl fun _ => rfl
theorem cpyx (f : Fld) : Statement (.cpyx f) := of_shape rfl rfl fun _ => rfl
theorem ddrop (f : Fld) : Statement (.ddrop f) := of_shape rfl rfl fun _ => rfl
theorem div (f : Fld) : Statement (.div f) := of_shape rfl rfl fun _ => rfl
theorem done (f : Fld) : Statement (.done f) := of_shape rfl rfl fun _ => rfl
theorem dreg (f : Fld) : Statement (.dreg f) := of_shape rfl rfl fun _ => rfl
theorem dstat (f : Fld) : Statement (.dstat f) := of_shape rfl rfl fun _ => rfl
theorem dsync (f : Fld) : Statement (.dsync f) := of_shape rfl rfl fun _ => rfl
theorem ebag (f : Fld) : Statement (.ebag f) := of_shape rfl rfl fun _ => rfl
theorem endCtx (f : Fld) : Statement (.endCtx f) := of_shape rfl rfl fun _ => rfl
theorem eret (f : Fld) : Statement (.eret f) := of_shape rfl rfl fun _ => rfl
theorem evsig (f : Fld) : Statement (.evsig f) := of_shape rfl rfl fun _ => rfl
theorem ext (f : Fld) : Statement (.ext f) := of_shape rfl rfl fun _ => rfl
theorem fcancel (f : Fld) : Statement (.fcancel f) := of_shape rfl rfl fun _ => rfl
theorem feat (f : Fld) : Statement (.feat f) := of_shape rfl rfl fun _ => rfl
theorem fence (f : Fld) : Statement (.fence f) := of_shape rfl rfl fun h => by
  have hm : f.hint = 0 := by simp at h; simp [h]
  simp [Instr.ofOpcode, Instr.barrierGroup, hm]
theorem fenceWin (f : Fld) : Statement (.fenceWin f) := of_shape rfl rfl fun h => by
  have hm : f.hint = 1 := by simp at h; simp [h]
  simp [Instr.ofOpcode, Instr.barrierGroup, hm]
theorem fjoin (f : Fld) : Statement (.fjoin f) := of_shape rfl rfl fun _ => rfl
theorem fmtp (f : Fld) : Statement (.fmtp f) := of_shape rfl rfl fun _ => rfl
theorem frest (f : Fld) : Statement (.frest f) := of_shape rfl rfl fun _ => rfl
theorem fsave (f : Fld) : Statement (.fsave f) := of_shape rfl rfl fun _ => rfl
theorem ftest (f : Fld) : Statement (.ftest f) := of_shape rfl rfl fun _ => rfl
theorem fwait (f : Fld) : Statement (.fwait f) := of_shape rfl rfl fun _ => rfl
theorem gets (f : Fld) : Statement (.gets f) := of_shape rfl rfl fun _ => rfl
theorem idle (f : Fld) : Statement (.idle f) := of_shape rfl rfl fun _ => rfl
theorem jbind (f : Fld) : Statement (.jbind f) := of_shape rfl rfl fun _ => rfl
theorem job (f : Fld) : Statement (.job f) := of_shape rfl rfl fun _ => rfl
theorem join (f : Fld) : Statement (.join f) := of_shape rfl rfl fun _ => rfl
theorem jtabScratch (f : Fld) : Statement (.jtabScratch f) := of_shape rfl rfl fun h => by
  have hm : f.mod = 0 := by simp at h; simp [h]
  simp [Instr.ofOpcode, Instr.controlGroup, hm]
theorem jtabDevice (f : Fld) : Statement (.jtabDevice f) := of_shape rfl rfl fun h => by
  have hm : f.mod = 1 := by simp at h; simp [h]
  simp [Instr.ofOpcode, Instr.controlGroup, hm]
theorem kacc (f : Fld) : Statement (.kacc f) := of_shape rfl rfl fun _ => rfl
theorem kcnt (f : Fld) : Statement (.kcnt f) := of_shape rfl rfl fun _ => rfl
theorem kisect (f : Fld) : Statement (.kisect f) := of_shape rfl rfl fun _ => rfl
theorem klook (f : Fld) : Statement (.klook f) := of_shape rfl rfl fun _ => rfl
theorem kseek (f : Fld) : Statement (.kseek f) := of_shape rfl rfl fun _ => rfl
theorem klog (f : Fld) : Statement (.klog f) := of_shape rfl rfl fun _ => rfl
theorem kmov (f : Fld) : Statement (.kmov f) := of_shape rfl rfl fun _ => rfl
theorem ld (f : Fld) : Statement (.ld f) := of_shape rfl rfl fun _ => rfl
theorem ldg (f : Fld) : Statement (.ldg f) := of_shape rfl rfl fun _ => rfl
theorem ldc (f : Fld) : Statement (.ldc f) := of_shape rfl rfl fun _ => rfl
theorem lease (f : Fld) : Statement (.lease f) := of_shape rfl rfl fun _ => rfl
theorem lfree (f : Fld) : Statement (.lfree f) := of_shape rfl rfl fun _ => rfl
theorem max (f : Fld) : Statement (.max f) := of_shape rfl rfl fun _ => rfl
theorem min (f : Fld) : Statement (.min f) := of_shape rfl rfl fun _ => rfl
theorem mlda (f : Fld) : Statement (.mlda f) := of_shape rfl rfl fun _ => rfl
theorem mldb (f : Fld) : Statement (.mldb f) := of_shape rfl rfl fun _ => rfl
theorem mmac (f : Fld) : Statement (.mmac f) := of_shape rfl rfl fun _ => rfl
theorem mmacg (f : Fld) : Statement (.mmacg f) := of_shape rfl rfl fun _ => rfl
theorem mmvb (f : Fld) : Statement (.mmvb f) := of_shape rfl rfl fun _ => rfl
theorem mov (f : Fld) : Statement (.mov f) := of_shape rfl rfl fun _ => rfl
theorem movi (f : Fld) : Statement (.movi f) := of_shape rfl rfl fun _ => rfl
theorem mscl (f : Fld) : Statement (.mscl f) := of_shape rfl rfl fun _ => rfl
theorem msgScratch (f : Fld) : Statement (.msgScratch f) := of_shape rfl rfl fun h => by
  have hm : f.mod = 0 := by simp at h; simp [h]
  simp [Instr.ofOpcode, Instr.engineGroup, hm]
theorem msgHandler (f : Fld) : Statement (.msgHandler f) := of_shape rfl rfl fun h => by
  have hm : f.mod = 1 := by simp at h; simp [h]
  simp [Instr.ofOpcode, Instr.engineGroup, hm]
theorem mst (f : Fld) : Statement (.mst f) := of_shape rfl rfl fun _ => rfl
theorem mul (f : Fld) : Statement (.mul f) := of_shape rfl rfl fun _ => rfl
theorem mulh (f : Fld) : Statement (.mulh f) := of_shape rfl rfl fun _ => rfl
theorem mzero (f : Fld) : Statement (.mzero f) := of_shape rfl rfl fun _ => rfl
theorem nop (f : Fld) : Statement (.nop f) := of_shape rfl rfl fun _ => rfl
theorem or (f : Fld) : Statement (.or f) := of_shape rfl rfl fun _ => rfl
theorem phase (f : Fld) : Statement (.phase f) := of_shape rfl rfl fun _ => rfl
theorem popc (f : Fld) : Statement (.popc f) := of_shape rfl rfl fun _ => rfl
theorem qfence (f : Fld) : Statement (.qfence f) := of_shape rfl rfl fun _ => rfl
theorem rally (f : Fld) : Statement (.rally f) := of_shape rfl rfl fun _ => rfl
theorem rem (f : Fld) : Statement (.rem f) := of_shape rfl rfl fun _ => rfl
theorem ret (f : Fld) : Statement (.ret f) := of_shape rfl rfl fun _ => rfl
theorem sar (f : Fld) : Statement (.sar f) := of_shape rfl rfl fun _ => rfl
theorem shl (f : Fld) : Statement (.shl f) := of_shape rfl rfl fun _ => rfl
theorem shr (f : Fld) : Statement (.shr f) := of_shape rfl rfl fun _ => rfl
theorem sbind (f : Fld) : Statement (.sbind f) := of_shape rfl rfl fun _ => rfl
theorem sskip (f : Fld) : Statement (.sskip f) := of_shape rfl rfl fun _ => rfl
theorem sposRead (f : Fld) : Statement (.sposRead f) := of_shape rfl rfl fun h => by
  have hm : f.mod = 0 := by simp at h; simp [h]
  simp [Instr.ofOpcode, Instr.streamGroup, hm]
theorem sposSet (f : Fld) : Statement (.sposSet f) := of_shape rfl rfl fun h => by
  have hm : f.mod = 1 := by simp at h; simp [h]
  simp [Instr.ofOpcode, Instr.streamGroup, hm]
theorem sfree (f : Fld) : Statement (.sfree f) := of_shape rfl rfl fun _ => rfl
theorem sel (f : Fld) : Statement (.sel f) := of_shape rfl rfl fun _ => rfl
theorem sems (f : Fld) : Statement (.sems f) := of_shape rfl rfl fun _ => rfl
theorem semw (f : Fld) : Statement (.semw f) := of_shape rfl rfl fun _ => rfl
theorem sets (f : Fld) : Statement (.sets f) := of_shape rfl rfl fun _ => rfl
theorem sheat (f : Fld) : Statement (.sheat f) := of_shape rfl rfl fun _ => rfl
theorem shipHandler (f : Fld) : Statement (.shipHandler f) := of_shape rfl rfl fun h => by
  have hm : f.imm.extractLsb' 0 5 ≠ 16#5 := by intro h16; simp [h16] at h
  simp [Instr.ofOpcode, Instr.engineGroup, hm]
theorem shipRed (f : Fld) : Statement (.shipRed f) := of_shape rfl rfl fun h => by
  have hm : f.imm.extractLsb' 0 5 = 16 := by simp at h; simp [h]
  simp [Instr.ofOpcode, Instr.engineGroup, hm]
theorem slotset (f : Fld) : Statement (.slotset f) := of_shape rfl rfl fun _ => rfl
theorem spawn (f : Fld) : Statement (.spawn f) := of_shape rfl rfl fun _ => rfl
theorem st (f : Fld) : Statement (.st f) := of_shape rfl rfl fun _ => rfl
theorem stg (f : Fld) : Statement (.stg f) := of_shape rfl rfl fun _ => rfl
theorem stc (f : Fld) : Statement (.stc f) := of_shape rfl rfl fun _ => rfl
theorem sub (f : Fld) : Statement (.sub f) := of_shape rfl rfl fun _ => rfl
theorem svc (f : Fld) : Statement (.svc f) := of_shape rfl rfl fun _ => rfl
theorem vabs (f : Fld) : Statement (.vabs f) := of_shape rfl rfl fun _ => rfl
theorem vadd (f : Fld) : Statement (.vadd f) := of_shape rfl rfl fun _ => rfl
theorem vsub (f : Fld) : Statement (.vsub f) := of_shape rfl rfl fun _ => rfl
theorem vmul (f : Fld) : Statement (.vmul f) := of_shape rfl rfl fun _ => rfl
theorem vfma (f : Fld) : Statement (.vfma f) := of_shape rfl rfl fun _ => rfl
theorem vmin (f : Fld) : Statement (.vmin f) := of_shape rfl rfl fun _ => rfl
theorem vmax (f : Fld) : Statement (.vmax f) := of_shape rfl rfl fun _ => rfl
theorem vand (f : Fld) : Statement (.vand f) := of_shape rfl rfl fun _ => rfl
theorem vor (f : Fld) : Statement (.vor f) := of_shape rfl rfl fun _ => rfl
theorem vxor (f : Fld) : Statement (.vxor f) := of_shape rfl rfl fun _ => rfl
theorem vshl (f : Fld) : Statement (.vshl f) := of_shape rfl rfl fun _ => rfl
theorem vshr (f : Fld) : Statement (.vshr f) := of_shape rfl rfl fun _ => rfl
theorem vrcp (f : Fld) : Statement (.vrcp f) := of_shape rfl rfl fun _ => rfl
theorem vrsq (f : Fld) : Statement (.vrsq f) := of_shape rfl rfl fun _ => rfl
theorem vexp (f : Fld) : Statement (.vexp f) := of_shape rfl rfl fun _ => rfl
theorem vsel (f : Fld) : Statement (.vsel f) := of_shape rfl rfl fun _ => rfl
theorem vbcst (f : Fld) : Statement (.vbcst f) := of_shape rfl rfl fun _ => rfl
theorem vgetl (f : Fld) : Statement (.vgetl f) := of_shape rfl rfl fun _ => rfl
theorem viota (f : Fld) : Statement (.viota f) := of_shape rfl rfl fun _ => rfl
theorem vperm (f : Fld) : Statement (.vperm f) := of_shape rfl rfl fun _ => rfl
theorem vsetl (f : Fld) : Statement (.vsetl f) := of_shape rfl rfl fun _ => rfl
theorem vcmp (f : Fld) : Statement (.vcmp f) := of_shape rfl rfl fun _ => rfl
theorem vcvt (f : Fld) : Statement (.vcvt f) := of_shape rfl rfl fun _ => rfl
theorem vred (f : Fld) : Statement (.vred f) := of_shape rfl rfl fun _ => rfl
theorem vscan (f : Fld) : Statement (.vscan f) := of_shape rfl rfl fun _ => rfl
theorem vared (f : Fld) : Statement (.vared f) := of_shape rfl rfl fun _ => rfl
theorem vgath (f : Fld) : Statement (.vgath f) := of_shape rfl rfl fun _ => rfl
theorem vscat (f : Fld) : Statement (.vscat f) := of_shape rfl rfl fun _ => rfl
theorem vld (f : Fld) : Statement (.vld f) := of_shape rfl rfl fun _ => rfl
theorem vst (f : Fld) : Statement (.vst f) := of_shape rfl rfl fun _ => rfl
theorem vldg (f : Fld) : Statement (.vldg f) := of_shape rfl rfl fun _ => rfl
theorem vstg (f : Fld) : Statement (.vstg f) := of_shape rfl rfl fun _ => rfl
theorem xbegin (f : Fld) : Statement (.xbegin f) := of_shape rfl rfl fun _ => rfl
theorem xsend (f : Fld) : Statement (.xsend f) := of_shape rfl rfl fun _ => rfl
theorem xend (f : Fld) : Statement (.xend f) := of_shape rfl rfl fun _ => rfl
theorem xflush (f : Fld) : Statement (.xflush f) := of_shape rfl rfl fun _ => rfl
theorem xmig (f : Fld) : Statement (.xmig f) := of_shape rfl rfl fun _ => rfl
theorem xor (f : Fld) : Statement (.xor f) := of_shape rfl rfl fun _ => rfl
theorem yield (f : Fld) : Statement (.yield f) := of_shape rfl rfl fun _ => rfl
theorem unassignedOpcode (opc : BitVec 10) : Statement (.unassignedOpcode opc) := of_event rfl
theorem jobCardAccept (page : Nat) : Statement (.jobCardAccept page) := of_event rfl
theorem leaseGrant (job : Nat) : Statement (.leaseGrant job) := of_event rfl
theorem ctrlSpace (page : Nat) : Statement (.ctrlSpace page) := of_event rfl
theorem ctrlRetire (page : Nat) : Statement (.ctrlRetire page) := of_event rfl
theorem ctrlBindpage (page : Nat) : Statement (.ctrlBindpage page) := of_event rfl
theorem ctrlHcopy (page : Nat) : Statement (.ctrlHcopy page) := of_event rfl
theorem ctrlLoadstore (page : Nat) : Statement (.ctrlLoadstore page) := of_event rfl
theorem ctrlKillJob (page : Nat) : Statement (.ctrlKillJob page) := of_event rfl
theorem ctrlKillFrame (page : Nat) : Statement (.ctrlKillFrame page) := of_event rfl
theorem ctrlLaunchpageRegister (page : Nat) : Statement (.ctrlLaunchpageRegister page) := of_event rfl
theorem ctrlLaunchpageRemove (page : Nat) : Statement (.ctrlLaunchpageRemove page) := of_event rfl
theorem ctrlColdidle (page : Nat) : Statement (.ctrlColdidle page) := of_event rfl
theorem chunkDeal (job : Nat) : Statement (.chunkDeal job) := of_event rfl
theorem spawnEntryArrival (cluster : Nat) : Statement (.spawnEntryArrival cluster) := of_event rfl
theorem dispatchBind (cluster : Nat) : Statement (.dispatchBind cluster) := of_event rfl
theorem ageGuard (cluster : Nat) : Statement (.ageGuard cluster) := of_event rfl
theorem recordReserved (cluster level : Nat) : Statement (.recordReserved cluster level) := of_event rfl
theorem dctlWrite (cluster : Nat) (v : BitVec 64) : Statement (.dctlWrite cluster v) := of_event rfl
theorem spillWrite (cluster : Nat) (v : BitVec 64) : Statement (.spillWrite cluster v) := of_event rfl
theorem taskStart (core frm : Nat) : Statement (.taskStart core frm) := of_event rfl
theorem taskEnd (core frm : Nat) : Statement (.taskEnd core frm) := of_event rfl
theorem jobSweep (job : Nat) : Statement (.jobSweep job) := of_event rfl
theorem decrementApply (cluster : Nat) : Statement (.decrementApply cluster) := of_event rfl
theorem proxyForwardWrite (die : Nat) (dest : ProxyDest) : Statement (.proxyForwardWrite die dest) := of_event rfl
theorem taggedDataArrival (c : CtxId) (n : Nat) : Statement (.taggedDataArrival c n) := of_event rfl
theorem storeHomePerform (a : Agent) (n : Nat) : Statement (.storeHomePerform a n) := of_event rfl
theorem atomicHomeApply (req : Nat) : Statement (.atomicHomeApply req) := of_event rfl
theorem atomicReply (req : Nat) : Statement (.atomicReply req) := of_event rfl
theorem bankCommandPerform (core n : Nat) : Statement (.bankCommandPerform core n) := of_event rfl
theorem copyBegin (core q units : Nat) : Statement (.copyBegin core q units) := of_event rfl
theorem copyComplete (core q : Nat) : Statement (.copyComplete core q) := of_event rfl
theorem matrixQueuePerform (core frm : Nat) : Statement (.matrixQueuePerform core frm) := of_event rfl
theorem matrixStep (core : Nat) : Statement (.matrixStep core) := of_event rfl
theorem impreciseDelivery (c : CtxId) : Statement (.impreciseDelivery c) := of_event rfl
theorem tollgateBarrierArrive (cluster line : Nat) (who : CtxId) : Statement (.tollgateBarrierArrive cluster line who) := of_event rfl
theorem tollgateBarrierLoad (c : CtxId) (n : Nat) : Statement (.tollgateBarrierLoad c n) := of_event rfl
theorem tollgateBarrierConfig (cluster line : Nat) (v : BitVec 64) : Statement (.tollgateBarrierConfig cluster line v) := of_event rfl
theorem tollgateMutexAcquire (c : CtxId) (n : Nat) : Statement (.tollgateMutexAcquire c n) := of_event rfl
theorem tollgateMutexFree (cluster line : Nat) (who : CtxId) : Statement (.tollgateMutexFree cluster line who) := of_event rfl
theorem tollgateEventWait (c : CtxId) (n : Nat) : Statement (.tollgateEventWait c n) := of_event rfl
theorem tollgateEventSignal (cluster line : Nat) : Statement (.tollgateEventSignal cluster line) := of_event rfl
theorem tollgateEventClear (cluster line : Nat) : Statement (.tollgateEventClear cluster line) := of_event rfl
theorem routerArrivalForward (o : ObjKey) : Statement (.routerArrivalForward o) := of_event rfl
theorem barrierRootArrival (o : ObjKey) : Statement (.barrierRootArrival o) := of_event rfl
theorem barrierReleaseArrival (c : CtxId) : Statement (.barrierReleaseArrival c) := of_event rfl
theorem xbeginRelease (o : ObjKey) : Statement (.xbeginRelease o) := of_event rfl
theorem xsendSlotSend (c : CtxId) : Statement (.xsendSlotSend c) := of_event rfl
theorem frameSaveComplete (n : Nat) : Statement (.frameSaveComplete n) := of_event rfl
theorem preemptAbandon (n : Nat) : Statement (.preemptAbandon n) := of_event rfl
theorem frameRestoreBind (n : Nat) : Statement (.frameRestoreBind n) := of_event rfl
theorem leaseExtensionPinned (n : Nat) : Statement (.leaseExtensionPinned n) := of_event rfl
theorem staleReadHold (d tile : Nat) : Statement (.staleReadHold d tile) := of_event rfl
theorem tileRecompute (d tile : Nat) : Statement (.tileRecompute d tile) := of_event rfl
theorem slabCompress (sid obj slab : Nat) : Statement (.slabCompress sid obj slab) := of_event rfl
theorem slabDecode (sid obj slab : Nat) : Statement (.slabDecode sid obj slab) := of_event rfl
theorem migrationCopyComplete (n : Nat) : Statement (.migrationCopyComplete n) := of_event rfl
theorem translationWalkReply (n : Nat) : Statement (.translationWalkReply n) := of_event rfl
theorem handlerRunStart (slice : Nat) : Statement (.handlerRunStart slice) := of_event rfl
theorem handlerRunEnd (slice : Nat) : Statement (.handlerRunEnd slice) := of_event rfl
theorem launchNotify (page : Nat) (v : BitVec 64) (rel : Bool) : Statement (.launchNotify page v rel) := of_event rfl
theorem launchComplete (page : Nat) : Statement (.launchComplete page) := of_event rfl
theorem reductionBlockStart (stack : Nat) : Statement (.reductionBlockStart stack) := of_event rfl
theorem reductionClimbPair (node : Nat) : Statement (.reductionClimbPair node) := of_event rfl
theorem reductionClimbDiscard (node : Nat) : Statement (.reductionClimbDiscard node) := of_event rfl
theorem idleTimeout (c : CtxId) : Statement (.idleTimeout c) := of_event rfl
theorem rallyTimeout (c : CtxId) : Statement (.rallyTimeout c) := of_event rfl
theorem yieldWaitEnd (c : CtxId) : Statement (.yieldWaitEnd c) := of_event rfl
theorem ctrlKillSid (page : Nat) : Statement (.ctrlKillSid page) := of_event rfl
theorem ctrlPreempt (page : Nat) : Statement (.ctrlPreempt page) := of_event rfl
theorem ctrlRestore (page : Nat) : Statement (.ctrlRestore page) := of_event rfl
theorem ctrlAckout (page : Nat) : Statement (.ctrlAckout page) := of_event rfl
theorem ctrlLink (page : Nat) : Statement (.ctrlLink page) := of_event rfl
theorem ctrlAttest (page : Nat) : Statement (.ctrlAttest page) := of_event rfl
theorem ctrlUnknownKind (page : Nat) : Statement (.ctrlUnknownKind page) := of_event rfl
theorem causeArrival (c : CtxId) (p : PendCause) : Statement (.causeArrival c p) := of_event rfl
theorem refreshSubarrayEnd (channel bank : Nat) : Statement (.refreshSubarrayEnd channel bank) := of_event rfl
theorem lockFeatures : Statement (.lockFeatures) := of_event rfl
theorem tokenTimeout : Statement (.tokenTimeout) := of_event rfl
theorem thermalClockRaise : Statement (.thermalClockRaise) := of_event rfl
theorem routerAtomicForward (first second : Nat) : Statement (.routerAtomicForward first second) := of_event rfl
theorem streamElementFetch (c : CtxId) (n : Nat) : Statement (.streamElementFetch c n) := of_event rfl
theorem linkTrainingComplete (link : Nat) : Statement (.linkTrainingComplete link) := of_event rfl
theorem powerOn (e : StartEnv) : Statement (.powerOn e) := of_event rfl
theorem startCold (e : StartEnv) : Statement (.startCold e) := of_event rfl
theorem startWarm (e : StartEnv) : Statement (.startWarm e) := of_event rfl
theorem startWarmPreserving (e : StartEnv) : Statement (.startWarmPreserving e) := of_event rfl
theorem heldStartRun (e : StartEnv) : Statement (.heldStartRun e) := of_event rfl
theorem registerWrite (r : HostReg) (v : BitVec 64) : Statement (.registerWrite r v) := of_event rfl
theorem unsupportedRequest (off : Nat) : Statement (.unsupportedRequest off) := of_event rfl
theorem mailboxMessage (page : Nat) (msg : List Byte) : Statement (.mailboxMessage page msg) := of_event rfl
theorem badMailboxWrite (page : Nat) : Statement (.badMailboxWrite page) := of_event rfl
theorem mirrorEntryArrival (link : Nat) (entry : BitVec 256) : Statement (.mirrorEntryArrival link entry) := of_event rfl
theorem mirrorReturn (link : Nat) (entry : BitVec 256) : Statement (.mirrorReturn link entry) := of_event rfl
theorem tokenPass (tok : List Byte) : Statement (.tokenPass tok) := of_event rfl
theorem linkReplay (link : Nat) (req : Nat) : Statement (.linkReplay link req) := of_event rfl
theorem linkFailure (link : Nat) : Statement (.linkFailure link) := of_event rfl
theorem thermalClockLower (die : Nat) : Statement (.thermalClockLower die) := of_event rfl
theorem thermalShutdown (die : Nat) : Statement (.thermalShutdown die) := of_event rfl
theorem refreshSubarrayStart (channel bank : Nat) : Statement (.refreshSubarrayStart channel bank) := of_event rfl

end Sys2Proof.Laws.RoundTrip
end

