-- ==== Sys2Proof/Tests/Slice0.lean ====
section
/-! SUPPORT. Small tests: the static checks, words of the spec decoded, and for each statement's hypotheses states and operands that meet them. -/

namespace Sys2Proof.Machine.Tests

set_option Elab.async false

/-! ## The static checks: an ill-formed term for each -/

def z : Fld := { pk := 0, ps := false, dst := .g 0, sa := .g 0, sb := .g 0, sc := .g 0, talloc := 0, tw0 := 0, tw1 := 0, mod := 0, imm := 0 }

/-- A nonzero field that the entry does not use (R172): ADD with SC. -/
theorem test_wf_unused : (Instr.add { z with dst := .g 1, sa := .g 2, sb := .g 3, sc := .g 1, mod := 2 }).staticFault = some .reserved := by decide
/-- A class that a field does not take (R173): ADD to a v register. -/
theorem test_wf_class : (Instr.add { z with dst := .v 1, sa := .g 2, sb := .g 3, mod := 2 }).staticFault = some (.operandClass (.v 1)) := by decide
/-- LD needs a tag (R176, R368). -/
theorem test_wf_tag_missing : (Instr.ldc { z with dst := .b 2, sa := .b 1, sb := .g 9 }).staticFault = some .reserved := by decide
/-- ATOM with no destination takes no tag (R308, R311). -/
theorem test_wf_tag_extra : (Instr.atom { z with dst := .g 0, sa := .g 2, sc := .g 0, mod := 2, talloc := 1 }).staticFault = some .reserved := by decide
/-- GETS takes a tag for register 0x013 alone (R357). -/
theorem test_wf_gets_tag : (Instr.gets { z with dst := .g 7, imm := 0x12, talloc := 1 }).staticFault = some .reserved := by decide
/-- BR's IMM[31:15] is zero (R320). -/
theorem test_wf_imm : (Instr.br { z with imm := 0x8000 }).staticFault = some .reserved := by decide
/-- BR takes no TWAIT (R320). -/
theorem test_wf_ctl : (Instr.br { z with tw0 := 1 }).staticFault = some .reserved := by decide
/-- ERET takes no predicate (R346). -/
theorem test_wf_ctl_none : (Instr.eret { z with pk := 1 }).staticFault = some .reserved := by decide
/-- MOV from g to b (R75, R377). -/
theorem test_wf_pairing : (Instr.mov { z with dst := .b 1, sa := .g 2, mod := 3 }).staticFault = some (.operandClass (.g 2)) := by decide
/-- FJOIN of one handle with itself (R351). -/
theorem test_wf_same : (Instr.fjoin { z with dst := .h 3, sa := .h 1, sb := .h 1 }).staticFault = some (.operandClass (.h 1)) := by decide
/-- A register that R240 does not assign. -/
theorem test_wf_sysreg : (Instr.gets { z with dst := .g 7, imm := 0x15 }).staticFault = some .reserved := by decide

/-! ## Decoding: words of the spec -/

def reads (w : BitVec 96) (i : Instr) : Bool := (match decode w with | .ok j => decide (j = i) | .error _ => false) && decide (encode i = w)

theorem test_decode_alu : reads 0x0040_0603_7F80_0003_0000_0001 (.sub { z with dst := .g 3, sa := .g 3, sb := .imm, mod := 3, imm := 1 }) &&
    reads 0x0382_0405_0000_0083_0000_0000 (.cmp { z with dst := .k 2, sa := .g 5, tw0 := 2, mod := 3 }) &&
    reads 0x0340_0604_0280_0002_1000_0000 (.max { z with dst := .g 3, sa := .g 4, sb := .g 5, mod := 2, imm := 0x10000000 }) &&
    reads 0x0580_0A06_0000_0003_0000_00C8 (.bfi { z with dst := .g 5, sa := .g 6, mod := 3, imm := 0xC8 }) &&
    reads 0x045B_81C2_0000_0003_0000_0000 (.mov { z with pk := 3, dst := .b 0, sa := .b 2, mod := 3 }) = true := by decide +kernel
theorem test_decode_mask_cap : reads 0x1042_0205_0000_0000_0000_0000 (.kmov { z with dst := .k 1, sa := .g 5 }) &&
    reads 0x1083_89C2_0281_8000_0000_0001 (.cnarrow { z with dst := .b 4, sa := .b 2, sb := .g 5, sc := .g 6, imm := 1 }) &&
    reads 0x1143_85C1_0480_0400_0000_0010 (.ldc { z with dst := .b 2, sa := .b 1, sb := .g 9, talloc := 1, imm := 16 }) = true := by decide +kernel
theorem test_decode_control : reads 0x2040_0009_0000_0000_0000_0000 (.brx { z with sa := .g 9 }) &&
    reads 0x2080_3C00_0000_0000_0000_0120 (.call { z with dst := .g 30, imm := 0x120 }) &&
    reads 0x2100_0005_E181_8001_0000_0004 (.jtabDevice { z with sa := .g 5, sb := .b 3, sc := .g 6, mod := 1, imm := 4 }) &&
    reads 0x2140_0181_0000_0000_0001_1052 (.bse { z with sa := .s 1, imm := 0x11052 }) &&
    reads 0x2180_0000_0000_0000_0000_0000 (.endCtx z) = true := by decide +kernel
theorem test_decode_vector : reads 0x3000_8C43_2200_00D1_0000_0000 (.vadd { z with dst := .v 6, sa := .v 3, sb := .v 4, tw0 := 3, tw1 := 4, mod := 1 }) &&
    reads 0x30C0_8241_0090_8040_0000_0000 (.vfma { z with dst := .v 1, sa := .v 1, sb := .g 1, sc := .v 2, tw0 := 1 }) = true := by decide +kernel
theorem test_decode_access : reads 0x4100_8205_0000_0403_0000_0000 (.vld { z with dst := .v 1, sa := .g 5, talloc := 1, mod := 3 }) &&
    reads 0x4140_0006_6080_0003_0000_0000 (.vst { z with sa := .g 6, sb := .pd 1, mod := 3 }) &&
    reads 0x4080_0BC2_0000_0843_0100_9000 (.ldg { z with dst := .g 5, sa := .b 2, tw0 := 1, talloc := 2, mod := 3, imm := 0x01009000 }) = true := by
  decide +kernel
theorem test_decode_atomic : reads 0x5000_03C2_0201_4402_0000_0000 (.atom { z with dst := .g 1, sa := .b 2, sb := .g 4, sc := .g 5, talloc := 1, mod := 2 }) &&
    reads 0x5040_01C2_0703_C042_0000_0000 (.ared { z with sa := .b 2, sb := .g 14, sc := .g 15, tw0 := 1, mod := 2 }) = true := by decide +kernel
theorem test_decode_bank : reads 0x6000_0007_2100_0040_0000_0000 (.badd { z with sa := .g 7, sb := .v 2, tw0 := 1 }) &&
    reads 0x6180_0003_8100_0003_0000_0000 (.bcnt { z with sa := .g 3, sb := .k 2, mod := 3 }) &&
    reads 0x6240_0002_0180_0000_2000_0004 (.bred { z with sa := .g 2, sb := .g 3, imm := 0x20000004 }) = true := by decide +kernel
theorem test_decode_stream : reads 0x7180_0A00_0000_0000_0000_0002 (.cbwait { z with dst := .g 5, imm := 2 }) &&
    reads 0x7140_0000_0000_0000_0000_0001 (.cbpub { z with imm := 1 }) = true := by decide +kernel
theorem test_decode_engine : reads 0x8042_8202_E181_0000_0028_0080 (.cpyx { z with dst := .h 1, sa := .g 2, sb := .b 3, sc := .g 4, imm := 0x280080 }) &&
    reads 0x8180_01C1_0300_8001_000C_0004 (.msgHandler { z with sa := .b 1, sb := .g 6, sc := .g 2, mod := 1, imm := 0xC0004 }) &&
    reads 0x8240_0141_0000_0000_0000_0000 (.fcancel { z with sa := .h 1 }) = true := by decide +kernel
theorem test_decode_matrix : reads 0x9000_0000_0000_0000_0000_4011 (.fmtp { z with imm := 0x4011 }) &&
    reads 0x9182_8202_2191_0000_0200_1010 (.mmvb { z with dst := .h 1, sa := .g 2, sb := .v 3, sc := .v 4, imm := 0x02001010 }) = true := by decide +kernel
theorem test_decode_join : reads 0xA003_03C2_0201_4002_0000_0000 (.jbind { z with dst := .s 1, sa := .b 2, sb := .g 4, sc := .g 5, mod := 2 }) &&
    reads 0xA183_89C1_E170_C000_0100_4033 (.dreg { z with dst := .b 4, sa := .b 1, sb := .b 2, sc := .b 3, imm := 0x01004033 }) = true := by decide +kernel
theorem test_decode_barrier : reads 0xB200_0007_2180_0000_0000_0005 (.xsend { z with sa := .g 7, sb := .v 3, imm := 5 }) &&
    reads 0xB140_0000_0000_0000_2000_0000 (.fenceWin { z with imm := 0x20000000 }) &&
    reads 0xB180_0003_0000_0000_0200_0000 (.evsig { z with sa := .g 3, imm := 0x02000000 }) = true := by decide +kernel
theorem test_decode_task_system : reads 0xC0C0_0007_0000_0000_0000_0000 (.join { z with sa := .g 7 }) &&
    reads 0xD000_1200_0000_0400_0000_0013 (.gets { z with dst := .g 9, talloc := 1, imm := 0x13 }) &&
    reads 0xD0C2_85C6_0201_4000_0001_1020 (.lease { z with dst := .h 2, sa := .b 6, sb := .g 4, sc := .g 5, imm := 0x11020 }) &&
    reads 0xD2C0_0000_0000_0000_0000_0077 (.brk { z with imm := 0x77 }) = true := by decide +kernel
/-- An opcode that no row assigns (R186) and a specifier with a set unused bit (R173). -/
theorem test_decode_refused : reads 0x0600_0000_0000_0000_0000_0000 (.unassignedOpcode 0x018) &&
    reads 0x0000_4000_0000_0002_0000_0000 (.add { z with dst := .g 32, mod := 2 }) &&
    (match decode 0x0000_C000_0000_0000_0000_0000 with | .error (.reserved 0) => true | _ => false) = true := by decide +kernel

/-! ## States that meet the statements' hypotheses -/

/-- The issuing context: computer of frame 0 of core 0. -/
def c0 : CtxId := ⟨0, 0, .computer⟩

/-- Its registers as a test wants them. -/
def ctx (status : Word) (g : Nat → Word := fun _ => 0) (b : Cap := 0) : Ctx :=
  { Ctx.blank with status := status, g := Vector.ofFn fun i => g i.val, b := Vector.ofFn fun i => if i.val = 0 then 0 else b }

/-- Objects 5 and 6 of space 0, 64 KiB and 1 MiB, interleaved, and 7, 64 KiB, bank-linear on slice 0, their extent entries zero; task type 0; barrier object 0x1005 of two; capabilities for all of each. -/
def cells : List Host.Cell := [(0x10A2, 1), (0x10B1, 0x50), (0x10C2, 0x10), (0x10D1, 0x60), (0x10E2, 1), (0x10E5, 1), (0x10F1, 0x70), (0x2006, 6), (0x2007, 6), (0x2008, 6), (0x200D, 1), (0x200E, 1), (0x3028, 2)]
def cap5 : Cap := capMake 0xFF 5 0 0x10000
def cap6 : Cap := capMake 0xFF 6 0 0x100000
def cap7 : Cap := capMake 0xFF 7 0 0x10000
def space0 : Space :=
  { gen := 0, nobj := 16, objTab := 0x1000, taskTab := 0x2000, barTab := #v[0x3000, 0x3400, 0x3800, 0x3C00], hdlTab := 0x4000, outPage := 0,
    seq := 0, unacked := 0, heldOut := [], lost := false }

/-- Job 0, running, with all of the three objects leased. -/
def job0 : Job :=
  { card := 0, space := 0, stage := .running, lease := [⟨0, 0, 5, 0, 0x10000, true, true⟩, ⟨1, 0, 6, 0, 0x100000, true, true⟩, ⟨2, 0, 7, 0, 0x10000, true, true⟩], dealt := 0, sent := 0, received := 0, done := 0,
    failed := 0, sweep := none, killed := false, mirror := none, owed := [], touched := [], extNo := 0 }

/-- The machine with one context live. -/
def at' (x : Ctx) : State :=
  { State.reset.placeWord 0 with ctxs := [(.ctx c0, x)], spaces := [(0, space0)], mem := cells, jobs := [(0, job0)] }

/-- The conditions of `Issues` beside the first, decided. -/
def issuesB (s : State) (i : Instr) (p : Pre) (x : Ctx) : Bool :=
  match i.shape with
  | none => false
  | some (sh, f) =>
    ! waitsForTag (s.view x) i && i.WellFormed && (! p.gated || (s.view x).executes f) &&
    inProfile s.cur x.sv sh.opc && (featuresOf sh.opc f.imm).all s.feature && (privilegeFault x.sv sh.opc f.imm).isNone &&
    ! p.dyn02 s (s.view x) && (usedFields i ++ p.regs).all (classOpen s.cur) && (badPd (s.view x) s.pairView.isSome i).isNone &&
    (p.dyn07 s (s.view x)).isNone && (usedFields i ++ p.regs).all (inDemand s.cur x) && p.accs.all (fun n => decide (n < x.adem)) && ! p.own05 &&
    (! x.pp || (match p.pfx with | some ok => ok (s.view x) | none => false))

theorem issues_of {s : State} {i : Instr} {p : Pre} {x : Ctx} (h : issuesB s i p x = true) (h1 : s.ctxs.get s.cur = some x := by rfl) :
    s.Issues i p x := by
  unfold issuesB at h
  cases hs : i.shape with
  | none => rw [hs] at h; cases h
  | some q =>
    obtain ⟨sh, f⟩ := q
    rw [hs] at h
    simp only [Bool.and_eq_true, Bool.or_eq_true, Bool.not_eq_true', decide_eq_true_eq, List.all_eq_true, Option.isNone_iff_eq_none] at h
    obtain ⟨⟨⟨⟨⟨⟨⟨⟨⟨⟨⟨⟨⟨h2, h3⟩, h4⟩, h5⟩, h6⟩, h7⟩, h8⟩, h9⟩, h10⟩, h11⟩, h12⟩, h13⟩, h14⟩, h15⟩ := h
    constructor
    · exact h1
    · exact h2
    · exact h3
    · intro hg sh' f' e; rw [hs] at e; cases e
      rcases h4 with h4 | h4
      · rw [hg] at h4; cases h4
      · exact h4
    · intro sh' f' e; rw [hs] at e; cases e; exact ⟨h5, h6⟩
    · intro sh' f' e; rw [hs] at e; cases e; exact h7
    · exact h8
    · exact h9
    · exact h10
    · exact h11
    · exact h12
    · exact h13
    · exact h14
    · intro hp
      rcases h15 with h15 | h15
      · rw [hp] at h15; cases h15
      · cases hx : p.pfx with
        | none => rw [hx] at h15; cases h15
        | some ok => rw [hx] at h15; exact ⟨ok, rfl, h15⟩

/-- Each of a list of instructions issues, with the same addition to its checks. -/
theorem all_issue {s : State} {p : Pre} {x : Ctx} {l : List Instr} (h : (l.all fun i => issuesB s i p x) = true)
    (h1 : s.ctxs.get s.cur = some x := by rfl) : ∀ i ∈ l, s.Issues i p x :=
  fun i hi => issues_of (List.all_eq_true.mp h i hi) h1

/-! ## Group 0 -/

/-- g40 and g41 address unit space (R81), g42 is 0, g43 is 1; any other gn holds 16 n. -/
def gs (n : Nat) : Word := if n = 40 then 0x80000 else if n = 41 then 0x80200 else if n = 42 then 0 else if n = 43 then 1 else BitVec.ofNat 64 (16 * n)
def xt : Ctx := { ctx 2 gs cap5 with b := ((ctx 2 gs cap5).b.set 3 cap6).set 5 cap7 }
def xs : Ctx := { xt with status := 3 }
/-- g1 ← g2 op g3, 64 bits. -/
def f3 : Fld := { z with dst := .g 1, sa := .g 2, sb := .g 3, mod := 3 }


/-- The conditions of `Clear` for a context, each decidable. -/
theorem clear_of {s : State} {x : Ctx} {ts : List (Target × Nat)} (c : CtxId) (hc : s.cur = .ctx c)
    (h : x.acqPending = false ∧ (∀ t ∈ ts, s.targetPage t.1 = none) ∧
      (∀ o ∈ x.out, ∀ r ∈ o.what.ranges, ∀ t ∈ ts, s.meets t.1 t.2 r.1 r.2 = false) ∧
      (∀ h ∈ x.held, ∀ p ∈ h.parts, ∀ t ∈ ts, s.meets t.1 t.2 p.1 p.2.length = false) ∧
      (∀ q ∈ (s.coreOf c.core).cmds, q.who = c → ∀ r ∈ q.cmd.rows, ∀ t ∈ ts, s.meets t.1 t.2 (rowTarget r) 64 = false) ∧
      (∀ p ∈ s.atoms, p.2.who = s.cur → ∀ t ∈ ts, s.meets t.1 t.2 p.2.t p.2.bytes = false) ∧ (∀ t ∈ ts, s.matrixMeets c t.1 t.2 = false) ∧
      (s.view x).acqPending = false ∧ ∀ e ∈ x.early, ∀ t ∈ ts, s.meets t.1 t.2 e.1 8 = false) :
    s.Clear x ts := by
  obtain ⟨h1, h2, h3, h4, h5, h6, h7, h8, h9⟩ := h
  exact ⟨h1, h8, h2, h3, h4, fun d e => by rw [hc] at e; cases e; exact h5, h6, fun d e => by rw [hc] at e; cases e; exact h7, h9⟩

/-- The conditions of `Settled`, each decidable. -/
theorem settled_of {s : State} {x : Ctx} {c : CtxId}
    (h : x.held = [] ∧ x.out = [] ∧ x.unmarked = [] ∧ (∀ q ∈ (s.coreOf c.core).cmds, q.who ≠ c) ∧ (∀ p ∈ s.atoms, p.2.who ≠ .ctx c) ∧
      s.matrixWrites c = false ∧ ∀ q ∈ s.unitq, q.1 ≠ c) : s.Settled x c :=
  ⟨h.1, h.2.1, h.2.2.1, h.2.2.2.1, h.2.2.2.2.1, h.2.2.2.2.2.1, h.2.2.2.2.2.2⟩

/-- The condition of a readable range, decided. -/
theorem readable_of {s : State} {sid obj off n : Nat}
    (h : (granuleStarts off n).all (fun o => match s.place sid obj o with | some p => decide (p.state ≠ 1 ∧ p.state ≠ 2) | none => true) = true ∧
      s.staleTiles sid obj off n = [] ∧ s.devBad sid obj off n = false ∧ s.stale = []) :
    s.Readable sid obj off n :=
  ⟨fun o ho p hp => by have := List.all_eq_true.mp h.1 o ho; rw [hp] at this; exact of_decide_eq_true this, h.2.1, h.2.2.1, fun g _ => by simp [State.oldLine, h.2.2.2]⟩

/-- With no byte frozen and none uncorrectable, all of scratch can be used. -/
theorem usable_of {s : State} (h : s.frozen = [] ∧ s.badScr = []) (core off n : Nat) : s.ScratchUsable core off n :=
  ⟨by simp [State.scrBad, h.2], fun j _ => by simp [State.frozenAt, h.1]⟩

/-- Each instruction of a list of parameters issues, each with its own addition to the checks. -/
theorem each_issues {α : Type} {s : State} {x : Ctx} {l : List α} {i : α → Instr} {p : α → Pre}
    (h : (l.all fun a => issuesB s (i a) (p a) x) = true) (h1 : s.ctxs.get s.cur = some x := by rfl) : ∀ a ∈ l, s.Issues (i a) (p a) x :=
  fun a ha => issues_of (List.all_eq_true.mp h a ha) h1

/-- A check that answers `a`, decided. -/
theorem ok_of {ε α : Type} [DecidableEq α] {r : Except ε α} {a : α}
    (h : (match r with | .ok b => decide (b = a) | .error _ => false) = true) : r = .ok a := by
  cases r with
  | ok b => simp at h; rw [h]
  | error e => cases h

theorem canon_of {s : State} (h : Memory.wf s.mem = true ∧ Memory.wf s.scr = true ∧ Memory.wf s.hostMem = true) : s.CanonicalMemory := h

/-- Room for each of a list of commands, decided. -/
theorem rooms_of {s : State} {x : Ctx} {l : List BankCmd} (c : CtxId) (hc : s.cur = .ctx c)
    (h : ∀ cmd ∈ l, (x.acqPending = false ∧ (∀ t ∈ cmd.ranges, s.targetPage t.1 = none) ∧
      (∀ o ∈ x.out, ∀ r ∈ o.what.ranges, ∀ t ∈ cmd.ranges, s.meets t.1 t.2 r.1 r.2 = false) ∧
      (∀ h ∈ x.held, ∀ p ∈ h.parts, ∀ t ∈ cmd.ranges, s.meets t.1 t.2 p.1 p.2.length = false) ∧
      (∀ q ∈ (s.coreOf c.core).cmds, q.who = c → ∀ r ∈ q.cmd.rows, ∀ t ∈ cmd.ranges, s.meets t.1 t.2 (rowTarget r) 64 = false) ∧
      (∀ p ∈ s.atoms, p.2.who = s.cur → ∀ t ∈ cmd.ranges, s.meets t.1 t.2 p.2.t p.2.bytes = false) ∧
      (∀ t ∈ cmd.ranges, s.matrixMeets c t.1 t.2 = false) ∧ (s.view x).acqPending = false ∧
      ∀ e ∈ x.early, ∀ t ∈ cmd.ranges, s.meets t.1 t.2 e.1 8 = false) ∧
      s.watch c.core .st cmd.ranges = none ∧ (s.coreOf c.core).cmds.length + s.pendingHalves c.core < 256) : ∀ cmd ∈ l, s.RoomFor x c cmd :=
  fun cmd hm => ⟨clear_of c hc (h cmd hm).1, (h cmd hm).2.1, (h cmd hm).2.2⟩

theorem unwatched_of {s : State} {core : Nat} (h : ∀ n (h : n < 4), ((s.coreOf core).wctl[n]).getLsbD 63 = false) : s.Unwatched core := h

/-- The same of instructions that each issue from a state of their own. -/
theorem each_state {α : Type} {s : α → State} {x : α → Ctx} {l : List α} {i : α → Instr} {p : α → Pre}
    (h : (l.all fun a => issuesB (s a) (i a) (p a) (x a)) = true) (h1 : ∀ a, (s a).ctxs.get (s a).cur = some (x a) := by intro _; rfl) :
    ∀ a ∈ l, (s a).Issues (i a) (p a) (x a) :=
  fun a ha => issues_of (List.all_eq_true.mp h a ha) (h1 a)

/-- A readable key directory, decided word by word. -/
theorem dirReady_of {s : State} {x : Ctx} {dir : Cap} (c : CtxId) (hc : s.cur = .ctx c) (n : Nat)
    (hn : 20 + 8 * s.nkeys (spaceSid x.space) dir ≤ 4 * n)
    (h : ∀ i ∈ List.range n, let off := CapF.base dir + 4 * i
      let t : Target := .dev (spaceSid x.space) (CapF.obj dir) off
      (s.capCause x.space dir off 4 { r := true } 4 = none ∧ s.leased s.curJob (spaceSid x.space) (CapF.obj dir) off 4 false false = true) ∧
      (x.acqPending = false ∧ s.targetPage t = none ∧ x.out = [] ∧ x.held = [] ∧ (s.coreOf c.core).cmds = [] ∧ s.atoms = [] ∧
        s.matrixMeets c t 4 = false ∧ (s.view x).acqPending = false ∧ x.early = []) ∧
      (granuleStarts off 4).all (fun o => match s.place (spaceSid x.space) (CapF.obj dir) o with
        | some p => decide (p.state ≠ 1 ∧ p.state ≠ 2) | none => true) = true ∧
      s.staleTiles (spaceSid x.space) (CapF.obj dir) off 4 = [] ∧ s.devBad (spaceSid x.space) (CapF.obj dir) off 4 = false ∧
        s.stale = []) : s.DirReady x dir := by
  intro i hi
  obtain ⟨⟨h1, h2⟩, ⟨a1, a2, a3, a4, a5, a6, a7, a8, a9⟩, h4⟩ := h i (List.mem_range.mpr (by omega))
  refine ⟨h1, h2, clear_of c hc ⟨a1, ?_, by simp [a3], by simp [a4], by simp [a5], by simp [a6], ?_, a8, by simp [a9]⟩, readable_of h4⟩
  · intro t ht; rw [List.mem_singleton.mp ht]; exact a2
  · intro t ht; rw [List.mem_singleton.mp ht]; exact a7

theorem wit_ScalarTwoSourceResults : ∀ i ∈ [Instr.add f3, .sub f3, .mul f3, .mulh f3, .div f3, .rem f3, .and f3, .or f3, .xor f3, .shl f3, .shr f3,
    .sar f3, .min f3, .max f3], (at' xt).Issues i {} xt := all_issue (by decide +kernel)

def fm : Fld := { z with dst := .g 1, sa := .g 2, mod := 3 }

theorem wit_ScalarOtherResults : ∀ i ∈ [Instr.cmp f3, .sel { f3 with sc := .k 4 }, .movi { z with dst := .g 1, mod := 3 },
    .ext { fm with mod := 2 }, .clz fm, .popc fm, .bfx { fm with imm := 0x1C8 }, .bfi { fm with imm := 0x1C8 }],
    (at' xt).Issues i {} xt := all_issue (by decide +kernel)

/-- A context with a completed handle h1 and a bound stream s1 (three elements 7, 15, 23). -/
def d3 : BitVec 256 := BitVec.ofNat 256 (7 + 3 * 2 ^ 64 + 2 ^ 80 + 2 ^ 96 + 8 * 2 ^ 128)
def st3 : Stream := { src := .strided d3, count := 3, run := 0, pos := 0, flags := 0, ahead := [] }
def xh : Ctx := { xt with h := xt.h.set 1 (.complete 9 []), st := xt.st.set 1 (some st3) }

theorem wit_MoveAndMaskResults :
    (∀ i ∈ [fm, { z with dst := .g 1, sa := .h 1, mod := 3 }, { z with dst := .b 1, sa := .b 2, mod := 3 }, { z with dst := .h 2, sa := .h 1, mod := 3 }],
      (at' xh).Issues (.mov i) { dyn07 := fun _ y => unbound i.sa y } xh) ∧ (((at' xh).view xh).readH 1).word = some 9 ∧
    (at' xh).Issues (.kmov { z with dst := .k 1, sa := .g 2 }) {} xh ∧
    ∀ n ∈ [0, 1, 2, 3, 4, 5], (at' xh).Issues (.klog { z with dst := .k 1, sa := .k 2, sb := .k 3, imm := n }) {} xh :=
  ⟨each_issues (p := fun (i : Fld) => { dyn07 := fun _ y => unbound i.sa y }) (by decide +kernel), by decide +kernel, issues_of (by decide +kernel),
    each_issues (p := fun _ => {}) (by decide +kernel)⟩

theorem wit_MoveAndMaskResults_handles :
    (∀ n ∈ [1, 2], (at' xh).Issues (.mov { z with dst := .g 1, sa := .h n, mod := 3 }) { dyn07 := fun _ y => unbound (.h n) y } xh) ∧
    ((at' xh).view xh).readH 1 = .complete 9 [] ∧ ((at' xh).view xh).readH 2 = .empty :=
  ⟨each_issues (p := fun (n : BitVec 4) => { dyn07 := fun _ y => unbound (.h n) y }) (by decide +kernel), by decide +kernel, by decide +kernel⟩

/-- b2 = `cap5`; g2 = 32, g3 = 48. b3 has no tag. -/
theorem wit_CapabilityFieldInstructions :
    let f : Fld := { z with dst := .b 4, sa := .b 2, sb := .g 2, sc := .g 3, imm := 1 }
    let u : Ctx := { xt with b := xt.b.set 3 0 }
    (at' xt).Issues (.cdrop { z with dst := .b 4, sa := .b 2, imm := 2 }) {} xt ∧ (at' xt).Issues (.cnarrow f) {} xt ∧
    CapF.tag cap5 = true ∧ (CapF.base cap5 ≤ 32 ∧ 48 ≤ CapF.limit cap5 ∧ (1 : BitVec 7) &&& ~~~CapF.rights cap5 = 0) ∧
    (at' xt).Issues (.cnarrow { f with sb := .g 3, sc := .g 2 }) {} xt ∧
    (at' u).Issues (.cnarrow { f with sa := .b 3 }) {} u ∧ CapF.tag (u.readB 3) = false ∧
    ∀ n ∈ [0, 1, 2, 3, 4, 5, 6], (at' xt).Issues (.cget { z with dst := .g 1, sa := .b 2, imm := n }) {} xt :=
  ⟨issues_of (by decide +kernel), issues_of (by decide +kernel), by decide +kernel, by decide +kernel, issues_of (by decide +kernel),
    issues_of (by decide +kernel), by decide +kernel, each_issues (p := fun _ => {}) (by decide +kernel)⟩

/-- JTAB's table has its entry 0 lead to slot 0 at 0x20, and to no target at 0x30, in scratch and in object 5. -/
def jt (x : Ctx) : State := { at' x with scr := [(0x31, 0x80)], mem := cells ++ [(poolKey 0 0 0x31, 0x80)] }

theorem wit_TransfersGoToLegalTargets :
    let b : Fld := { z with sa := .s 1, imm := 5 }
    let j : Fld := { z with sa := .g 0, sb := .g 2, imm := 2 }
    let k : Fld := { z with sa := .g 0, sb := .b 2, sc := .g 2, mod := 1, imm := 2 }
    (∀ i ∈ [Instr.br { z with imm := 5 }, .brx { z with sa := .g 2 }, .ret { z with sa := .g 2 }, .call { z with dst := .g 1, imm := 5 }],
      (at' xh).Issues i {} xh) ∧
    ((at' xh).Issues (.bse b) { dyn07 := fun _ y => unbound b.sa y } xh ∧ ((at' xh).view xh).readS 1 = some st3 ∧ st3.flags.getLsbD 0 = false) ∧
    (∀ i ∈ [Instr.jtabScratch j, .jtabScratch { j with sb := .g 3 }, .jtabScratch { j with sa := .g 4 }, .jtabDevice k,
      .jtabDevice { k with sc := .g 3 }, .jtabDevice { k with sa := .g 4 }], (jt xt).Issues i {} xt) ∧
    ((jt xt).scrChk 32 0 2 = .ok (0, 32) ∧ (jt xt).scrChk 48 0 2 = .ok (0, 48) ∧
      (jt xt).devChk ((jt xt).view xt) (.b 2) (capOff 32 0) 2 { r := true } false = .ok (.dev 0 5 32) ∧
      (jt xt).devChk ((jt xt).view xt) (.b 2) (capOff 48 0) 2 { r := true } false = .ok (.dev 0 5 48)) ∧
    (∀ a ∈ [32, 48], (jt xt).scrBad 0 a 2 = false ∧ (BitVec.ofNat 16 (leNat ((jt xt).readOwn xt (.scr 0 a) 2))).getLsbD 15 = (a == 48) ∧
      (BitVec.ofNat 16 (leNat ((jt xt).readOwn xt (.dev 0 5 a) 2))).getLsbD 15 = (a == 48)) ∧
    (jt xt).Clear xt [(.scr 0 32, 2)] ∧ (jt xt).Clear xt [(.scr 0 48, 2)] ∧ (jt xt).Clear xt [(.dev 0 5 32, 2)] ∧
    (jt xt).Clear xt [(.dev 0 5 48, 2)] ∧ (jt xt).Readable 0 5 32 2 ∧ (jt xt).Readable 0 5 48 2 ∧ (jt xt).targetOk (jt xt).cur 0 = true :=
  ⟨all_issue (by decide +kernel), ⟨issues_of (by decide +kernel), by decide +kernel, by decide +kernel⟩, all_issue (by decide +kernel),
    ⟨ok_of (by decide +kernel), ok_of (by decide +kernel), ok_of (by decide +kernel), ok_of (by decide +kernel)⟩, by decide +kernel, clear_of c0 rfl (by decide +kernel), clear_of c0 rfl (by decide +kernel), clear_of c0 rfl (by decide +kernel),
    clear_of c0 rfl (by decide +kernel), readable_of (by decide +kernel), readable_of (by decide +kernel), by decide +kernel⟩

/-- Its entry leads to a line without a target. -/
def jtN : State := { at' xt with mem := cells ++ [(poolKey 0 0 32, 5)] }
theorem wit_TransfersGoToLegalTargets_illegal :
    let k : Fld := { z with sa := .g 0, sb := .b 2, sc := .g 2, mod := 1, imm := 2 }
    jtN.Issues (.jtabDevice k) {} xt ∧ jtN.devChk (jtN.view xt) (.b 2) (capOff 32 0) 2 { r := true } false = .ok (.dev 0 5 32) ∧
    jtN.Clear xt [(.dev 0 5 32, 2)] ∧ jtN.Readable 0 5 32 2 ∧ BitVec.ofNat 16 (leNat (jtN.readOwn xt (.dev 0 5 32) 2)) = 5 ∧
    jtN.targetOk jtN.cur 5 = false := by
  refine ⟨issues_of ?_, ok_of ?_, clear_of c0 rfl ?_, readable_of ?_, ?_, ?_⟩ <;> decide +kernel

/-- A load's fields: g1 under tag 1, at g8 = 128, or at offset 128 of b2. -/
def fl : Fld := { z with dst := .g 1, sa := .g 8, talloc := 1, mod := 3 }
def fb : Fld := { z with dst := .g 1, sa := .b 2, sb := .g 8, talloc := 1, mod := 3 }
/-- A store's. -/
def fs : Fld := { z with sa := .g 8, sb := .g 3, mod := 3 }
def fd : Fld := { z with sa := .b 2, sb := .g 8, sc := .g 3, mod := 3 }
/-- Lanes 0 to 31 of a row at scratch 128 or at offset 128 of object 5; lane accesses that all fall on 128. -/
def rowS : List (Target × Nat) := laneRanges (.scr 0 128) (BitVec.allOnes 32)
def rowD : List (Target × Nat) := laneRanges (.dev 0 5 128) (BitVec.allOnes 32)
def quiet (ts : List (Target × Nat)) : Prop :=
  (at' xt).Clear xt ts ∧ (at' xt).watch 0 .ld ts = none ∧ (at' xt).watch 0 .st ts = none

theorem quiet_of {ts : List (Target × Nat)} (h : (at' xt).Clear xt ts) (w : (at' xt).watch 0 .ld ts = none ∧ (at' xt).watch 0 .st ts = none) :
    quiet ts := ⟨h, w⟩

theorem wit_LoadsAndPlainStores_loads :
    ((at' xt).Issues (.ld fl) {} xt ∧ (at' xt).localRef 128 0 8 = .ok (.scr 0 128) ∧ quiet [(.scr 0 128, 8)]) ∧
    ((at' xt).Issues (.ld { fl with sa := .g 40 }) {} xt ∧
      (at' xt).localRef 0x80000 0 8 = .ok (.unit (.barrier 0 0))) ∧
    ((at' xt).Issues (.ldg fb) {} xt ∧ (at' xt).devChk ((at' xt).view xt) (.b 2) (capOff 128 0) 8 { r := true } false true = .ok (.dev 0 5 128) ∧
      quiet [(.dev 0 5 128, 8)]) ∧
    ((at' xt).Issues (.ldc { fb with dst := .b 4, mod := 0 }) {} xt ∧
      (at' xt).devChk ((at' xt).view xt) (.b 2) (capOff 128 0) 16 { r := true, l := true } false = .ok (.dev 0 5 128) ∧ quiet [(.dev 0 5 128, 16)]) ∧
    ((at' xt).Issues (.vld { fl with dst := .v 1 }) { gated := false } xt ∧ (at' xt).scrChk 128 0 128 = .ok (0, 128) ∧ quiet rowS) ∧
    ((at' xt).Issues (.vldg { fb with dst := .v 1 }) { gated := false } xt ∧
      (at' xt).devChk ((at' xt).view xt) (.b 2) (capOff 128 0) 128 { r := true } false = .ok (.dev 0 5 128) ∧ quiet rowD) ∧
    ((at' xt).Issues (.vgath { fl with dst := .v 1, sb := .v 3, mod := 2 }) { gated := false } xt ∧
      (at' xt).laneTargets 128 0 (BitVec.allOnes 32) = .ok (List.replicate 32 (some (.scr 0 128))) ∧
      quiet (List.replicate 32 (.scr 0 128, 4))) := by
  refine ⟨⟨issues_of ?_, ok_of ?_, quiet_of (clear_of c0 rfl ?_) ?_⟩, ⟨issues_of ?_, ok_of ?_⟩, ⟨issues_of ?_, ok_of ?_, quiet_of (clear_of c0 rfl ?_) ?_⟩,
    ⟨issues_of ?_, ok_of ?_, quiet_of (clear_of c0 rfl ?_) ?_⟩, ⟨issues_of ?_, ok_of ?_, quiet_of (clear_of c0 rfl ?_) ?_⟩,
    ⟨issues_of ?_, ok_of ?_, quiet_of (clear_of c0 rfl ?_) ?_⟩, issues_of ?_, ok_of ?_, quiet_of (clear_of c0 rfl ?_) ?_⟩ <;> decide +kernel

theorem wit_LoadsAndPlainStores_stores :
    let parts (t : Target) := vecParts t (BitVec.allOnes 32) 0
    let sized (ps : List (Target × List Byte)) : List (Target × Nat) := ps.map fun p => (p.1, p.2.length)
    let y := (at' xt).view xt
    fs.ord ≠ 2 ∧ fd.ord ≠ 2 ∧
    ((at' xt).Issues (.st fs) {} xt ∧ (at' xt).localRef 128 0 8 = .ok (.scr 0 128) ∧ quiet [(.scr 0 128, 8)]) ∧
    ((at' xt).Issues (.st { fs with sa := .g 41 }) {} xt ∧ (at' xt).localRef 0x80200 0 8 = .ok (.unit (.event 0 0)) ∧
      (at' xt).unitReserved (.event 0 0) 48 = false ∧ xt.acqPending = false) ∧
    ((at' xt).Issues (.stg fd) {} xt ∧ (at' xt).devChk y (.b 2) (capOff 128 0) 8 { w := true } true true = .ok (.dev 0 5 128) ∧
      quiet [(.dev 0 5 128, 8)]) ∧
    ((at' xt).Issues (.stc { fd with sc := .b 2, mod := 0 }) {} xt ∧ (at' xt).capCause 0 cap5 (capOff 128 0) 16 { w := true, l := true } 1 = none ∧
      CapF.g cap5 = true ∧ (at' xt).devChk y (.b 2) (capOff 128 0) 16 { w := true, l := true } true = .ok (.dev 0 5 128) ∧
      quiet [(.dev 0 5 128, 16)]) ∧
    ((at' xt).Issues (.vst { fs with sb := .v 3 }) { gated := false } xt ∧ (at' xt).scrChk 128 0 128 = .ok (0, 128) ∧
      quiet (sized (parts (.scr 0 128)))) ∧
    ((at' xt).Issues (.vstg { fd with sc := .v 3 }) { gated := false } xt ∧
      (at' xt).devChk y (.b 2) (capOff 128 0) 128 { w := true } true = .ok (.dev 0 5 128) ∧ quiet (sized (parts (.dev 0 5 128)))) ∧
    ((at' xt).Issues (.vscat { fs with sb := .v 3, sc := .v 4, mod := 2 }) { gated := false } xt ∧
      (at' xt).laneTargets 128 0 (BitVec.allOnes 32) = .ok (List.replicate 32 (some (.scr 0 128))) ∧
      quiet (List.replicate 32 (.scr 0 128, 4))) := by
  refine ⟨?_, ?_, ⟨issues_of ?_, ok_of ?_, quiet_of (clear_of c0 rfl ?_) ?_⟩, ⟨issues_of ?_, ok_of ?_, ?_, ?_⟩,
    ⟨issues_of ?_, ok_of ?_, quiet_of (clear_of c0 rfl ?_) ?_⟩, ⟨issues_of ?_, ?_, ?_, ok_of ?_, quiet_of (clear_of c0 rfl ?_) ?_⟩,
    ⟨issues_of ?_, ok_of ?_, quiet_of (clear_of c0 rfl ?_) ?_⟩, ⟨issues_of ?_, ok_of ?_, quiet_of (clear_of c0 rfl ?_) ?_⟩,
    issues_of ?_, ok_of ?_, quiet_of (clear_of c0 rfl ?_) ?_⟩ <;> decide +kernel

/-- A request for the 8 bytes at scratch 128, with an addend. -/
def req7 (op : Nat) : AtomReq :=
  { who := .ctx c0, space := 0, t := .scr 0 128, op := op, bytes := 8, x := 5, y := 0, ord := 0, wants := true, link := none, merged := [],
    source := 0, rid := 0, led := false, reply := none, applied := false, wp := none, group := 0, quiet := false, kacc := none }
def sa7 : State := { at' xt with atoms := [(7, req7 0)] }

theorem wit_AtomicRequestsSentAndApplied :
    let t := Target.scr 0 128
    let fa : Fld := { z with dst := .g 1, sa := .g 8, sc := .g 3, talloc := 1, mod := 3 }
    let fn : Fld := { fa with dst := .g 0, talloc := 0 }
    let y := (at' xt).view xt
    (fa.ord ≠ 2 ∧ (at' xt).Clear xt [(t, 8)] ∧ (at' xt).atomRoom [t] = true ∧
      (at' xt).atomRoom ((List.range 32).map fun j => t.plus (4 * j)) = true) ∧
    ((at' xt).Issues (.atom fa) {} xt ∧ (at' xt).atomTarget y fa 0 8 { r := true, a := true } = .ok t ∧
      (at' xt).Issues (.atom { fa with sa := .b 2, sb := .g 8 }) {} xt ∧
      (at' xt).atomTarget y { fa with sa := .b 2, sb := .g 8 } 0 8 { r := true, a := true } = .ok (.dev 0 5 128)) ∧
    ((at' xt).Issues (.ared fn) {} xt ∧ (at' xt).atomTarget y fn 0 8 { a := true } = .ok t) ∧
    ((at' xt).Issues (.acas fa) { regs := [.g (fa.imm.extractLsb' 18 6)] } xt) ∧
    ((at' xt).Issues (.vared { fn with sc := .v 4 }) { gated := false } xt ∧
      (at' xt).atomTarget y { fn with sc := .v 4 } 0 128 { a := true } = .ok t ∧
      (at' xt).Clear xt ((List.range 32).map fun j => (t.plus (4 * j), 4))) ∧
    (sa7.CanonicalMemory ∧ sa7.earlierAtom [7] 7 (req7 0) = false ∧ (∀ p ∈ sa7.atoms, p.2.merged = []) ∧ sa7.ScratchUsable 0 128 8) := by
  refine ⟨⟨?_, clear_of c0 rfl ?_, ?_, ?_⟩, ⟨issues_of ?_, ok_of ?_, issues_of ?_, ok_of ?_⟩, ⟨issues_of ?_, ok_of ?_⟩, issues_of ?_,
    ⟨issues_of ?_, ok_of ?_, clear_of c0 rfl ?_⟩, canon_of ?_, ?_, ?_, usable_of ⟨rfl, rfl⟩ _ _ _⟩ <;> decide +kernel

/-! ## Group 3 -/

def fv : Fld := { z with dst := .v 1, sa := .v 2, sb := .v 3 }
/-- The same on I32 lanes. -/
def fi : Fld := { fv with mod := 3 }

theorem wit_VectorArithmeticLanes : ∀ i ∈ [Instr.vadd fv, .vadd fi, .vsub fv, .vsub fi, .vmul fv, .vmul fi, .vfma { fv with sc := .v 4 },
    .vfma { fi with sc := .v 4 }], (at' xt).Issues i laneMask xt := all_issue (by decide +kernel)

theorem wit_VectorBitwiseAndMoveLanes :
    (∀ i ∈ [Instr.vand fv, .vor fv, .vxor fv, .vshl fv, .vshr { fi with imm := 0x10000000 }, .vshr fi, .vabs { fv with sb := .g 0 },
      .vmin fv, .vmin fi, .vmax fv, .vmax fi, .vsel { fv with sc := .k 1 }, .viota { z with dst := .v 1 }, .vperm fv],
      (at' xt).Issues i laneMask xt) ∧
    (at' xt).Issues (.vbcst { fv with sb := .g 0, imm := 7 })
      { gated := false, dyn02 := fun s y => pdScalar y s.pairView.isSome (.v 2) && (7 : BitVec 32) != 0 } xt :=
  ⟨all_issue (by decide +kernel), issues_of (by decide +kernel)⟩

theorem wit_VectorFunctionAndConvertLanes :
    let f : Fld := { fv with sb := .g 0 }
    let px : Ctx := { xt with status := xt.status ||| 0x340004 }
    (∀ i ∈ [Instr.vrcp f, .vrsq f, .vexp f, .vrcp { f with mod := 1 }], (at' xt).Issues i laneMask xt) ∧
    (at' xt).Issues (.vcvt { f with imm := 3 }) { gated := false, pfx := some fun _ => true } xt ∧
    (at' px).Issues (.vcvt f) { gated := false, pfx := some fun _ => true } px ∧
    px.pp = true ∧ payB px.payload < 10 ∧ payAsc px.payload = 0 ∧ payBsc px.payload = 0 :=
  ⟨all_issue (by decide +kernel), issues_of (by decide +kernel), issues_of (by decide +kernel), by decide +kernel⟩

theorem wit_VectorComparisonsAndReductions :
    (∀ i ∈ [Instr.vcmp { fv with dst := .k 1, imm := 0x02000000 }, .vcmp { fi with dst := .k 1, imm := 0x09000000 },
      .vred { fv with sb := .g 0 }, .vred { fi with sb := .g 0 }, .vscan { fi with sb := .g 0, imm := 0x02000000 }],
      (at' xt).Issues i laneMask xt) := all_issue (by decide +kernel)

theorem wit_VectorLaneReadAndWrite :
    (∀ i ∈ [Instr.vgetl { fv with dst := .g 1, sb := .g 2 }, .vsetl { fv with sa := .g 3, sb := .g 2 }], (at' xt).Issues i laneMask xt) :=
  all_issue (by decide +kernel)

/-! ## Group 6 -/

/-- A bank command of the context on the row at scratch 128, and the core that holds it. -/
def cmd0 : BankCmd := .fill (scrKey 0 128) 7
def sb0 (cmd : BankCmd) : State := { at' xt with cores := [(0, { Core.init 0 with cmds := [{ who := c0, index := 8, cmd := cmd }] })] }

theorem wit_BankCommandsQueuedAndPerformed :
    let f : Fld := { z with sa := .g 8, sb := .g 3 }
    let g : Fld := { f with imm := 1 }
    let f2 : Fld := { f with mod := 0 }
    let b := bankOperand f ((at' xt).view xt) false (.g 3)
    ((∀ i ∈ [Instr.badd f, .bmax f, .bmin f, .bfma { f with sc := .g 4 }, .bcvt { f with sb := .g 0, imm := 0x20000000 }, .bfill f, .bscl g],
        (at' xt).Issues i (bankPreMod f) xt) ∧
      (at' xt).Issues (.bcnt { f with sb := .k 1, mod := 3 }) (countPre { f with sb := .k 1, mod := 3 }) xt ∧ (at' xt).Issues (.bsmx f2) {} xt ∧
      (at' xt).Issues (.bred { f with sb := .g 8, imm := 1 }) (bankPreMod { f with sb := .g 8, imm := 1 }) xt) ∧
    ((at' xt).scrChk 128 0 1 = .ok (0, 128)) ∧
    (∀ cmd ∈ [BankCmd.lane 0 0 128 b 0, .count 3 128 0, .convert 0 2 128, cmd0, .softmax 128 0, .scale 0 128 1 b, .reduce 0 128 128 1 0],
      (at' xt).RoomFor xt c0 cmd) ∧
    ((at' xt).Issues (.bsync z) {} xt ∧ ((at' xt).coreOf 0).cmds = [] ∧ ∀ fr, (at' xt).frameOf c0 = some fr → fr.mq = []) ∧
    ((sb0 cmd0).CanonicalMemory ∧ ((sb0 (.lane 0 0 128 b 0)).coreOf 0).cmds = [{ who := c0, index := 8, cmd := .lane 0 0 128 b 0 }] ∧
      (sb0 cmd0).ScratchUsable 0 128 64) := by
  refine ⟨⟨all_issue ?_, issues_of ?_, issues_of ?_, issues_of ?_⟩, ok_of ?_, rooms_of c0 rfl ?_, ⟨issues_of ?_, rfl, fun fr h => by cases h; rfl⟩, canon_of ?_, rfl,
    usable_of ⟨rfl, rfl⟩ _ _ _⟩
  all_goals decide +kernel

/-! ## Group 7 -/

/-- Scratch holds at 0x20 a strided descriptor of 7, 15 and 23. -/
def sst : State := { at' xh with scr := memWrite [] 0x20 (bytesOf 32 d3.toNat) }

theorem st3_strided : st3.Strided d3 := ⟨rfl, by decide +kernel, by decide +kernel, fun k h => absurd h (Nat.not_lt_zero k), .inr rfl⟩

theorem wit_StreamInstructions :
    let fb : Fld := { z with dst := .s 2, sa := .g 2 }
    let fs1 : Fld := { z with sa := .s 1, sb := .g 1 }
    (sst.Issues (.sbind fb) {} xh ∧ sst.scrChk 32 0 32 = .ok (0, 32) ∧ sst.Clear xh [(.scr 0 32, 32)] ∧ sst.scrBad 0 32 32 = false ∧
      BitVec.ofNat 256 (leNat (sst.readOwn xh (.scr 0 32) 32)) = d3 ∧ descReserved d3 = false ∧ d3.extractLsb' 112 8 = 0) ∧
    (let sp : State := { at' (xh.writeS 1 (some { st3 with turn := true })) with pairView := some xh }
     let xp := xh.writeS 1 (some { st3 with turn := true })
     sp.Issues (.mov { z with dst := .g 1, sa := .s 1, mod := 3 }) { dyn07 := fun _ y => unbound (.s 1) y } xp ∧
     (sp.view xp).readS 1 = some st3 ∧ ∀ new, xp.readS 1 = some new → new.turn ≠ st3.turn) ∧
    ((sst.view xh).readS 1 = some st3 ∧ xh.readS 1 = some st3 ∧ st3.Strided d3 ∧ 0 < st3.count) ∧
    sst.Issues (.mov { z with dst := .g 1, sa := .s 1, mod := 3 }) { dyn07 := fun _ y => unbound (.s 1) y } xh ∧
    (∀ i ∈ [Instr.sskip fs1, .sposRead { fs1 with dst := .g 1, sb := .g 0 }, .sposSet { fs1 with mod := 1 }, .sposSet { fs1 with sb := .g 0, mod := 1 }],
      sst.Issues i { dyn07 := fun _ y => unbound (.s 1) y } xh) ∧ sst.Issues (.sfree { z with sa := .s 1 }) {} xh := by
  refine ⟨⟨issues_of ?_, ok_of ?_, clear_of c0 rfl ?_, ?_, ?_, ?_, ?_⟩, ⟨issues_of ?_, ?_, fun new h => ?_⟩, ⟨rfl, rfl, st3_strided, ?_⟩, issues_of ?_,
    all_issue ?_, issues_of ?_⟩
  case refine_10 => cases h; decide
  all_goals decide +kernel

/-- A buffer of four 128-byte slots at 0x400, of a producer and a consumer. -/
def cbp (prod cons : Nat) : CircBuf := CircBuf.ofDesc (BitVec.ofNat 32 (2 ^ 31 + prod * 2 ^ 29 + cons * 2 ^ 27 + 3 * 2 ^ 21 + 2 * 2 ^ 13 + 16))
/-- Buffers 0 to 7: ready to produce; closed; a slot acquired; a slot filled; a slot waited for; empty and closed; as buffer 0; abandoned.
Semaphore counts 3. -/
def fr7 : Frame := { Frame.whole with
  cbs := #v[cbp 1 2, { cbp 1 2 with closed := true }, { cbp 1 2 with free := 3, prodPos := 1, acq := [(0, some .computer, 0, false)] },
    { cbp 0 1 with free := 3, filled := 1, fifo := [0] }, { cbp 0 1 with free := 3, waited := [0], consPos := 1 }, { cbp 0 1 with closed := true },
    cbp 1 2, { cbp 1 2 with abandoned := true }],
  sems := Vector.replicate 8 3 }
def scb : State := { at' xt with frames := [((0, 0), fr7)] }
def fn (n : BitVec 32) (dst : Operand) : Fld := { z with dst := dst, imm := n }

theorem wit_CircularBuffersAndSemaphores :
    (∀ n ∈ [0, 1], scb.Issues (.cbacq (fn n (.g 1))) { dyn07 := cbMisuse (fn n (.g 1)) true fun _ _ => false } xt) ∧
    ((fr7.cb 1).closed = true ∧ (fr7.cb 0).closed = false ∧ (fr7.cb 0).abandoned = false ∧ 0 < (fr7.cb 0).free) ∧
    (∀ n ∈ [3, 5], scb.Issues (.cbwait (fn n (.g 1))) { dyn07 := cbMisuse (fn n (.g 1)) false fun _ _ => false } xt) ∧
    ((fr7.cb 3).fifo = [0] ∧ (fr7.cb 5).fifo = [] ∧ (fr7.cb 5).closed = true) ∧
    scb.Issues (.cbrel (fn 4 (.g 0))) { dyn07 := cbMisuse (fn 4 (.g 0)) false fun b _ => b.waited.isEmpty } xt ∧
    (∀ n ∈ [2, 7], scb.Issues (.cbclose (fn n (.g 0))) { dyn07 := cbMisuse (fn n (.g 0)) true fun b _ => b.closed } xt) ∧
    ((fr7.cb 2).abandoned = false ∧ (fr7.cb 7).abandoned = true) ∧
    (scb.Issues (.cbpub (fn 2 (.g 0))) { dyn07 := cbMisuse (fn 2 (.g 0)) true fun b k => ! b.acq.any (ownedSlot k) } xt ∧
      (fr7.cb 2).acq = [(0, some .computer, 0, false)] ∧ scb.halfPending c0 = false ∧ (scb.coreOf 0).cmds = [] ∧ scb.Clear xt [(.scr 0 (fr7.slotOff (fr7.cb 2) 0), (fr7.cb 2).slotBytes)]) ∧
    (scb.Issues (.semw (fn 2 (.g 0))) {} xt ∧ fr7.sem 2 ≠ 0 ∧ fr7.semq = []) ∧
    scb.Issues (.sems (fn 2 (.g 0))) { dyn07 := fun s _ => match s.curFrame with
      | some fr => if fr.sem 2 = 255 then some ((Config.freeValue s.freeTick).extractLsb' 0 32) else none | none => none } xt := by
  refine ⟨each_issues (p := fun n => { dyn07 := cbMisuse (fn n (.g 1)) true fun _ _ => false }) ?_, ?_,
    each_issues (p := fun n => { dyn07 := cbMisuse (fn n (.g 1)) false fun _ _ => false }) ?_, ?_, issues_of ?_,
    each_issues (p := fun n => { dyn07 := cbMisuse (fn n (.g 0)) true fun b _ => b.closed }) ?_, ?_, ⟨issues_of ?_, rfl, ?_, rfl, clear_of c0 rfl ?_⟩, ⟨issues_of ?_, ?_, rfl⟩, issues_of ?_⟩ <;> decide +kernel

/-! ## Group 8 -/

/-- CPY in its four forms, and the row copies: scratch 128, scratch 256, offset 256 of object 5, 16 bytes or rows of 64. -/
def fcp : Fld := { z with dst := .h 1, sa := .g 8, sb := .b 2, sc := .g 16, imm := 16 }
def frow : Fld := { fcp with imm := 64 }
def rows0 : List Nat := List.replicate 32 0

theorem wit_CopiesQueued :
    let s := at' xt
    let y := s.view xt
    let f1 : Fld := { fcp with sa := .b 2, sb := .g 16, sc := .g 8, mod := 1 }
    let f2 : Fld := { fcp with sb := .g 0, mod := 2 }
    let f3 : Fld := { f1 with sc := .b 2, mod := 3 }
    let fk : Fld := { fcp with sa := .k 0 }
    let fa : Fld := { f1 with mod := 0, imm := 64 }
    (queueLoad 0 (s.engineOf 0) < 32 ∧ takenRows (y.mask32 frow) (y.readV 0) = rows0) ∧
    (s.Issues (.cpyScratchFromDevice fcp) { dyn07 := cbnMisuse fcp } xt ∧ s.copyDev y (.b 2) 256 16 false = .ok (.dev 0 5 256) ∧
      s.engineDest y fcp 16 16 = .ok (.scr 0 128, none, false)) ∧
    (scb.Issues (.cpyScratchFromDevice fk) { dyn07 := cbnMisuse fk } xt ∧ (fr7.cb 0).free ≠ 0 ∧
      scb.engineDest y fk 16 16 = .ok (.scr 0 0x400, some (0, 0), false)) ∧
    (s.Issues (.cpyDeviceFromScratch f1) {} xt ∧ s.copyDev y (.b 2) 256 16 true = .ok (.dev 0 5 256) ∧
      s.derivedChk y 5 256 = .ok () ∧ s.engineScratch 128 16 16 = .ok (.scr 0 128)) ∧
    (s.Issues (.cpyScratchFromScratch f2) { dyn07 := cbnMisuse f2 } xt ∧ s.engineDest y f2 16 16 = .ok (.scr 0 128, none, false) ∧
      s.engineScratch 256 16 16 = .ok (.scr 0 256)) ∧
    (s.Issues (.cpyDeviceFromDevice f3) { regs := [.g 0] } xt ∧ s.copyDev y (.b 2) 256 16 true = .ok (.dev 0 5 256) ∧ s.copyDev y (.b 2) 0 16 false = .ok (.dev 0 5 0)) ∧
    (s.Issues (.cpyx frow) { rowPre frow with dyn07 := cbnMisuse frow } xt ∧ s.rowsChk y (.b 2) 256 64 { r := true } rows0 = .ok () ∧
      s.engineDest y frow 2048 64 = .ok (.scr 0 128, none, false)) ∧
    (s.Issues (.ebag frow) { rowPre frow with dyn07 := cbnMisuse frow } xt ∧ s.engineDest y frow 64 64 = .ok (.scr 0 128, none, false)) ∧
    (s.Issues (.cpya fa) (rowPre fa) xt ∧ s.rowsChk y (.b 2) 256 64 { a := true } rows0 = .ok () ∧ s.rowsDerived y (.b 2) 256 64 rows0 = .ok () ∧
      s.engineScratch 128 2048 64 = .ok (.scr 0 128)) := by
  refine ⟨⟨?_, ?_⟩, ⟨issues_of ?_, ok_of ?_, ok_of ?_⟩, ⟨issues_of ?_, ?_, ok_of ?_⟩, ⟨issues_of ?_, ok_of ?_, ok_of ?_, ok_of ?_⟩,
    ⟨issues_of ?_, ok_of ?_, ok_of ?_⟩, ⟨issues_of ?_, ok_of ?_, ok_of ?_⟩, ⟨issues_of ?_, ok_of ?_, ok_of ?_⟩, ⟨issues_of ?_, ok_of ?_⟩,
    ⟨issues_of ?_, ok_of ?_, ok_of ?_, ok_of ?_⟩⟩ <;> decide +kernel

/-- Every access of a copy lies within the lease. -/
def leasedAll (s : State) (c : CopyOp) : Bool := c.accesses.all fun a => s.granted s.cur a.1 a.2.1 a.2.2.1 a.2.2.2
theorem wit_CopiesQueued_leased :
    let s := at' xt
    let y := s.view xt
    let mk (i : Instr) (f : Fld) (src dst : Target) : CopyOp :=
      { newCopy i f src dst with vi := y.readV (f.imm.extractLsb' 19 5), mask := y.mask32 f, skip := false }
    leasedAll s (mk (.cpyScratchFromDevice fcp) fcp (.dev 0 5 256) (.scr 0 128)) = true ∧
    leasedAll s (mk (.cpyDeviceFromScratch fcp) fcp (.scr 0 128) (.dev 0 5 256)) = true ∧
    leasedAll s (mk (.cpyDeviceFromDevice fcp) fcp (.dev 0 5 0) (.dev 0 5 256)) = true ∧
    leasedAll s (mk (.cpyx frow) frow (.dev 0 5 256) (.scr 0 128)) = true ∧ leasedAll s (mk (.ebag frow) frow (.dev 0 5 256) (.scr 0 128)) = true ∧
    leasedAll s (mk (.cpya frow) frow (.scr 0 128) (.dev 0 5 256)) = true := by decide +kernel

/-- Operation 9: a copy of 16 bytes from scratch 128 to scratch 256, alone in queue 0. -/
def op9 (k : OpKind) : Op := { who := c0, space := 0, job := 0, kind := k }
def scp (begun : Bool) : State := { at' xt with
  ops := [(9, op9 (.copy { newCopy (.cpyScratchFromScratch fcp) fcp (.scr 0 128) (.scr 0 256) with begun := begun }))], engine := [(0, [.op 9 0])] }

theorem wit_CopiesPerformed :
    (∀ b, (scp b).queueOp 0 0 = some (9, op9 (.copy { newCopy (.cpyScratchFromScratch fcp) fcp (.scr 0 128) (.scr 0 256) with begun := b }),
      { newCopy (.cpyScratchFromScratch fcp) fcp (.scr 0 128) (.scr 0 256) with begun := b })) ∧
    (∀ b, (scp b).CanonicalMemory ∧ (scp b).Unwatched 0 ∧ (scp b).ScratchUsable 0 128 16 ∧ (scp b).ScratchUsable 0 256 16) ∧
    (scp false).saving (0, 0) = false ∧ (scp false).Settled xt c0 :=
  ⟨fun b => by cases b <;> rfl,
    fun b => ⟨canon_of ⟨rfl, rfl, rfl⟩, unwatched_of (by cases b <;> decide +kernel), usable_of ⟨rfl, rfl⟩ _ _ _, usable_of ⟨rfl, rfl⟩ _ _ _⟩,
    by decide +kernel, settled_of (by decide +kernel)⟩

/-- Handles h1 complete, h2 empty, h3 the pending copy of operation 9, h4 complete with a fault word. -/
def xf : Ctx := { xt with h := ((xt.h.set 1 (.complete 9 [])).set 3 (.pending 9)).set 4 (.complete (faultWord 0x30 0) []) }
def sf : State := { at' xf with ops := (scp true).ops, engine := (scp true).engine }

theorem wit_Futures :
    let y := sf.view xf
    let j : Fld := { z with dst := .h 6, sa := .h 1, sb := .h 4 }
    ((∀ n ∈ [1, 2], sf.Issues (.fwait { z with dst := .g 1, sa := .h n }) {} xf) ∧ y.readH 1 = .complete 9 [] ∧ y.readH 2 = .empty) ∧
    (∀ n ∈ [1, 3], sf.Issues (.ftest { z with dst := .g 1, sa := .h n }) {} xf) ∧
    (sf.Issues (.fjoin j) {} xf ∧ (y.readH 4).word = some (faultWord 0x30 0) ∧ sf.Issues (.fjoin { j with sb := .h 3 }) {} xf ∧
      (y.readH 3).word = none) ∧
    (sf.Issues (.fcancel { z with sa := .h 1 }) {} xf ∧ sf.Issues (.fcancel { z with sa := .h 3 }) {} xf ∧ y.readH 3 = .pending 9) ∧
    ((at' xt).Issues (.qfence { z with imm := 1 }) {} xt ∧ (at' xt).engineOf 0 = []) := by
  refine ⟨⟨each_issues (p := fun _ => {}) ?_, ?_, ?_⟩, each_issues (p := fun _ => {}) ?_, ⟨issues_of ?_, ?_, issues_of ?_, ?_⟩,
    ⟨issues_of ?_, issues_of ?_, ?_⟩, issues_of ?_, ?_⟩ <;> decide +kernel

/-- A handler run of chain 7 on slice 4, and what it runs from. -/
def trig7 : Trigger := { chain := 7, first := true, h := 0, off := 0, g2 := 0, g3 := 0, g4 := 0, b1 := cap5 }
def chain7 : Chain := { op := none, page := none, space := 0, job := some 0, started := 1, live := 1, word := none, g1 := 0 }
def sh : State := { at' xt with
  cur := .handler 4, ctxs := [(.handler 4, xt)], runs := [(4, { trig := trig7, count := 0, work := 0 })], chains := [(7, chain7)] }

theorem wit_ShipAndMessage :
    let f : Fld := { z with dst := .h 1, sa := .b 2, sb := .g 8, sc := .g 3 }
    let m : Fld := { z with sa := .g 8, sb := .g 3, sc := .g 4 }
    let n : Fld := { z with sa := .b 2, sb := .g 8, sc := .g 3, mod := 1 }
    ((at' xt).Settled xt c0 ∧ (at' xt).Issues (.shipHandler f) { regs := [.g (f.imm.extractLsb' 18 6)] } xt ∧
      (at' xt).capChk ((at' xt).view xt) (.b 2) (capOff 128 0) 8 { x := true } 8 = .ok 128) ∧
    ((at' xt).Issues (.shipRed { f with imm := 16 }) { regs := [.g 0] } xt ∧
      (at' xt).capChk ((at' xt).view xt) (.b 2) (capOff 128 0) 64 { r := true, x := true } 64 = .ok 128) ∧
    ((at' xt).CanonicalMemory ∧ (at' xt).Issues (.msgScratch m) {} xt ∧ (at' xt).engineScratch 128 16 16 = .ok (.scr 0 128) ∧
      (at' xt).doneOwner 0 128 = none ∧ (at' xt).ScratchUsable 0 128 16) ∧
    (sh.Issues (.msgHandler n) (handlerOnly n) xt ∧ sh.capChk (sh.view xt) (.b 2) (capOff 128 0) 8 { x := true } 8 = .ok 128 ∧
      chain7.started < 64) := by
  refine ⟨⟨settled_of ?_, issues_of ?_, ok_of ?_⟩, ⟨issues_of ?_, ok_of ?_⟩, ⟨canon_of ?_, issues_of ?_, ok_of ?_, ?_, usable_of ⟨rfl, rfl⟩ _ _ _⟩,
    issues_of ?_, ok_of ?_, ?_⟩ <;> decide +kernel

/-! ## Groups 2 and 0xD -/

/-- Two frames of one core with the same task: a RALLY set of two. -/
def s2 (x : Ctx) : State := { at' x with frames := [((0, 0), Frame.whole), ((0, 1), Frame.whole)] }
/-- An exchange phase is open. -/
def xx : Ctx := { xt with status := 0x12 }

theorem wit_HintsEndAndTrappingInstructions :
    (∀ i ∈ [Instr.nop z, .rally z, .rally { z with imm := 5 }, .yield z, .yield { z with imm := 255 }, .endCtx z, .brk z, .svc { z with imm := 0xFFFF }],
      (at' xt).Issues i {} xt) ∧
    (∀ o ∈ (at' xt).rallySet c0, o = c0) ∧
    ((s2 xt).Issues (.rally { z with imm := 5 }) {} xt ∧ ∃ o ∈ (s2 xt).rallySet c0, o ≠ c0 ∧ (s2 xt).ralliedAt o xt.pc = false) ∧
    ((at' xt).Settled xt c0 ∧ xt.xp = false ∧ ∀ n, n < 32 → ((at' xt).clusterAt 0 |>.mutex n).holder ≠ some c0) ∧
    ((at' xx).Issues (.endCtx z) {} xx ∧ xx.xp = true) := by
  refine ⟨all_issue ?_, ?_, ⟨issues_of ?_, ⟨0, 1, .computer⟩, ?_⟩, ⟨settled_of ?_, ?_, ?_⟩, issues_of ?_, ?_⟩ <;> decide +kernel

/-- TVEC at line 0, whose slot 0 is a target; a store without that line. -/
def lines (cause : Nat) : State := { at' xt with clusters := [(0, { Cluster.init with store := [(cause, lineOfWord 0)] })] }

theorem wit_TrapEntryOrKill :
    (xt.sv = false ∧ (∀ k y, (lines 0x10).ctxs.get (.ctx ⟨0, 0, k⟩) = some y → y.out = []) ∧ (lines 0x10).frameOf c0 = some Frame.whole) ∧
    (0x10 < storeLines (.ctx c0) ∧ tgtBit ((lines 0x10).line (.ctx c0) 0x10) 0 = true ∧ tgtBit ((lines 0x10).line (.ctx c0) 0x11) 0 = false) ∧
    (Frame.whole.killed = none ∧ Frame.whole.group = none ∧ xs.sv = true ∧
      ∀ k y, (at' xs).ctxs.get (.ctx ⟨0, 0, k⟩) = some y → y.held = [] ∧ y.unmarked = []) :=
  ⟨⟨by decide +kernel, fun k y h => by cases k <;> cases h; rfl, rfl⟩, by decide +kernel, by decide +kernel, by decide +kernel, by decide +kernel,
    fun k y h => by cases k <;> cases h; exact ⟨rfl, rfl⟩⟩

theorem wit_ReturnFromException :
    (at' xs).Issues (.eret z) { gated := false } xs ∧ (at' xs).frameOf c0 = some Frame.whole ∧
    (xs.sv = true ∧ xt.sv = false ∧ (∀ i ∈ [Instr.eret z, .eret { z with pk := 1 }], waitsForTag ((at' xs).view xs) i = false ∧ waitsForTag ((at' xt).view xt) i = false) ∧ inProfile (at' xt).cur false 0x348 = true) ∧
    (at' xs).Issues (.sets { z with sa := .g 2, imm := 1 }) {} xs ∧ ((xs.readG 2).extractLsb' 12 3).toNat < 5 :=
  ⟨issues_of (by decide +kernel), rfl, by decide +kernel, issues_of (by decide +kernel), by decide +kernel⟩

/-- k1 is zero, so predicate 1 suppresses. -/
theorem wit_SuppressedInstructions :
    (at' xt).ctxs.get (at' xt).cur = some xt ∧ waitsForTag ((at' xt).view xt) (.add { f3 with pk := 1 }) = false ∧
    ((at' xt).view xt).executes { f3 with pk := 1 } = false := ⟨rfl, by decide +kernel, by decide +kernel⟩

/-- A storer lacks SETS at task level (0x01); a computer has it in its profile (0x08). -/
def sl : State := { at' xt with cur := .ctx ⟨0, 0, .storer⟩, ctxs := [(.ctx ⟨0, 0, .storer⟩, xt)] }
theorem wit_FirstCheckWins :
    (∀ i ∈ [Instr.sets z, .xflush z, .slotset z, .fsave z, .frest z, .eret z, .idle z, .xmig z], waitsForTag ((at' xt).view xt) i = false ∧ waitsForTag (sl.view xt) i = false) ∧ ((at' xt).view xt).executes z = true ∧ xt.sv = false ∧
    (sl.ctxs.get sl.cur = some xt ∧ (sl.view xt).executes z = true) ∧
    (∀ o ∈ [0x341, 0x342, 0x345, 0x346, 0x347, 0x348, 0x34A, 0x34D], inProfile sl.cur false o = false ∧ inProfile (at' xt).cur false o = true ∧
      ∀ n ∈ featuresOf o 0, (at' xt).feature n = true) :=
  ⟨by decide +kernel, by decide +kernel, by decide +kernel, ⟨rfl, by decide +kernel⟩, by decide +kernel⟩

/-- g2 with a slot field of 5. -/
def xsb : Ctx := { xs with g := xs.g.set 2 0x5000 }

theorem wit_SystemRegisterReadsAndWrites :
    let gets (n : BitVec 32) : Fld := { z with dst := .g 1, imm := n }
    (∀ n ∈ [0x000, 0x001, 0x006, 0x010, 0x011, 0x012, 0x014, 0x020, 0x027, 0x030, 0x031, 0x032], (at' xs).Issues (.gets (gets n)) {} xs) ∧
    (at' xs).Issues (.gets { gets 0x013 with talloc := 1 }) {} xs ∧ (Frame.whole.mq = [] ∧ Frame.whole.gidx < 64 ∧ tdGw Frame.whole.tdesc < 256) ∧
    (∀ n ∈ [0x000, 0x001, 0x002, 0x003, 0x004, 0x005, 0x006, 0x010, 0x012, 0x030, 0x031, 0x032],
      (at' xs).Issues (.sets { z with sa := .g 2, imm := n }) {} xs) ∧
    ((32 : Word).extractLsb' 12 3).toNat < 5 ∧ 5 ≤ ((xsb.readG 2).extractLsb' 12 3).toNat ∧ (at' xsb).Issues (.sets { z with sa := .g 2, imm := 1 }) {} xsb := by
  refine ⟨each_issues (p := fun _ => {}) ?_, issues_of ?_, ?_, each_issues (p := fun _ => {}) ?_, ?_, ?_, issues_of ?_⟩ <;> decide +kernel

/-- g2 as a watchpoint's control: enabled over 16 bytes, on local or device addresses; and FRAME's KILL bit. -/
def xwc (w : Word) : Ctx := { xs with g := xs.g.set 2 w }
theorem wit_SystemRegisterReadsAndWrites_watch :
    (∀ n ∈ [0x011, 0x013, 0x014, 0x020, 0x021, 0x022, 0x023, 0x024, 0x025, 0x026, 0x027], (at' xs).Issues (.sets { z with sa := .g 2, imm := n }) {} xs) ∧
    (∀ w ∈ [(0x8000000000000000 : Word), 0x8000000000000030], ∀ n ∈ [0x012, 0x021], (at' (xwc w)).Issues (.sets { z with sa := .g 2, imm := n }) {} (xwc w)) ∧
    ((at' xs).coreOf 0).wctl[0].getLsbD 63 = false ∧ (0x8000000000000000 : Word).extractLsb' 4 2 ≠ 3 ∧ (0x8000000000000030 : Word).extractLsb' 4 2 = 3 ∧
    ((at' xs).coreOf 0).wbase[0] = 0 ∧ (at' (xwc 0x8000000000000000)).frameOf c0 = some Frame.whole ∧ Frame.whole.killed = none ∧
    Frame.whole.group = none ∧ (∀ k y, (at' (xwc 0x8000000000000000)).ctxs.get (.ctx ⟨0, 0, k⟩) = some y → y.held = [] ∧ y.unmarked = []) := by
  refine ⟨each_issues (p := fun _ => {}) ?_, fun w hw => each_issues (p := fun _ => {}) ?_, ?_, ?_, ?_, ?_, ?_, ?_, ?_,
    fun k y h => by cases k <;> cases h <;> exact ⟨rfl, rfl⟩⟩
  · decide +kernel
  · rcases List.mem_cons.mp hw with rfl | hw
    · decide +kernel
    · obtain rfl := List.mem_singleton.mp hw; decide +kernel
  all_goals decide +kernel

/-- A context with a pending cause. -/
def xp0 : Ctx := { xs with pend := [⟨0x22, 0, 0⟩] }
theorem wit_SystemControlInstructions :
    (∀ n ∈ [0, 1, 16, 17], (at' xt).Issues (.feat { z with dst := .g 1, imm := n }) {} xt) ∧
    (∀ n ∈ [0, 9], (at' xs).Issues (.idle { z with dst := .g 1, imm := n }) {} xs) ∧ (xs.pend = [] ∧ (at' xs).linkClear c0 = true ∧ xs.wait.isIdle = false) ∧
    ((at' xp0).Issues (.idle { z with dst := .g 1 }) {} xp0 ∧ xp0.pend ≠ []) ∧
    (∀ i ∈ [Instr.slotset { z with sa := .g 42 }, .xflush { z with sa := .g 2 }, .phase z, .fence z, .fenceWin { z with imm := 0x20000000 }],
      (at' xs).Issues i {} xs) ∧
    (slotsReserved 0 = false ∧ (32 : Word).extractLsb' 37 27 = 0 ∧ (at' xs).Settled xs c0 ∧ (at' xs).unitq = []) := by
  refine ⟨each_issues (p := fun _ => {}) ?_, each_issues (p := fun _ => {}) ?_, ?_, ⟨issues_of ?_, ?_⟩, all_issue ?_, ⟨?_, ?_, settled_of ?_, ?_⟩⟩ <;>
    decide +kernel

/-- Frame 1 of core 0 holds a task of type 0, which can be saved; object 6 holds a save area's header. -/
def small : Frame := { Frame.whole with tdesc := (at' xs).taskEntry 0 0 }
def sv : State := { at' xs with frames := [((0, 0), Frame.whole), ((0, 1), small)], mem := cells ++ [(poolKey 0 0 47, 1)] }

theorem wit_LeaseSaveAndRestore :
    let l : Fld := { z with dst := .h 1, sa := .b 2, sb := .g 2, sc := .g 3, imm := 0x10000 }
    let a : Fld := { z with dst := .h 1, sa := .g 43, sb := .b 3, sc := .g 42 }
    let w : Needs := { w := true, l := true }
    let r : Needs := { r := true, l := true }
    let h := areaHead (sv.readOwn xs (.dev 0 6 0) 256)
    ((at' xs).Issues (.lease l) { dyn02 := fun s _ => s.badDomain l.id } xs ∧ l.id = 0 ∧
      (at' xs).leaseCause 0 cap5 32 48 true false = none ∧ (at' xs).leaseCount 0 < 1024) ∧
    ((at' xs).Issues (.lfree { z with sa := .g 42 }) {} xs ∧ Card.leaseCnt job0.card ≤ 0 ∧
      job0.lease.find? (fun e => e.id == 0) = some ⟨0, 0, 5, 0, 0x10000, true, true⟩) ∧
    ((at' xs).Issues (.fsave a) {} xs ∧ (at' xs).areaTarget 1 3 0x346 = .ok 0 ∧ (at' xs).frames.get (0, 1) = none ∧
      (at' xs).areaChk 0 cap6 (.b 3) 0 64 w = .ok (.dev 0 6 0)) ∧
    (sv.Issues (.fsave a) {} xs ∧ sv.frames.get (0, 1) = some small ∧
      sv.areaChk 0 cap6 (.b 3) 0 (tdGw small.tdesc * areaBytes (tdSdem small.tdesc)) w = .ok (.dev 0 6 0) ∧
      ∀ m ∈ sv.domainFrames small 0 1, sv.saving m = false) ∧
    (sv.Issues (.frest { a with sa := .g 42 }) {} xs ∧ sv.areaTarget 0 0 0x347 = .ok 0 ∧ sv.areaChk 0 cap6 (.b 3) 0 256 r = .ok (.dev 0 6 0) ∧
      sv.Clear xs [(.dev 0 6 0, 256)] ∧ sv.Readable 0 6 0 256 ∧ sv.headCause (.dev 0 6 0) h 0 = none ∧
      sv.areaChk 0 cap6 (.b 3) 0 (tdGw (sv.areaType (.dev 0 6 0) h) * areaBytes (tdSdem (sv.areaType (.dev 0 6 0) h))) r = .ok (.dev 0 6 0)) := by
  refine ⟨⟨issues_of ?_, ?_, ?_, ?_⟩, ⟨issues_of ?_, ?_, ?_⟩, ⟨issues_of ?_, ok_of ?_, rfl, ok_of ?_⟩, ⟨issues_of ?_, rfl, ok_of ?_, ?_⟩,
    issues_of ?_, ok_of ?_, ok_of ?_, clear_of c0 rfl ?_, readable_of ?_, ?_, ok_of ?_⟩ <;> decide +kernel

/-! ## Group 0xB -/

def k5 : ObjKey := objKey 0 0 0x1005
/-- A record of k5 that BARA keeps, as it stands. -/
def rec5 (own rel brk : Bool) : BaraRec := { key := k5, phase := none, released := rel, broken := brk, own := own }
def xb (w : Wait) (r : List BaraRec) : Ctx := { xt with bara := r, wait := w }
def f5 : Fld := { z with imm := 0x1005 }

theorem wit_BarrierInstructions :
    let i : Instr := .barw f5
    (∀ i ∈ [Instr.bara f5, .bar f5, .done f5], (at' xt).Issues i (domainPre f5) xt) ∧
    ((at' xt).idChk f5 0x1005 0x2C1 = .ok () ∧ (at' xt).Settled xt c0 ∧ xt.bara = [] ∧ xt.wait.isBarrier = false) ∧
    (∀ o ∈ [0x2C0, 0x2C2, 0x2C3], (at' xt).idChk f5 0x1005 o = .ok ()) ∧
    (∀ r ∈ [[rec5 true true false], [rec5 true true true], [rec5 true false false], []],
      (at' (xb .none r)).Issues i (domainPre f5) (xb .none r)) ∧
    (∀ r ∈ [[rec5 true true false], [rec5 true true true]], (at' (xb .barrier r)).Issues (.bar f5) (domainPre f5) (xb .barrier r)) :=
  ⟨all_issue (by decide +kernel), ⟨ok_of (by decide +kernel), settled_of (by decide +kernel), by decide +kernel, by decide +kernel⟩, fun o _ => rfl,
    each_state (i := fun _ => .barw f5) (p := fun _ => domainPre f5) (x := fun (r : List BaraRec) => xb .none r) (by decide +kernel),
    each_state (i := fun _ => .bar f5) (p := fun _ => domainPre f5) (x := fun (r : List BaraRec) => xb .barrier r) (by decide +kernel)⟩

/-- An exchange of schedule bits 0 and 3 that began at T = 0. -/
def ex0 : Exchange := { sched := 9, key := k5, start := some 0, restored := false }
/-- STATUS.XP set, in that exchange. -/
def xe (w : Wait) (r : List BaraRec) : Ctx := { xt with status := 0x12, bara := r, wait := w, xch := some ex0 }

theorem wit_SignalsAndExchange :
    let b : Fld := { z with sa := .g 8, imm := 0x1005 }
    let d : Fld := { z with sa := .g 8, sb := .v 3 }
    ((at' xt).Issues (.evsig { z with sa := .g 41 }) {} xt ∧ (at' xt).localChk 0x80200 0 = .ok (0, true, 0x200)) ∧
    ((at' xt).Issues (.xbegin b) { dyn02 := fun s _ => s.badDomain b.id } xt ∧ xt.xp = false ∧ (at' xt).scrChk 128 0 128 = .ok (0, 128) ∧
      (at' xt).Clear xt [(.scr 0 128, 128)] ∧ (at' xt).scrBad 0 128 128 = false ∧
      (at' (xb .barrier [rec5 false true false])).Issues (.xbegin b) { dyn02 := fun s _ => s.badDomain b.id } (xb .barrier [rec5 false true false]) ∧
      (xb .barrier [rec5 false true false]).bara.find? (fun r => r.own == false && r.key.id == k5.id) = some (rec5 false true false)) ∧
    (∀ n ∈ [0, 3, 5], (at' (xe .none [])).Issues (.xsend { d with imm := n }) {} (xe .none [])) ∧
    ((at' (xe .sent [])).Issues (.xsend d) {} (xe .sent []) ∧ (at' (xe .none [])).engineScratch 128 128 128 = .ok (.scr 0 128) ∧
      (at' (xe .none [])).Unwatched 0 ∧ (at' (xe .none [])).CanonicalMemory ∧ (at' (xe .none [])).Clear (xe .none []) [(.scr 0 128, 128)] ∧
      (at' (xe .none [])).ScratchUsable 0 128 128) ∧
    ((at' (xe .none [])).coreOf 0).xsent = [] ∧
    (ex0.sched.getLsbD 0 = true ∧ ex0.sched.getLsbD 3 = true ∧ ex0.sched.getLsbD 5 = false ∧ (at' (xe .none [])).clock = 0) ∧
    ((at' (xe .none [])).Issues (.xend z) {} (xe .none []) ∧ (xe .none []).xp = true ∧ (at' (xe .none [])).Settled (xe .none []) c0 ∧
      (at' (xe .barrier [rec5 false true false])).Issues (.xend z) {} (xe .barrier [rec5 false true false])) := by
  refine ⟨⟨issues_of ?_, ok_of ?_⟩, ⟨issues_of ?_, ?_, ok_of ?_, clear_of c0 rfl ?_, ?_, issues_of ?_, ?_⟩, each_issues (p := fun _ => {}) ?_,
    ⟨issues_of ?_, ok_of ?_, unwatched_of ?_, canon_of ?_, clear_of c0 rfl ?_, usable_of ⟨rfl, rfl⟩ _ _ _⟩, rfl, ?_,
    ⟨issues_of ?_, ?_, settled_of ?_, issues_of ?_⟩⟩ <;> decide +kernel

/-- An arrival of the context at an object's root, and a release of its phase 0. -/
def arr (k : ObjKey) : Arrival := { key := k, who := some c0, fin := false, xch := false, quiet := false }
def rel (xch : Bool) : Release := { who := c0, key := k5, phase := 0, broken := false, xch := xch, time := 0 }

theorem wit_BarrierObjectEvents :
    let s : State := { at' xt with arrivals := [arr k5] }
    let one : State := { s with barriers := [(k5, { phase := 0, sum := 1, extra := 0, doneCtr := none, groupCount := none, counted := [c0], extWord := none })] }
    let k6 := objKey 0 0 0x1006
    (s.ctxs.get (.ctx c0) = some xt ∧ (s.barEntry k5).1 = 2 ∧ s.frozen = [] ∧ (s.barrier k5).sum + 1 < 2 + (s.barrier k5).extra) ∧
    ((arr k5).path.isEmpty = true ∧ (arr k5).fin = false ∧ (arr k5).quiet = false) ∧
    (one.ctxs.get (.ctx c0) = some xt ∧ (one.barEntry k5).1 = 2 ∧ 2 + (one.barrier k5).extra ≤ (one.barrier k5).sum + 1) ∧
    ((s.barEntry k6).1 = 0 ∧ s.frameOf c0 = some Frame.whole ∧ Frame.whole.killed = none ∧ xt.ended = false ∧ xt.pend.length < 4) ∧
    ((rel false).xch = false ∧ (rel true).xch = true ∧ (rel true).key = k5 ∧ (xe .none [rec5 false false false]).xch = some ex0 ∧
      (rel true).time + 96 ≤ 96 ∧ s.clock < (rel true).time + 96 ∧
      ({ xb .none [{ rec5 false false false with phase := some 0 }] with xch := some { ex0 with start := none } } : Ctx).inXbegin k5 0 = true) ∧
    (let w := xe (.xsend 0 (.scr 0 128) 7) []
     w.wait = .xsend 0 (.scr 0 128) 7 ∧ w.xch = some ex0 ∧ (at' w).clock = 0 ∧ (at' w).CanonicalMemory ∧ (at' w).Clear w [(.scr 0 128, 128)] ∧
       (at' w).ScratchUsable 0 128 128 ∧ ((at' w).coreOf 0).xsent = []) := by
  refine ⟨⟨rfl, ?_, rfl, ?_⟩, ⟨rfl, rfl, rfl⟩, ⟨rfl, ?_, ?_⟩, ⟨?_, rfl, ?_, ?_, ?_⟩, ?_, rfl, rfl, ?_, canon_of ?_, clear_of c0 rfl ?_,
    usable_of ⟨rfl, rfl⟩ _ _ _, rfl⟩ <;> first | decide +kernel | exact ⟨rfl, rfl, rfl, rfl, by decide, by decide, by decide⟩

/-- An arrival that cluster 0's router holds for object 0x2005, come through core 0's port; the port of core 1 was marked in the phase before. -/
def held5 (marked : List Nat) (clock : Nat) : State :=
  { at' xt with
    arrivals := [(at' xt).arrivalOf (objKey 0 0 0x2005) c0], portMarks := [{ router := 0, key := objKey 0 0 0x2005, marked := marked, ports := [] }],
    clock := clock }
theorem wit_BarrierObjectEvents_router :
    (held5 [1] 0).mayForward 0 (objKey 0 0 0x2005) = false ∧ (held5 [1] 32).mayForward 0 (objKey 0 0 0x2005) = true ∧
    (held5 [0] 0).mayForward 0 (objKey 0 0 0x2005) = true ∧ (held5 [0] 0).mayForward 1 (objKey 0 0 0x2005) = false := by decide +kernel

/-- Tollgate lines of cluster 0 in use: barrier lines enabled with a goal of 2 and with this context pending, a mutex this context holds, one
that another holds, an event signalled 3 times. -/
def c1 : CtxId := ⟨1, 0, .computer⟩
def tolls : Cluster := { Cluster.init with
  bars := [(1, { cfg := BitVec.ofNat 64 (2 ^ 63 + 2 * 2 ^ 48 + 3), count := 0, phase := 7, pending := [], waiters := [] }),
    (2, { cfg := BitVec.ofNat 64 (2 ^ 63 + 2 * 2 ^ 48 + 3), count := 1, phase := 7, pending := [c0], waiters := [] })],
  mutexes := [(1, { holder := some c0, grants := 1, waiters := [c1] }), (2, { holder := some c1, grants := 1, waiters := [] })],
  events := [(1, { count := 3, waiters := [] }), (2, { count := 0, waiters := [c1] })] }
def stoll (x : Ctx) (q : List (CtxId × UnitWord × Word)) : State := { at' x with clusters := [(0, tolls)], unitq := q }
def wl (u : UnitWord) : Ctx := { xt with out := [⟨1, .g 1, false, .unit u, 0, 0, 0, {}⟩] }

theorem wit_TollgateLineEvents :
    (∀ p ∈ [(UnitWord.config 0 0, (5 : Word)), (.barrier 0 0, 1), (.barrier 0 1, 1), (.barrier 0 2, 1), (.mutex 0 1, 0), (.mutex 0 2, 0), (.event 0 1, 1),
      (.event 0 2, 1), (.event 0 1, 0)], (stoll xt [(c0, p.1, p.2)]).unitq = [(c0, p.1, p.2)] ∧ (stoll xt [(c0, p.1, p.2)]).ctxs.get (.ctx c0) = some xt) ∧
    (∀ u ∈ [UnitWord.barrier 0 0, .barrier 0 1, .barrier 0 2, .mutex 0 0, .mutex 0 2, .event 0 0, .event 0 1],
      (stoll (wl u) []).ctxs.get (.ctx c0) = some (wl u) ∧ (wl u).out.head?.map (·.what) = some (.unit u) ∧ (stoll (wl u) []).unitq = []) ∧
    ((tolls.bar 0).en = false ∧ (tolls.bar 1).en = true ∧ (tolls.bar 1).pending.contains c0 = false ∧ (tolls.bar 2).en = true ∧
      (tolls.bar 2).pending.contains c0 = true ∧ (tolls.bar 2).waiters.contains c0 = false) ∧
    ((tolls.mutex 0).holder = none ∧ (tolls.mutex 2).holder.isSome = true ∧ (tolls.mutex 2).waiters.contains c0 = false) ∧
    (tolls.event 1).count ≠ 0 ∧ (tolls.event 0).count = 0 ∧ (tolls.event 0).waiters.contains c0 = false :=
  ⟨fun _ _ => ⟨rfl, rfl⟩, fun _ _ => ⟨rfl, rfl, rfl⟩, by decide +kernel⟩

/-- Context c1 waits at the mutex line that this context holds, and at an event line that it signals. -/
theorem wit_TollgateLineEvents_woken :
    ∀ u ∈ [UnitWord.mutex 0 1, .event 0 2], ((wl u).out.head?.map (·.what)) = some (.unit u) ∧ u.isLine = true ∧
      ({ stoll xt [(c0, u, 1)] with ctxs := [(.ctx c0, xt), (.ctx c1, wl u)] }).ctxs.get (.ctx c1) = some (wl u) ∧
      (tolls.mutex 1).waiters = [c1] ∧ (tolls.event 2).waiters = [c1] ∧ [c1].Nodup := by
  intro u hu
  rcases List.mem_cons.mp hu with rfl | hu
  · exact ⟨rfl, rfl, rfl, rfl, rfl, by decide⟩
  · obtain rfl := List.mem_singleton.mp hu; exact ⟨rfl, rfl, rfl, rfl, rfl, by decide⟩

/-! ## Group 9 -/

def frG : Frame := { Frame.whole with tdesc := BitVec.ofNat 512 (6 * 2 ^ 48 + 6 * 2 ^ 56 + 6 * 2 ^ 64 + 32 * 2 ^ 72 + 512 * 2 ^ 80 + 4 * 2 ^ 96 + 4 * 2 ^ 104 + 2 * 2 ^ 112) }
def sG : State := { at' xt with frames := [((0, 0), frG)] }
/-- Rows of 64 bytes from scratch 128 up, in steps of 64; 32 rows of 256 bytes in steps of 256. -/
def rows64 (n : Nat) : List Nat := (List.range n).map fun i => 128 + 64 * i
def rows256 : List Nat := (List.range 32).map fun i => 128 + 256 * i

theorem wit_MatrixInstructionsAreQueued :
    let s := at' xt
    let y := s.view xt
    let v : Fld := { z with dst := .h 1, sa := .g 8, sb := .v 3, sc := .v 4, imm := 0x02000000 }
    (s.frameOf c0 = some Frame.whole ∧ Frame.whole.mq.length < 8 ∧ sG.frameOf c0 = some frG ∧ frG.mq.length < 8) ∧
    (∀ n ∈ [0, 0x4011], s.Issues (.fmtp { z with imm := n }) { own05 := decide (11 < (n.extractLsb' 0 4).toNat) || decide (11 < (n.extractLsb' 4 4).toNat) } xt) ∧
    (s.Issues (.mlda { z with sa := .g 8, sb := .v 3, sc := .g 4, imm := 64 }) {} xt ∧
      mldaRows s 128 64 0 64 (List.range 32) = .ok (List.replicate 32 128) ∧ s.Clear xt ((List.replicate 32 128).map fun k => keyRange k 64)) ∧
    (s.Issues (.mldb { z with sa := .g 8, imm := 16384 }) {} xt ∧ s.scrChk 128 0 64 = .ok (0, 128) ∧ s.Clear xt [keyRange 128 16384]) ∧
    (s.Issues (.mscl { z with sa := .g 8, imm := 0x7040 }) {} xt ∧ s.Issues (.mscl { z with sa := .g 16, imm := 0x8100 }) {} xt ∧
      s.scrChk 128 0 1 = .ok (0, 128) ∧ s.scrChk 256 0 1 = .ok (0, 256) ∧ s.Clear xt [keyRange 128 64] ∧ s.Clear xt [keyRange 256 256]) ∧
    (s.Issues (.mmac { z with imm := 8 }) (macPre { z with imm := 8 } [0] fun _ => false) xt ∧ scaleChk Frame.whole y.matPlan 8 = .ok ()) ∧
    (sG.Issues (.mmacg { z with imm := 8 }) (macPre { z with imm := 8 } [0, 1] fun fr => fr.gw == 1 || decide (fr.gcols < 2) || decide (4 < fr.gw / fr.gcols)) xt ∧
      scaleChk frG y.matPlan 8 = .ok ()) ∧
    (s.Issues (.mmvb v) { accs := [0], dyn02 := fun s _ => s.badDomain v.id } xt ∧ pitchRows s 128 64 64 (List.range 2) = .ok (rows64 2) ∧
      (s.coreOf 0).cmds.length + s.pendingHalves 0 < 256 ∧ s.Unwatched 0 ∧ s.Clear xt ((rows64 2).map fun k => keyRange k 64)) ∧
    (s.Issues (.mst { z with sa := .g 8, sb := .g 16 })
      { accs := [0], dyn02 := fun _ y => ((Operand.g 0) != .g 0) != (y.matPlan.asc != 0),
        pfx := some fun y => y.matPlan.af < 10 && (y.matPlan.asc == 0 || takesScale y.matPlan.af && y.matPlan.asc != 3) &&
          y.matPlan.bf == 0 && y.matPlan.bsc == 0 } xt ∧
      pitchRows s 128 256 256 (List.range 32) = .ok rows256 ∧ mstScale s 0 y.matPlan.asc = .ok none ∧
      s.Clear xt (rows256.map fun k => keyRange k 256)) ∧
    s.Issues (.mzero { z with imm := 0xC0000000 }) { accs := [3] } xt ∧ s.Clear xt [] := by
  refine ⟨⟨rfl, ?_, rfl, ?_⟩, each_issues (p := fun (n : BitVec 32) => { own05 := decide (11 < (n.extractLsb' 0 4).toNat) || decide (11 < (n.extractLsb' 4 4).toNat) }) ?_,
    ⟨issues_of ?_, ok_of ?_, clear_of c0 rfl ?_⟩, ⟨issues_of ?_, ok_of ?_, clear_of c0 rfl ?_⟩,
    ⟨issues_of ?_, issues_of ?_, ok_of ?_, ok_of ?_, clear_of c0 rfl ?_, clear_of c0 rfl ?_⟩, ⟨issues_of ?_, ok_of ?_⟩, ⟨issues_of ?_, ok_of ?_⟩,
    ⟨issues_of ?_, ok_of ?_, ?_, unwatched_of ?_, clear_of c0 rfl ?_⟩, ⟨issues_of ?_, ok_of ?_, ok_of ?_, clear_of c0 rfl ?_⟩,
    issues_of ?_, clear_of c0 rfl ?_⟩ <;> decide +kernel

/-- A frame with one instruction in its queue. -/
def mq1 (cmd : MatCmd) : MatOp := { who := .computer, cmd := cmd, payload := none, rm := 0, steps := 0 }
def smq (cmd : MatCmd) : State := { at' xt with frames := [((0, 0), { Frame.whole with mq := [mq1 cmd] })], scr := [(128, 3)] }

theorem wit_MatrixQueueIsPerformed :
    (∀ cmd ∈ [MatCmd.zero 3, .ldb 128 64, .lda (List.replicate 32 128) 64, .scl false 7 128 64, .scl true 0 256 256, .mac 0 8, .mac 0 16],
      (smq cmd).frames.get (0, 0) = some { Frame.whole with mq := [mq1 cmd] } ∧ (smq cmd).saving (0, 0) = false ∧ (smq cmd).badScr = []) ∧
    ((smq (.mac 0 8)).stepFrame 0 = some 0 ∧ (smq (.mac 0 16)).stepFrame 0 = some 0 ∧ Frame.whole.badA = [] ∧ Frame.whole.badB = [] ∧
      ∀ t ∈ Frame.whole.sclA.toList ++ Frame.whole.sclB.toList, t = none) :=
  ⟨fun _ _ => ⟨rfl, rfl, rfl⟩, by decide +kernel⟩

/-! ## Group 0xA -/

/-- Object 5 holds a join descriptor at 0x8000: one node with rows of 8 bytes, its relation at 0xA000, its directory at 0x9000 of the one key 48,
rows 0 and 1. b4 is the descriptor's capability. -/
def key5 (o : Nat) : Nat := poolKey 0 0 o
def relC : Cap := capMake 0xFF 5 0xA000 0xB000
def dirC : Cap := capMake 0xFF 5 0x9000 0xA000
def sJ (x : Ctx) : State := { at' x with
  mem := memWrite (memWrite (memWrite (memWrite (memWrite cells (key5 0x8000) [1, 1]) (key5 0x8040) [0xFF, 0, 0, 0, 0, 0, 8]) (key5 0x8050)
    (bytesOf 16 relC.toNat ++ bytesOf 16 dirC.toNat)) (key5 0x9000) [1]) (key5 0x9010) [48, 0, 0, 0, 0, 0, 0, 0, 2],
  tags := [key5 0x8050 / 16, key5 0x8060 / 16] }
def xj : Ctx := { xh with b := xh.b.set 4 (capMake 0xFF 5 0x8000 0x10000), st := xh.st.set 2 (some { st3 with pos := 1 }) }

def nodeJ : JoinNode := { parent := 255, nflags := 0, keycol := 0, k2col := 0, rowsz := 8, heavy := 0, tail := 0, rel := relC, dir := dirC }

theorem d3_ascends : Ascends d3 := by
  intro p q hp hq
  have h3 : stridedCount d3 = 3 := by decide +kernel
  have h : ∀ q < 3, ∀ p < q, (stridedWord d3 p).toNat < (stridedWord d3 q).toNat := by decide +kernel
  exact h q (h3 ▸ hq) p hp

theorem wit_JoinsAndKeyStreams :
    let s := sJ xj
    let f (m : BitVec 2) : Fld := { z with dst := .s 3, sa := .b 4, sb := .g 42, sc := .g 3, mod := m }
    let ks : Fld := { z with sa := .s 1, sb := .g 1 }
    (∀ m ∈ [0, 1, 2], s.Issues (.jbind (f m)) {} xj) ∧
    (s.capChk (s.view xj) (.b 4) 0x8000 128 {} 1 = .ok 0x8000 ∧ s.Clear xj [(.dev 0 5 0x8000, 64)] ∧ s.Clear xj [(.dev 0 5 0x8040, 64)] ∧
      s.Readable 0 5 0x8000 64 ∧ s.Readable 0 5 0x8040 64 ∧ s.DirReady xj dirC) ∧
    (s.leased s.curJob 0 5 0x8000 128 false false = true ∧ JoinNode.read s (s.view xj) (.dev 0 5 0x8040) (s.readOwn xj (.dev 0 5 0x8040) 64) = nodeJ ∧
      (∀ m ∈ [0, 1, 2], joinCheck (s.readOwn xj (.dev 0 5 0x8000) 64) 0 nodeJ m = none) ∧ s.nkeys 0 dirC = 1 ∧
      0x9000 + 20 + 8 * 1 ≤ min (CapF.limit dirC) (s.objSize 0 5) ∧ 0xA000 + (0 + 2) * 8 ≤ min (CapF.limit relC) (s.objSize 0 5) ∧ s.locate 0 dirC 48 = (0, 0, 2) ∧
      ∀ p < 2, s.leased s.curJob 0 5 (0xA000 + p * 8) 4 false false = true) ∧
    ((s.view xj).readS 1 = some st3 ∧ xj.readS 1 = some st3 ∧ st3.Strided d3 ∧ s.Issues (.kcnt { ks with dst := .g 1, sb := .g 0 }) { dyn07 := fun _ y => unbound (.s 1) y } xj) ∧
    s.Issues (.kseek ks) { dyn07 := fun _ y => notKeyed (.s 1) y } xj ∧
    (s.Issues (.kisect { z with dst := .g 1, sa := .s 1, sb := .s 2 }) { dyn07 := fun _ y => (notKeyed (.s 1) y).or (notKeyed (.s 2) y) } xj ∧
      (s.view xj).readS 2 = some { st3 with pos := 1 } ∧ xj.readS 2 = some { st3 with pos := 1 } ∧ Stream.Strided { st3 with pos := 1 } d3 ∧ Ascends d3 ∧ stridedWord d3 1 = stridedWord d3 1) := by
  refine ⟨each_issues (p := fun _ => {}) ?_, ⟨ok_of ?_, clear_of c0 rfl ?_, clear_of c0 rfl ?_, readable_of ?_, readable_of ?_, dirReady_of c0 rfl 7 ?_ ?_⟩,
    ?_, ⟨rfl, rfl, st3_strided, issues_of ?_⟩, issues_of ?_, issues_of ?_, rfl, rfl, ⟨rfl, ?_, ?_, fun k h => absurd h (Nat.not_lt_zero k), .inr rfl⟩,
    d3_ascends, rfl⟩ <;> decide +kernel

theorem wit_KeyedTablesAndHeat :
    let s := at' xs
    let y := s.view xs
    let l : Fld := { z with dst := .g 1, sa := .g 8, sb := .g 3, talloc := 1, imm := 0x60 }
    let k : Fld := { z with sa := .g 8, sb := .g 3, sc := .v 4, mod := 0, imm := 0x60 }
    let cmd : BankCmd := .kacc 0 128 0 4 48 (bankOperand k y false (.v 4))
    let h : Fld := { z with dst := .g 1, sa := .b 2, sb := .g 8 }
    let m : Fld := { z with sa := .b 5, sb := .g 8, sc := .g 42 }
    (s.Issues (.klook l) {} xs ∧ s.tableChk y l { r := true } false = .ok (.scr 0 128) ∧ s.Clear xs (Pending.klook (.scr 0 128) 48 0 4 (s.coreOf s.curCore).watches).ranges) ∧
    (s.Issues (.kacc k) {} xs ∧ ((s.src xs k (.g 3)).extractLsb' 0 32) = 48 ∧ s.tableChk y k { r := true, a := true } true = .ok (.scr 0 128) ∧
      ∀ c ∈ [cmd], s.RoomFor xs c0 c) ∧
    (s.Issues (.kacc { k with sa := .b 2 }) {} xs ∧ s.tableChk y { k with sa := .b 2 } { r := true, a := true } true = .ok (.dev 0 5 0) ∧
      s.Clear xs [(.dev 0 5 0, tableSize 0)] ∧ s.atomRoom [.dev 0 5 0] = true) ∧
    ((∀ n ∈ [0, 1], s.Issues (.sheat { h with mod := n }) {} xs) ∧ s.capChk y (.b 2) (capOff 128 0) 1 { r := true, w := true } 1 = .ok 128 ∧
      s.capChk y (.b 2) (capOff 128 0) 1 { r := true } 1 = .ok 128 ∧ (s.place 0 5 128).isSome = true) ∧
    (s.Issues (.xmig m) {} xs ∧ s.Issues (.xmig { m with sc := .g 43 }) {} xs ∧ s.classOf 0 7 = some 1 ∧
      s.capChk y (.b 5) (capOff 128 0) 1 { w := true } 1 = .ok 128 ∧ (s.place 0 7 128).map (fun p => (p.slice, p.state)) = some (0, 0)) := by
  refine ⟨⟨issues_of ?_, ok_of ?_, clear_of c0 rfl ?_⟩, ⟨issues_of ?_, ?_, ok_of ?_, rooms_of c0 rfl ?_⟩,
    ⟨issues_of ?_, ok_of ?_, clear_of c0 rfl ?_, ?_⟩, ⟨each_issues (p := fun _ => {}) ?_, ok_of ?_, ok_of ?_, ?_⟩,
    issues_of ?_, issues_of ?_, ?_, ok_of ?_, ?_⟩ <;> decide +kernel

/-- b4: the first 64 bytes of object 5. Derivation 3: object 6 from them by rule 0, tile 0 stale; the context waits for a read of it. -/
def xd : Ctx := { xt with b := xt.b.set 4 (capMake 0xFF 5 0 64) }
def dv : Deriv := { sid := 0, imm := 0, ba := capMake 0xFF 5 0 64, bb := 0, bc := 0, bt := cap6, level := 1 }
def xw : Ctx := { xd with out := [⟨1, .g 1, false, .load (.dev 0 6 0) 8, 0, 0, 0, {}⟩] }
def sd (x : Ctx) (t : Tile) : State := { at' x with derivs := [(3, dv)], tiles := [((3, 0), t)], nextId := 4 }
def stale0 : Tile := { stale := true, gen := 0, err := false, busy := none }

theorem wit_DerivedTensors :
    let s := at' xd
    let y := s.view xd
    let f : Fld := { z with dst := .b 3, sa := .b 4 }
    let n : Fld := { z with sa := .b 3 }
    (s.Issues (.dreg f) {} xd ∧ s.CanonicalMemory ∧ s.capMissing y [.b 3, .b 4] = none ∧ CapF.d (capMake 0xFF 5 0 64) = true ∧ CapF.w cap6 = true ∧
      dv.extentBad f (s.nkeys 0 0) = none ∧ CapF.base cap6 % 4096 = 0 ∧ dv.scaled = false ∧ (s.objEntry 0 6).map (fun e => (e.derived, e.cls)) = some (false, 0) ∧
      s.derivOf 0 6 = none ∧ 6 ∉ s.baseClosure 0 s.derivs.length [s.realObj 0 5] ∧ s.derivs = []) ∧
    (∀ t ∈ [stale0, { stale0 with stale := false }],
      ((sd xd t).derivOf 0 6 = some (3, dv) ∧ (sd xd t).derivs.get 3 = some dv ∧ ((sd xd t).tile 3 0).busy = none ∧
        (sd xd t).capMissing ((sd xd t).view xd) [.b 3] = none ∧ (sd xd t).leased (sd xd t).curJob 0 6 0 (capLen cap6) false false = true)) ∧
    (∀ t ∈ [stale0, { stale0 with stale := false }], (sd xd t).Issues (.dsync { n with dst := .h 1 }) {} xd) ∧
    (dv.tiles = 1 ∧ CapF.r cap6 = true) ∧
    (∀ i ∈ [Instr.ddrop n, .dstat { n with dst := .g 1, sb := .g 42, talloc := 1 }], (sd xd stale0).Issues i {} xd) ∧
    s.Issues (.ddrop n) {} xd ∧ ((sd xd stale0).ops = [] ∧ ((sd xd stale0).tile 3 0).busy = none) ∧ ((sd xd stale0).tileCount 0 6).1 = 1 ∧
    ((Target.dev 0 6 0, 8) ∈ (sd xw stale0).waitingReads ∧ (3, 0) ∈ (sd xw stale0).staleTiles 0 6 0 8) := by
  refine ⟨⟨issues_of ?_, canon_of ?_, ?_, ?_, ?_, ?_, ?_, ?_, ?_, ?_, ?_, rfl⟩, ?_,
    each_state (i := fun _ => .dsync { z with dst := .h 1, sa := .b 3 }) (p := fun _ => {}) (x := fun (_ : Tile) => xd) ?_, ?_, all_issue ?_, issues_of ?_, ⟨rfl, rfl⟩, ?_, ?_, ?_⟩ <;>
    decide +kernel

/-- The tile in recompute: at its first attempt with its GEN as it was, and with its GEN moved. -/
def busy0 (g : BitVec 16) : Tile := { stale0 with gen := g, busy := some (0, 0) }

theorem dv_reads {s : State} {i : Nat} {r : Cap × Nat × Nat} (h : r ∈ s.reads dv i) : r ∈ (List.range 64).flatMap fun k => s.reads dv k := by
  by_cases hi : i < 64
  · exact List.mem_flatMap.mpr ⟨i, List.mem_range.mpr hi, h⟩
  · have : dv.outLen ≤ i := Nat.le_trans (show dv.outLen ≤ 64 by decide +kernel) (Nat.le_of_not_lt hi)
    rw [State.reads, if_pos this] at h
    cases h

theorem flatMap_empty {α β : Type} {l : List α} {f : α → List β} (h : ∀ a ∈ l, f a = []) : l.flatMap f = [] := by
  simpa [List.flatMap_eq_nil_iff] using h

theorem dv_baseTiles {s : State} (h : ∀ r ∈ (List.range 64).flatMap fun k => s.reads dv k, ∀ p ∈ granuleParts r.2.1 r.2.2,
    (match s.place 0 (CapF.obj r.1) p.1 with | some pl => s.derivOf 0 pl.obj | none => none) = none) : s.baseTiles dv 0 = [] := by
  unfold State.baseTiles
  rw [flatMap_empty]
  · rfl
  · intro r hr
    rw [List.mem_eraseDups] at hr
    obtain ⟨i, _, hr⟩ := List.mem_flatMap.mp hr
    apply flatMap_empty
    intro p hp
    have := h r (dv_reads hr) p hp
    rw [show dv.sid = 0 from rfl]
    split
    · rfl
    · rename_i pl hpl
      rw [hpl] at this
      simp only at this
      rw [this]

theorem foldl_same {α β : Type} {b : β} {f : Option β → α → Option β} (l : List α) (h : ∀ a ∈ l, f (some b) a = some b) : l.foldl f (some b) = some b := by
  induction l with
  | nil => rfl
  | cons a l ih => rw [List.foldl_cons, h a (by simp)]; exact ih fun c hc => h c (List.mem_cons_of_mem _ hc)

/-- Slabs that are neither cold nor in migration expand to what they are. -/
theorem expand_plain {s : State} {sid obj : Nat} (os : List Nat)
    (h : ∀ o ∈ os, (match s.place sid obj o with | some p => decide (p.state ≠ 1 ∧ p.state ≠ 2) | none => true) = true) : s.expand sid obj os = some s := by
  induction os with
  | nil => rfl
  | cons o os ih =>
    have h1 := h o (by simp)
    have h2 := ih fun o ho => h o (List.mem_cons_of_mem _ ho)
    unfold State.expand
    split
    · exact h2
    · rename_i p hp
      rw [hp] at h1
      split
      · rename_i e; simp [e] at h1
      · rename_i e; simp [e] at h1
      · exact h2

theorem dv_expandBases {s : State} (h : ∀ r ∈ (List.range 64).flatMap fun k => s.reads dv k, ∀ o ∈ granuleStarts r.2.1 r.2.2,
    (match s.place 0 (CapF.obj r.1) o with | some p => decide (p.state ≠ 1 ∧ p.state ≠ 2) | none => true) = true)
    (h' : ∀ o ∈ granuleStarts 0 4096, (match s.place 0 6 o with | some p => decide (p.state ≠ 1 ∧ p.state ≠ 2) | none => true) = true) :
    s.expandBases dv 0 = some s := by
  unfold State.expandBases
  have h1 : ∀ r ∈ ((List.range 4096).flatMap fun i => s.reads dv (4096 * 0 + i)).eraseDups,
      s.expand dv.sid (CapF.obj r.1) (granuleStarts r.2.1 r.2.2) = some s := by
    intro r hr
    rw [List.mem_eraseDups] at hr
    obtain ⟨i, _, hr⟩ := List.mem_flatMap.mp hr
    exact expand_plain _ (h r (dv_reads hr))
  generalize ((List.range 4096).flatMap fun i => s.reads dv (4096 * 0 + i)).eraseDups = rs at h1 ⊢
  simp only
  rw [foldl_same rs (b := s) h1, Option.bind_some]
  exact expand_plain _ h'

theorem wit_DerivedTensors_recompute :
    ∀ g ∈ [(0 : BitVec 16), 1], ((sd xd (busy0 g)).tile 3 0).busy = some (0, 0) ∧ ((sd xd (busy0 g)).tile 3 0).gen = g ∧
      (sd xd (busy0 g)).derivs.get 3 = some dv ∧ (sd xd (busy0 g)).baseTiles dv 0 = [] ∧ (sd xd (busy0 g)).expandBases dv 0 = some (sd xd (busy0 g)) ∧
      (sd xd (busy0 g)).baseBad dv 0 = false ∧ (sd xd (busy0 g)).ops = [] ∧ (sd xd (busy0 g)).markHeld [(0, 6, 0, 4096)] = false := by
  intro g hg
  refine ⟨rfl, rfl, rfl, dv_baseTiles ?_, dv_expandBases ?_ ?_, rfl, rfl, ?_⟩ <;>
    (rcases List.mem_cons.mp hg with rfl | h
     · decide +kernel
     · obtain rfl := List.mem_singleton.mp h; decide +kernel)

/-- Its word g42 names type 0 and carries no cluster; g43 is an id of slot 1. -/
theorem wit_TaskInstructions :
    (at' xt).frameOf c0 = some Frame.whole ∧ (at' xt).Settled xt c0 ∧
    ((∀ n ∈ [0x10, 0x18], (at' xt).Issues (.spawn { z with sa := .g 42, sb := .g 3, sc := .g 4, imm := n }) {} xt) ∧
      (at' xt).Issues (.spawn { z with sa := .g 42, sb := .g 3, sc := .g 4, imm := 0x10020 }) {} xt ∧ tdescOk ((at' xt).taskEntry 0 0) = true ∧
      (at' xt).proxyDest 0 (at' xt).boot.ownPkg.toNat 0 = none ∧ (at' xt).proxyDest 0 (at' xt).boot.ownPkg.toNat 1 = none ∧
      ∀ n, n < 8 → ((at' xt).clusterAt 0).levelFull n = false ∧ ((at' xt).clusterAt 1).levelFull n = false) ∧
    ((∀ n ∈ [0, 0x2000], (at' xt).Issues (.cont { z with dst := .g 1, sa := .b 2, sb := .g 43, sc := .g 4, imm := n }) {} xt) ∧
      (((at' xt).clusterAt 0).cont 0).live = none) ∧
    ((at' xt).Issues (.join { z with sa := .g 43 }) {} xt ∧ cidPkg 1 = (at' xt).boot.ownPkg.toNat ∧
      (at' xt).proxyDest 0 (cidPkg 1) (cidCluster 1) = none) := by
  refine ⟨rfl, settled_of ?_, ⟨each_issues (p := fun _ => {}) ?_, issues_of ?_, ?_, ?_, ?_, ?_⟩, ⟨each_issues (p := fun _ => {}) ?_, ?_⟩, issues_of ?_, ?_, ?_⟩ <;>
    decide +kernel

/-- Offset 128 of object 5 holds a card of one record of 16 bytes, its DONEWORD cap5 with its granule's tag. -/
def card5 : BitVec 1024 := BitVec.ofNat 1024 (2 ^ 32 + 16 * 2 ^ 64 + cap5.toNat * 2 ^ 256)
def sc5 : State :=
  { at' xt with
    mem := cells ++ [(0x10000000084, 1), (0x10000000088, 0x10), (0x100000000A3, 1), (0x100000000AC, 5), (0x100000000AF, 0xFF)],
    tags := [0x100000000A0 / 16] }

theorem wit_TaskInstructions_job :
    let t : Target := .dev 0 5 128
    (sc5.Issues (.job { z with sa := .b 2, sb := .g 8 }) {} xt ∧ sc5.Settled xt c0 ∧
      sc5.devChk (sc5.view xt) (.b 2) (capOff 128 0) 128 { r := true } false = .ok t) ∧ sc5.Clear xt [(t, 128)] ∧ sc5.Readable 0 5 128 128 ∧
    sc5.cardOf t (sc5.readOwn xt t 128) = card5 ∧ sc5.donewordCause 0 card5 = none ∧ sc5.freeJob = some 1 ∧ Card.count card5 = 1 ∧
    tdescOk (sc5.taskEntry 0 0) = true := by
  refine ⟨⟨issues_of ?_, settled_of ?_, ok_of ?_⟩, clear_of c0 rfl ?_, readable_of ?_, ?_, ?_, ?_, ?_, ?_⟩ <;> decide +kernel

/-! ## Events of accesses, causes and waits -/

/-- Two loads out: from scratch and from object 5; a device atomic's and a strided stream. -/
def lds : List Outst := [⟨1, .g 1, false, .load (.scr 0 64) 8, 0, 0, 0, {}⟩, ⟨2, .g 2, false, .load (.dev 0 5 128) 8, 0, 0, 1, {}⟩]
def xo : Ctx := { xt with out := lds, st := xt.st.set 1 (some st3) }
def req (op : Nat) (who : Agent) : AtomReq :=
  { who := who, space := 0, t := .dev 0 5 128, op := op, bytes := 8, x := 1, y := 0, ord := 0, wants := true, link := none, merged := [],
    source := 0, rid := 0, led := false, reply := none, applied := false, wp := none, group := 0, quiet := false, kacc := none }
def sat (n : Nat) : State := { at' { xt with out := [⟨1, .g 1, false, .atomic 7 0, 0, 0, 0, {}⟩] } with
  atoms := [(7, { req 0 (.ctx c0) with reply := some 5, applied := n = 0 }), (8, req 0 (.ctx ⟨1, 0, .computer⟩))] }
def xhd : Ctx := { xt with held := [{ parts := [(.scr 0 64, [1, 2])], cap := false }] }

theorem wit_AccessEvents :
    (xo.out.length = 2 ∧ (at' xo).scrBad 0 64 8 = false ∧ (at' xo).pageAt 0 5 = none ∧ (at' xo).Readable 0 5 128 8 ∧
      (∀ o ∈ xo.out.take 1, ∀ e ∈ xo.out.drop 1, (at' xo).precedes o e = false) ∧ xo.st[1] = some st3 ∧ st3.Strided d3 ∧ st3.pos + st3.ahead.length < st3.count) ∧
    ((at' xhd).CanonicalMemory ∧ xhd.acqPending = false ∧ (at' xhd).ScratchUsable 0 64 2) ∧
    ((sat 0).atoms.get 7 = some { req 0 (.ctx c0) with reply := some 5, applied := true } ∧
      (sat 0).ctxs.get (.ctx c0) = some { xt with out := [⟨1, .g 1, false, .atomic 7 0, 0, 0, 0, {}⟩] }) ∧
    ((sat 1).atoms.get 7 = some { req 0 (.ctx c0) with reply := some 5 } ∧ { req 0 (.ctx c0) with reply := some 5 }.mergeable = true ∧
      (sat 1).atoms.get 8 = some (req 0 (.ctx ⟨1, 0, .computer⟩)) ∧ (req 0 (.ctx ⟨1, 0, .computer⟩)).mergeable = true ∧
      (sat 1).recordOrder ((req 0 (.ctx c0)).record 7) [8] = true ∧ clusterOf 0 = clusterOf 1 ∧ ∀ src, ((sat 1).atoms.filter fun e => e.2.source == 1152 + clusterOf 0 && src == (sat 1).homeOf e.2.t).length < 64) := by
  refine ⟨⟨rfl, ?_, ?_, readable_of ?_, ?_, rfl, st3_strided, ?_⟩, ⟨canon_of ?_, ?_, usable_of ?_ _ _ _⟩, ⟨rfl, rfl⟩, rfl, ?_, rfl, ?_, ?_, rfl,
    fun _ => Nat.lt_of_le_of_lt (List.length_filter_le _ _) (show 2 < 64 by decide)⟩ <;> decide +kernel

/-- A load of an object that no lease covers. -/
theorem wit_AccessEvents_unleased :
    let s : State := { at' xo with jobs := [(0, { job0 with lease := [] })] }
    xo.out[1].what = .load (.dev 0 5 128) 8 ∧ s.frameOf c0 = some Frame.whole ∧ Frame.whole.killed = none ∧ xo.out[1].trans = {} ∧
    (∀ o ∈ xo.out.take 1, s.precedes o xo.out[1] = false) ∧ (s.carried (.ctx c0) {}).granted (.ctx c0) (.dev 0 5 128) 8 false false = false ∧
    ((at' xo).carried (.ctx c0) {}).granted (.ctx c0) (.dev 0 5 128) 8 false false = true := by
  refine ⟨rfl, rfl, rfl, rfl, ?_, ?_, ?_⟩ <;> decide +kernel

/-- A cause on its way, one pending, and the context in each timed wait; TVEC's line 0x22 in the store with IDLE at pc 0. -/
def pc22 : PendCause := ⟨0x22, 0, 0⟩
def xc : Ctx := { xt with coming := [(pc22, 3), (⟨0x39, 0, 0⟩, 5)], pend := [pc22] }
def xwt (w : Wait) : Ctx := { xt with wait := w }
def idleW : BitVec 96 := encode (.idle { z with dst := .g 1, sa := .g 2 })

theorem wit_CauseAndWaitEvents :
    (Frame.whole.killed = none ∧ Frame.whole.started = true ∧ Frame.whole.trappedBy = none ∧ xc.ended = false ∧ xc.pend.length < 4 ∧ xc.wait ≠ .sent ∧ xc.wait ≠ .unitRel ∧ pc22.cause ≠ 0x13 ∧
      ({ xc with coming := [(⟨0x13, 0, 0⟩, 3)] } : Ctx).coming = [(⟨0x13, 0, 0⟩, 3)]) ∧
    (xc.ie = true ∧ xc.sv = false ∧ ({ lines 0x22 with ctxs := [(.ctx c0, xc)] }).preempts = [] ∧
      (∀ k y, ({ lines 0x22 with ctxs := [(.ctx c0, xc)] }).ctxs.get (.ctx ⟨0, 0, k⟩) = some y → y.out = []) ∧
      ((xc.tvec.extractLsb' 6 12).toNat + 0x22 < storeLines (.ctx c0) ∧ tgtBit ((lines 0x22).line (.ctx c0) 0x22) 0 = true)) ∧
    ((xwt (.idle (some 0))).pend = [] ∧ xt.pc = 0 ∧ parse (slotWord (lineOfWord idleW) 0) = some (.idle { z with dst := .g 1, sa := .g 2 }) ∧
      (∀ w ∈ [Wait.idle (some 0), .rally (some 0), .rally (some 9), .yield 0, .yield 9], (at' (xwt w)).ctxs.get (.ctx c0) = some (xwt w))) := by
  refine ⟨?_, ⟨?_, ?_, ?_, fun k y h => by cases k <;> cases h; rfl, ?_⟩, ?_, ?_, ?_, fun w _ => rfl⟩ <;> decide +kernel

/-- Lines of each code. -/
theorem wit_LineCodesAreExact : ∀ l ∈ [List.replicate 64 0, (List.range 64).map fun i => BitVec.ofNat 8 (i % 8), (List.range 64).map fun i => BitVec.ofNat 8 (if i % 4 = 0 then i / 4 else 0),
    (List.range 64).map fun i => BitVec.ofNat 8 (37 * i * i)], (l : List Byte).length = 64 := by decide +kernel

/-! ## Slabs, walks, refresh and leases -/

theorem memGet_none {m : List Host.Cell} {a : Nat} (h : (m.all fun c => c.1 != a) = true) : memGet m a = 0 := by
  induction m with
  | nil => rfl
  | cons c m ih =>
    simp only [List.all_cons, Bool.and_eq_true, bne_iff_ne] at h
    rw [memGet]
    simp [h.1, ih h.2]

/-- Bytes that memory does not list read as zero. -/
theorem memRead_none {m : List Host.Cell} {a : Nat} (n : Nat) (h : (m.all fun c => decide (c.1 < a)) = true) : memRead m a n = List.replicate n 0 := by
  induction n generalizing a with
  | zero => rfl
  | succ n ih =>
    rw [memRead, memGet_none, ih]
    · rfl
    · simp only [List.all_eq_true, decide_eq_true_eq] at h ⊢
      exact fun c hc => Nat.lt_succ_of_lt (h c hc)
    · simp only [List.all_eq_true, decide_eq_true_eq, bne_iff_ne] at h ⊢
      exact fun c hc => Nat.ne_of_lt (h c hc)

theorem pieces_zero (n k : Nat) : pieces n k (List.replicate (k * n) 0) = List.replicate k (List.replicate n 0) := by
  induction k with
  | zero => rfl
  | succ k ih =>
    rw [pieces, List.take_replicate, List.drop_replicate, Nat.add_mul, Nat.one_mul, Nat.add_sub_cancel, ih, Nat.min_eq_left (Nat.le_add_left n _),
      List.replicate_succ]

/-- The image of a slab of zeros without a tag. -/
theorem slabImage_zero : slabImage (List.replicate 65536 0) (List.replicate 4096 false) = List.replicate 768 0 := by
  unfold slabImage
  rw [show (65536 : Nat) = 1024 * 64 from rfl, pieces_zero, List.map_replicate, show encodeLine (List.replicate 64 0) = (0, []) by decide +kernel]
  simp only [List.map_replicate, List.flatten_replicate_nil, List.append_nil]
  decide +kernel

/-- Object 5 may be compressed; its slab 0 has the STATE of `st`; a load of it is out; a migration of it is under way. -/
def slabState (st : Byte) : State :=
  { at' { xt with out := lds } with
    mem := [(0x10A2, 1), (0x10A5, 8)] ++ cells.drop 1 ++ (if st = 0 then [] else [(0x5002, st)]), clock := 1050,
    boot := { (at' xt).boot with coldIdle := 1 }, pool := [(0, (2, [5])), (4, (2, [6]))], migrations := [(0, ⟨0, 5, 0, 3, 0⟩)] }
def place5 (ext : BitVec 64) : Place :=
  { sid := 0, obj := 5, off := 0, slice := 141, slab := 0, pool := 0, ext := ext, extAddr := 20480, key := 2 ^ 40, chan := 1135 }

theorem wit_SlabEvents :
    let image := slabImage (memRead (slabState 0).mem (poolKey 0 0 0) 65536) ((slabState 0).slabTags (poolKey 0 0 0))
    let zeros : List Byte := slabImage (List.replicate 65536 0) (List.replicate 4096 false)
    ((slabState 0).CanonicalMemory ∧ (slabState 0).slabPlace 0 5 0 = some (place5 0) ∧ (slabState 0).feature 7 = true ∧
      ((slabState 0).objEntry 0 5).map (fun e => (e.compressible, e.cls)) = some (true, 0) ∧ (place5 0).state = 0 ∧ (place5 0).pin = false ∧
      (slabState 0).slabIdle 0 5 0 = true ∧ image.length < 49152 ∧ (slabState 0).bad = [] ∧ (slabState 0).badLine = []) ∧
    ((slabState 0x80).CanonicalMemory ∧ (slabState 0x80).slabPlace 0 5 0 = some (place5 0x800000) ∧ (place5 0x800000).state = 1 ∧
      (slabState 0x80).slabWanted 0 (place5 0x800000) = true ∧ (slabState 0x80).pool.get 0 = some (2, [5]) ∧ 2 ≤ poolSize 0 + (slabState 0x80).lentPages 0 / 16 + 1 ∧ zeros.length < 49152 ∧
      memRead (slabState 0x80).mem (poolKey 0 0 0) zeros.length = zeros) ∧
    ((slabState 0).migrations.get 0 = some ⟨0, 5, 0, 3, 0⟩ ∧ (place5 0).pool ≠ 1 + 3 ∧ (slabState 0).pool.get (1 + 3) = some (2, [6]) ∧ 2 ≤ poolSize (1 + 3) + (slabState 0).lentPages (1 + 3) / 16 + 1) := by
  have h0 : memRead (slabState 0).mem (poolKey 0 0 0) 65536 = List.replicate 65536 0 := memRead_none _ (by decide +kernel)
  have h1 : (slabState 0).slabTags (poolKey 0 0 0) = List.replicate 4096 false := by
    rw [State.slabTags, show (slabState 0).tags = [] from rfl]
    simp only [List.contains_nil, List.map_const', List.length_range]
  simp only [h0, h1, slabImage_zero, List.length_replicate]
  refine ⟨⟨canon_of ?_, ?_, ?_, ?_, ?_, ?_, ?_, ?_, rfl, rfl⟩, ⟨canon_of ?_, ?_, ?_, ?_, rfl, ?_, ?_, memRead_none _ ?_⟩, rfl, ?_, rfl, ?_⟩ <;> decide +kernel

/-- Two walk records, two banks in refresh, and a LEASE extension of object 5 whose handle is on its way. -/
def sw : State :=
  { at' xt with
    walks := [⟨0, 0, 0, 5, 0, [1]⟩, ⟨180, 0, 0, 6, 0, []⟩], refresh := [((0, 0), (63, false)), ((0, 1), (63, true))],
    leaseExts := [(1, ⟨7, 0, ⟨0, 0, 5, 0, 0x10000, true, true⟩, none⟩)], ops := [(7, { who := c0, space := 0, job := 0, kind := .lease 1 })] }

theorem wit_WalkRefreshAndLeaseEvents :
    (sw.walks[0]? = some ⟨0, 0, 0, 5, 0, [1]⟩ ∧ sw.spaces.get 0 = some space0 ∧ 5 < space0.nobj) ∧ sw.walks[1]? = some ⟨180, 0, 0, 6, 0, []⟩ ∧ sw.migrations = [] ∧ sw.refresh.get (0, 0) = some (63, false) ∧ sw.refresh.get (0, 1) = some (63, true) ∧
    sw.leaseExts.get 1 = some ⟨7, 0, ⟨0, 0, 5, 0, 0x10000, true, true⟩, none⟩ ∧ sw.jobs.get 0 = some job0 ∧ (sw.ops.get 7).isSome = true ∧
    ((sw.pinRange 0 5 0 0x10000).map fun z => (decide (z.ops = sw.ops) && decide (z.ctxs = sw.ctxs) && decide (z.jobs = sw.jobs))) = some true := by
  refine ⟨⟨rfl, rfl, by decide⟩, rfl, rfl, rfl, rfl, rfl, rfl, rfl, ?_⟩ <;> decide +kernel

/-! ## Handlers, launches and reductions -/

def trig : Trigger := { chain := 0, first := true, h := 0, off := 1, g2 := 2, g3 := 3, g4 := 4, b1 := cap5 }
def chn : Chain := { op := some 7, page := none, space := 0, job := some 0, started := 1, live := 1, word := none, g1 := 0 }
def xop : Ctx := { xt with h := xt.h.set 1 (.pending 7) }
/-- The handler table's entry 0 (VALID when `valid` is 1); a trigger on slice 3; a run on slice 4 that has ended. -/
def shn (valid : Byte) (ch : Chain) : State :=
  { at' xop with
    mem := cells ++ [(0x4001, valid)].filter (·.2 != 0), trigq := [(3, [trig])], chains := [(0, ch)], runs := [(4, { trig := trig, count := 0, work := 0 })],
    ctxs := [(.ctx c0, xop), (.handler 4, { xt with ended := true })], ops := [(7, { who := c0, space := 0, job := 0, kind := .chain 0 })] }
/-- A launch page: its slice selection and LSTAT. -/
def lpage (sel lstat : Word) : LaunchPage := { sid := 0, obj := 5, cap := cap5, argp := 0x80, sel := sel, lstat := lstat, fault := none }
def sl9 (sel lstat : Word) : State := { at' xt with pages := [(9, lpage sel lstat)], notes := [(9, 5, false, 0x80, 3)] }

theorem wit_HandlerEvents :
    (∀ v ∈ [(0 : Byte), 1], (shn v chn).runs.get 3 = none ∧ (shn v chn).trigq.get 3 = some [trig] ∧ (shn v chn).chains.get trig.chain = some chn ∧
      (shn v chn).ops.get 7 = some { who := c0, space := 0, job := 0, kind := .chain 0 }) ∧
    (shn 1 chn).handlerEntry 0 0 = some (0, 0) ∧ (shn 0 chn).handlerEntry 0 0 = none ∧
    (chn.live = 1 ∧ chn.word = none ∧ chn.page = none ∧ chn.op = some 7 ∧ (shn 0 chn).ctxs.get (.ctx c0) = some xop ∧ xop.holdsOp 7 = true) ∧
    (∀ n ∈ [1, 2], (shn 0 { chn with live := n }).runs.get 4 = some { trig := trig, count := 0, work := 0 } ∧
      (shn 0 { chn with live := n }).ctxs.get (.handler 4) = some { xt with ended := true }) ∧
    (∀ p ∈ [(3, 0x100000000), ((3 : Word), (7 : Word))], ((sl9 p.1 p.2).notes.find? fun n => n.1 == 9 && n.2.1 == 5 && n.2.2.1 == false) = some (9, 5, false, 0x80, 3) ∧ (sl9 p.1 p.2).pages.get 9 = some (lpage p.1 p.2)) ∧
    ((lpage 3 0x100000000).lstat.getLsbD 32 = true ∧ (lpage 3 7).lstat.getLsbD 32 = false ∧ (lpage 3 7).sel ≠ 0 ∧ (lpage 0 7).sel = 0 ∧
      (∀ c ∈ (sl9 3 0x100000000).chains, c.2.page ≠ some 9) ∧ ∀ n ∈ ({ sl9 3 0x100000000 with notes := [] }).notes, n.1 ≠ 9) := by
  refine ⟨fun v _ => ⟨rfl, rfl, rfl, rfl⟩, ?_, ?_, ?_, fun n _ => ⟨rfl, rfl⟩, fun p _ => ⟨rfl, rfl⟩, ?_⟩ <;> decide +kernel

/-- A parameter block at offset 128 of object 5: eight vectors of 64 bytes from offset 0x1000, the result at 0x2000, the flag at 0x2040, TAG 9; CTL is
`ctl`. -/
def rreq : RedReq := { op := 7, cap := cap5, off := 128, space := 0, job := 0 }
def sred (ctl : Byte) (stack : Nat) : State :=
  { at' xop with
    mem := cells ++ [(0x10000000083, 1), (0x1000000008C, 5), (0x1000000008F, 0xFF), (0x10000000093, 1), (0x1000000009C, 5), (0x1000000009F, 0xFF),
      (0x100000000A1, 0x10), (0x100000000A6, 0x20), (0x100000000AA, 0x40), (0x100000000AB, 0x20), (0x100000000AF, ctl), (0x100000000B0, 0x40),
      (0x100000000B4, 0x40), (0x100000000B8, 9)].filter (·.2 != 0),
    tags := [0x1000000008, 0x1000000009], redq := [(stack, [rreq])], ops := [(7, { who := c0, space := 0, job := 0, kind := .reduce })] }
/-- The request with only its flag at 0x2040 left to write. -/
def rend : RedEnd := { flagAt := .dev 0 5 0x2040, flag := okWord 9, word := okWord 16, written := [(.dev 0 5 0x2000, 64)] }
def sflag : State := { sred 0 3 with redq := [(3, [{ rreq with done := some rend }])] }
def clb (node : Nat) (left : Bool) : Climb :=
  { node := node, since := 0, tag := 9, data := [0x3F800000, 0], left := left, stack0 := false, req := rreq, dst := cap5, doff := 0x2000, foff := 0x2040 }

theorem wit_ReductionEvents :
    (∀ p ∈ [((0 : Byte), 3), (1, 0), (1, 3)],
      (sred p.1 p.2).redq.get p.2 = some [rreq] ∧ (sred p.1 p.2).leased (some 0) 0 5 128 64 false false = true ∧
      (sred p.1 p.2).redCause 0 ((sred p.1 p.2).redBlock 0 5 128) = none ∧ rreq.done = none ∧
      (∀ i, i < 8 → (sred p.1 p.2).leased (some 0) 0 5 (0x1000 + i * 64) 64 false false = true) ∧
      (sred p.1 p.2).leased (some 0) 0 5 0x2000 64 true false = true ∧ ((sred p.1 p.2).redBlock 0 5 128).stride = 64 ∧
      ((sred p.1 p.2).redBlock 0 5 128).climb = (p.1 == 1) ∧
      (((sred p.1 p.2).redBlock 0 5 128).soff, ((sred p.1 p.2).redBlock 0 5 128).len, ((sred p.1 p.2).redBlock 0 5 128).foff) = (0x1000, 64, 0x2040)) ∧
    (∀ o ∈ (128, 64) :: (0x2000, 64) :: (List.range 8).map fun i => (0x1000 + i * 64, 64), (sred 1 0).Readable 0 5 o.1 o.2 ∧ (sred 0 3).Readable 0 5 o.1 o.2) ∧
    (sflag.redq.get 3 = some [{ rreq with done := some rend }] ∧ sflag.markHeld (devRanges rend.written) = false ∧
      sflag.leased (some 0) 0 5 0x2040 8 true false = true ∧ sflag.Readable 0 5 0x2040 8) ∧
    (∀ n ∈ [0, 3, 5], (clb n true).node < 6 ∧ (clb n false).node = (clb n true).node ∧ (clb n true).tag = (clb n false).tag) ∧
    ((clb 2 true).stack0 = false ∧ (clb 2 true).since + 1000 * (at' xt).boot.mhz ≤ 1050000 ∧ (at' xt).clock < (clb 2 true).since + 1000 * (at' xt).boot.mhz) := by
  refine ⟨?_, fun o ho => ⟨readable_of ?_, readable_of ?_⟩, ⟨rfl, ?_, ?_, readable_of ?_⟩, ?_, ?_⟩
  · decide +kernel
  · revert o ho; decide +kernel
  · revert o ho; decide +kernel
  all_goals decide +kernel

/-! ## Jobs and dispatchers -/

/-- A card of one record of 16 bytes at ARRAY cap5, DONEWORD cap5, LEASELIST cap6 of `n` entries. -/
def cardJ (n : Nat) : BitVec 1024 :=
  BitVec.ofNat 1024 (2 ^ 32 + 16 * 2 ^ 64 + cap5.toNat * 2 ^ 128 + cap5.toNat * 2 ^ 256 + n * 2 ^ 416 + cap6.toNat * 2 ^ 512)
def jobJ (n : Nat) (st : JobStage) : Job :=
  { card := cardJ n, space := 0, stage := st, lease := [], dealt := 0, sent := 0, received := 0, done := 0, failed := 0, sweep := none,
    killed := false, mirror := none, owed := [], touched := [], extNo := 0 }
/-- Job 3 is `j`; mailbox 2 of space 0 holds a card; object 6's first 32 bytes are a lease entry of object 5. -/
def sjb (j : Job) : State :=
  { at' xt with
    jobs := [(3, j)], mail := [(2, { sid := some 0, queue := [bytesOf 128 (cardJ 0).toNat] })],
    mem := cells ++ [(0x10000000003, 1), (0x1000000000C, 5), (0x1000000000F, 0xFF), (0x10000000018, 0x40), (0x1000000001D, 3)],
    tags := [0x1000000000] }
/-- The job with every record dealt. -/
def jobD (sweep : Option (Nat × Nat)) : Job := { jobJ 0 .running with dealt := 1, sent := 1, received := 1, done := 1, sweep := sweep }

theorem wit_JobEvents :
    let s := sjb (jobJ 0 .running)
    (s.boot.locked = true ∧ s.mail.get 2 = some { sid := some 0, queue := [bytesOf 128 (cardJ 0).toNat] } ∧
      isControl (bytesOf 128 (cardJ 0).toNat) = false ∧ s.freeJob = some 0 ∧ leNat (bytesOf 128 (cardJ 0).toNat) = (cardJ 0).toNat ∧
      s.donewordCause (s.spaceValue 0) (cardJ 0) = none ∧ Card.count (cardJ 0) = 1 ∧ tdescOk (s.taskEntry (s.spaceValue 0) 0) = true) ∧
    ((∀ n ∈ [0, 1], (sjb (jobJ n (.leasing 0))).implicitCause 0 cap5 16 = none ∧ (sjb (jobJ n (.leasing 0))).implicitCause 0 cap6 (n * 32) = none ∧
        (((sjb (jobJ n (.leasing 0))).pinRange 0 5 0 16).bind fun s1 => s1.pinRange 0 6 0 (n * 32)).isSome = true) ∧
      (((sjb (jobJ 1 (.leasing 1))).devTouch 0 0 6 0 32 true).map fun s1 => (s1.capRead 0 6 0 == cap5 && ! s1.readBad 0 6 0 32 && (s1.leaseCause 0 cap5 0 64 true true).isNone &&
        (s1.pinRange 0 5 0 64).isSome)) = some true) ∧
    (s.jobs.get 3 = some (jobJ 0 .running) ∧ (jobJ 0 .running).chunks = [] ∧ 0 ∈ spanClusters (cardJ 0) ∧
      (∀ c ∈ spanClusters (cardJ 0), s.dealHeld 3 c 0 = 0 ∧ (s.clusterAt c).levelFull 0 = false) ∧ ((s.clusterAt 0).level 0).onChip + 1 ≤ 256 ∧
      s.Readable 0 5 0 16) ∧
    ((∀ w ∈ [none, some (1, 1)], (sjb (jobD w)).jobs.get 3 = some (jobD w) ∧ Card.count (jobD w).card ≤ (jobD w).dealt ∧
        (sjb (jobD w)).jobLive 3 = false ∧ (sjb (jobD w)).jobConts 3 = [] ∧
        (((sjb (jobD w)).dropJob 3 (jobD w)).completeCard (cardJ 0) 0 1 0).isSome = true) ∧
      ¬ (Card.count (jobJ 0 .running).card ≤ (jobJ 0 .running).dealt)) := by
  refine ⟨?_, ⟨?_, ?_⟩, ⟨?_, rfl, ?_, ?_, ?_, readable_of ?_⟩, ?_, ?_⟩ <;> decide +kernel

def tsk (k : TaskKind) : Task := { bytes := 5 * 2 ^ 64, level := 3, index := 9, job := 0, parent := 0, kind := k, b1 := cap5, space := 0 }
def ent (n : Nat) : QEntry := { task := tsk .spawned, seq := 4, passed := n, spill := none }
def lv (n : Nat) : Level := { Level.init with spawn := [ent n] }
/-- Cluster 0 with one record in level 3; two on their way; a continuation of slot 5 with count `n`. -/
def cl0 (age passed n : Nat) : Cluster :=
  { Cluster.init with
    age := age, levels := Cluster.init.levels.set 3 (lv passed), arriving := [(some c0, tsk .spawned), (some c0, tsk .job)],
    conts := [(5, { gen := 255, live := some (BitVec.ofNat 256 (n * 2 ^ 32 + cap5.toNat * 2 ^ 64 + 7 * 2 ^ 192), 0, 3, 0), ready := false })] }
def cid5 : Word := mkCid 255 0 0 5
def px (b : BitVec 256) (t : Option Task) : ProxyEntry := { bytes := b, task := t, dec := none }
def sdp (c : Cluster) : State :=
  { at' xt with
    clusters := [(0, c)], decs := [{ cid := cid5, job := some 0, sid := 0, jobWord := 0 }], unitq := [(c0, .dctl 0, 0x1F0008)],
    proxies := [((1, .die 0), [px 0 (some (tsk .spawned))]), ((0, .link 2), [px 1 none])],
    links := (at' xt).links.set 2 { (at' xt).links[2] with state := 2 } }

theorem wit_DispatcherEvents :
    let s := sdp (cl0 0 0 2)
    (s.clusterAt 0 = cl0 0 0 2 ∧ (cl0 0 0 2).arriving = [(some c0, tsk .spawned), (some c0, tsk .job)] ∧ ((cl0 0 0 2).level 3).onChip < 256 ∧ (s.readRings 0).clusterAt 0 = cl0 0 0 2) ∧
    ((∀ low : Bool, (cl0 0 0 2).offers low = [(3, .spawn, ent 0)]) ∧ (∀ p ∈ (cl0 0 0 2).conts, p.2.ready = false) ∧
      tdGw (s.taskEntry 0 (recType (tsk .spawned).bytes)) = 1 ∧ (∀ a ∈ [0, 1024], (sdp (cl0 a 0 2)).placeEntry 0 (ent 0) = some [(1, 0, 0)])) ∧
    (∀ n ∈ [255, 256], (cl0 0 n 2).reserved = none ∧ ((cl0 0 n 2).level 3).candidate = some (.spawn, ent n)) ∧
    (s.unitq = [(c0, .dctl 0, 0x1F0008)] ∧ ({ s with unitq := [(c0, .spill 0, 1)] }).unitq = [(c0, .spill 0, 1)] ∧
      ∀ n, n < 8 → ((cl0 0 0 2).level n).spilled = []) ∧
    (s.decs = [{ cid := cid5, job := some 0, sid := 0, jobWord := 0 }] ∧ cidCluster cid5 = 0 ∧ cidPkg cid5 = s.boot.ownPkg.toNat ∧ cidSlot cid5 = 5 ∧
      cidGen cid5 = 255 ∧ ∀ n ∈ [1, 2], ((cl0 0 0 n).cont 5).gen = 255 ∧ ((cl0 0 0 n).cont 5).ready = false ∧
        (((cl0 0 0 n).cont 5).live.map fun r => (r.1.extractLsb' 32 32).toNat) = some n) ∧
    (s.proxies.get (1, .die 0) = some [px 0 (some (tsk .spawned))] ∧ (px 0 none).bytes.extractLsb' 208 8 = 0 ∧ s.links[2].state = 2 ∧
      s.proxies.get (0, .link 2) = some [px 1 none]) := by
  refine ⟨⟨rfl, rfl, ?_, rfl⟩, ⟨?_, ?_, ?_, ?_⟩, ?_, ⟨rfl, rfl, ?_⟩, ⟨rfl, ?_, ?_, ?_, ?_, ?_⟩, rfl, ?_, rfl, rfl⟩ <;> decide +kernel

/-- A frame about to start, and one whose contexts have all ended. -/
def fr0 : Frame := { Frame.whole with started := false, task := tsk .spawned }
def frE (parent : Word) : Frame := { Frame.whole with task := { tsk .job with parent := parent } }
def ste (f : Frame) : State :=
  { at' xt with frames := [((0, 0), f)], ctxs := [CtxKind.loader, .computer, .storer].map fun k => (.ctx ⟨0, 0, k⟩, { xt with ended := true }) }

theorem wit_TaskStartAndEnd :
    ((ste fr0).frames.get (0, 0) = some fr0 ∧ fr0.started = false ∧ fr0.killed = none) ∧
    (∀ p ∈ [0, cid5], (ste (frE p)).frames.get (0, 0) = some (frE p) ∧ (frE p).started = true ∧ (frE p).killed = none ∧ (frE p).group = none ∧
      (ste (frE p)).frameBusy 0 0 (frE p) = false ∧ (ste (frE p)).jobs.get (frE p).task.job = some job0 ∧ ((ste (frE p)).coreOf 0).cmds = [] ∧
      (ste (frE p)).atoms = [] ∧ ((ste (frE p)).clusterAt 0).conts = [] ∧
      (ste (frE p)).proxyDest (dieOf 0) (cidPkg (frE p).task.parent) (cidCluster (frE p).task.parent) = none) := by
  refine ⟨⟨rfl, rfl, rfl⟩, fun p hp => ?_⟩
  rcases List.mem_cons.mp hp with rfl | hp
  · exact ⟨rfl, rfl, rfl, rfl, by decide +kernel, rfl, rfl, rfl, rfl, by decide +kernel⟩
  · obtain rfl := List.mem_singleton.mp hp
    exact ⟨rfl, rfl, rfl, rfl, by decide +kernel, rfl, rfl, rfl, rfl, by decide +kernel⟩

/-! ## Pre-emption -/

/-- A frame of task type 0; the asking context's handle 1 waits for operation 7. -/
def frS : Frame := { Frame.whole with tdesc := BitVec.ofNat 512 (6 * 2 ^ 48 + 6 * 2 ^ 56 + 6 * 2 ^ 64 + 2 ^ 104 + 2 ^ 112) }
def opP (k : OpKind) : Op := { who := ⟨1, 0, .computer⟩, space := 0, job := 0, kind := k }
def three (x : Ctx) (frm : Nat) : List (Agent × Ctx) := [CtxKind.loader, .computer, .storer].map fun k => (.ctx ⟨0, frm, k⟩, x)
/-- Pre-emption 2 of frame 0 of core 0 into object 6. -/
def pre (save : Bool) (t3 : Option Nat := none) : Preempt :=
  { op := some 7, page := none, save := save, frames := if save then [(0, 0)] else [], target := 0, area := .dev 0 6 0, t0 := 0, step3 := t3 }
def ssv (f : Frame) (x : Ctx) (t3 : Option Nat := some 5) : State :=
  { at' xt with
    frames := [((0, 0), f)], ctxs := three x 0 ++ [(.ctx ⟨1, 0, .computer⟩, xop)], preempts := [(2, pre true t3)], ops := [(7, opP (.save 2))] }
def saved0 : Saved :=
  { area := .dev 0 6 0, core := 0, frm := 6, frame := frS, ctxs := ctxKinds.map fun k => (k, xt), npend := [0, 0, 0] }
/-- A restore of the frame that object 6 holds, frames 0 to 2 of the target bound; and with a frame 3 bound too. -/
def srs (ks : List Nat) : State :=
  { at' xt with
    frames := ks.map fun k => ((0, k), frS), ctxs := [(.ctx ⟨1, 0, .computer⟩, xop)], preempts := [(2, pre false)], ops := [(7, opP (.restore 2))],
    saved := [saved0] }

/-- With one frame of a core free, a restore takes it. -/
theorem someFreeFrame_one {s : State} {core n : Nat} (h : ((List.range 4).filter fun n => (s.frames.get (core, n)).isNone) = [n]) :
    s.someFreeFrame core = some n := by
  unfold State.someFreeFrame
  rw [h]
  simp [Nat.mod_one]

def bs6 : List Byte := (srs [0, 1, 2]).bytesAt (.dev 0 6 0) 256

theorem placeDomain_one {s : State} {area : Target} {core n : Nat} {td : BitVec 512} {h : AreaHead} {bs : List Byte} {v : Saved}
    (hd : domainCores core td = some [core]) (ha : area.plus 0 = area) (hv : s.savedAt area = some v) (hg : v.frame.gidx = 0)
    (hp : s.poolsFit core td = true) (hr : s.runFree core (leNat (s.bytesAt (area.plus 40) 2)) (tdescBlocks td) = true) (hc : clusterOf core = clusterOf v.core)
    (hf : s.someFreeFrame core = some n) : s.placeDomain area core td h bs = some [{ area := area, saved := v, core := core, frm := n }] := by
  have hb : s.areaBase area h bs td = v := by simp [State.areaBase, hv]
  have hw : { v with frame := { v.frame with gidx := 0 } } = v := by rw [← hg]
  unfold State.placeDomain
  simp [hd, hv, ha, hb, hw, hp, hr, hc, hf]

theorem placeDomain_srs : (srs [0, 1, 2]).placeDomain (.dev 0 6 0) 0 frS.tdesc (areaHead bs6) bs6 =
    some [{ area := .dev 0 6 0, saved := saved0, core := 0, frm := 3 }] :=
  placeDomain_one (by decide +kernel) rfl rfl rfl (by decide +kernel) (by decide +kernel) rfl (someFreeFrame_one (by decide +kernel))

theorem wit_PreemptionEvents :
    ((∀ t ∈ [some 5, some 67201, none], (ssv frS xt t).preempts.get 2 = some (pre true t)) ∧ (pre true).op = some 7 ∧ (ssv frS xt).ops.get 7 = some (opP (.save 2)) ∧
      (ssv frS xt).ctxs.get (.ctx ⟨1, 0, .computer⟩) = some xop ∧ xop.holdsOp 7 = true) ∧
    ((ssv { frS with killed := some ⟨0, 3, 0, 0⟩ } xt).frames.get (0, 0) = some { frS with killed := some ⟨0, 3, 0, 0⟩ } ∧
      (pre true (some 67201)).t0 + 64 * (ssv frS xt).boot.mhz < (pre true (some 67201)).step3.getD 0 ∧
      (pre true (some 5)).step3.getD 0 ≤ (pre true (some 5)).t0 + 64 * (ssv frS xt).boot.mhz ∧
      (pre true).step3.getD (ssv frS xt).clock ≤ (pre true).t0 + 64 * (ssv frS xt).boot.mhz) ∧
    (frS.killed = none ∧ frS.gidx = 0 ∧ (ssv frS xt).drained (0, 0) = true ∧ ((ssv frS xt).coreOf 0).cmds = [] ∧ (ssv frS xt).unitq = [] ∧
      (∀ k x, (ssv frS xt).ctxs.get (.ctx ⟨0, 0, k⟩) = some x → x.out = []) ∧
      (ssv frS xt).Readable 0 6 0 (tdGw frS.tdesc * areaBytes (tdSdem frS.tdesc)) ∧ ((ssv frS xt).clusterAt 0).conts = [] ∧
      (∀ m, (opP (.save m)).kind = .save m ∧ (opP (.restore m)).kind = .restore m) ∧ saved0.queue = []) ∧
    ((srs [0, 1, 2]).Readable 0 6 0 256 ∧ (srs [0, 1, 2, 3]).Readable 0 6 0 256 ∧ (srs [0, 1, 2]).areaType (.dev 0 6 0) (areaHead ((srs [0, 1, 2]).bytesAt (.dev 0 6 0) 256)) = frS.tdesc ∧
      ((srs [0, 1, 2, 3]).placeDomain (.dev 0 6 0) 0 frS.tdesc (areaHead ((srs [0, 1, 2, 3]).bytesAt (.dev 0 6 0) 256)) ((srs [0, 1, 2, 3]).bytesAt (.dev 0 6 0) 256)).isNone = true ∧
      (srs [0, 1, 2]).placeDomain (.dev 0 6 0) 0 frS.tdesc (areaHead bs6) bs6 = some [{ area := .dev 0 6 0, saved := saved0, core := 0, frm := 3 }] ∧
      (srs [0, 1, 2]).savedAt (.dev 0 6 0) = some saved0 ∧ leNat ((srs [0, 1, 2]).bytesAt ((Target.dev 0 6 0).plus 45) 1) = 0 ∧ saved0.frame.gbar = 0 ∧ (∀ e ∈ saved0.ctxs, e.2.pend = []) ∧
      (srs [0, 1, 2]).Readable 0 6 0 (tdGw frS.tdesc * areaBytes (tdSdem frS.tdesc))) := by
  refine ⟨⟨?_, rfl, rfl, rfl, ?_⟩, ⟨rfl, ?_, ?_, ?_⟩, ⟨rfl, rfl, ?_, rfl, rfl, fun k x h => by cases k <;> cases h <;> rfl, readable_of ?_, rfl, fun _ => ⟨rfl, rfl⟩, rfl⟩,
    readable_of ?_, readable_of ?_, rfl, ?_, placeDomain_srs, rfl, ?_, rfl, ?_, readable_of ?_⟩ <;> decide +kernel

/-! ## The host -/

def env (sig : Bool) : StartEnv := { sigOk := sig, hash := 5, fail := none }
/-- The boot page with a CODE, a held START, and the image hash of the start before. -/
def sbt (code : BitVec 8) (held : Option Nat) (path : BitVec 2 := 0) : State :=
  { at' xt with boot := { (at' xt).boot with code := code, path := path, heldStart := held, hash := some 5 } }

theorem wit_StartsAndLock :
    (∀ c ∈ [(0x00 : BitVec 8), 0x01, 0x02], ∀ p ∈ [(0 : BitVec 2), 1], (sbt c none p).boot.code = c ∧ (sbt c none p).boot.path = p) ∧ (env true).sigOk = true ∧ (env false).sigOk = false ∧ (env true).fail = none ∧
    (sbt 0 none).boot.coldNext = false ∧ (sbt 0 none).boot.hash = some (env false).hash ∧ (∀ n ∈ [1, 2, 3], (sbt 1 (some n) 1).boot.heldStart = some n) := by
  decide +kernel

def shr (mhz : Nat) (n : Nat) : State :=
  { at' xt with
    pages := [(9, lpage 3 7)], spaces := [], mail := [(2, { sid := none, queue := List.replicate n (List.replicate 128 0) })],
    boot := { (at' xt).boot with mhz := mhz, replies := [(7, 5)] } }

theorem wit_HostRegistersAndMailboxes :
    (shr 1050 0).pages.get 9 = some (lpage 3 7) ∧ (shr 1050 0).spaces = [] ∧ 550 < (shr 600 0).boot.mhz ∧ (shr 1000 0).boot.mhz < 1050 ∧
    (shr 550 0).boot.mhz ≤ 550 ∧ 1050 ≤ (shr 1050 0).boot.mhz ∧ (List.replicate 128 (0 : Byte)).length = 128 ∧
    (shr 1050 0).boot.replies.get 7 = some 5 ∧ ∀ n ∈ [31, 32], ((shr 1050 n).mail.get 2).map (·.queue.length) = some n := by decide +kernel

/-- A control message of a kind, with no reply asked for, whose bytes from 8 up are `w`. -/
def msg (kind w : Nat) : List Byte := bytesOf 128 (0xF000 + kind + 77 * 2 ^ 32 + w * 2 ^ 64)
/-- Page 2 of no space offers the message; page 1 holds none. -/
def sm (m : List Byte) : State :=
  { at' xt with mail := [(1, { sid := none, queue := [] }), (2, { sid := none, queue := [m] })] }
def asked (s : State) (kind w : Nat) : Bool := s.ctrlMsg 2 kind == some (msg kind w)

/-- The messages: SPACE, RETIRE, BINDPAGE, HCOPY, LOADSTORE, LAUNCHPAGE, COLDIDLE, ACKOUT, LINK, ATTEST. -/
def msgs : List (Nat × Nat) :=
  [(0x01, 5 + 2 ^ 16 + 16 * 2 ^ 32), (0x02, 0), (0x03, 1 + 0xFFF * 2 ^ 16), (0x04, 5 * 2 ^ 32 + 64 * 2 ^ 128 + 64 * 2 ^ 192),
    (0x04, 2 ^ 16 + 5 * 2 ^ 32 + 64 * 2 ^ 128 + 64 * 2 ^ 192), (0x05, 2 * 2 ^ 16 + 5 * 2 ^ 32 + (1 + 2 ^ 16 + 3 * 2 ^ 32) * 2 ^ 128 + 2 ^ 192),
    (0x09, 0x10101), (0x09, 0x101), (0x0A, 9), (0x0B, 2 ^ 32), (0x0C, 0x201), (0x0D, 64 * 2 ^ 256)]

theorem wit_ControlMessages :
    (∀ p ∈ msgs, asked (sm (msg p.1 p.2)) p.1 p.2 = true ∧ (msg p.1 p.2).length = 128 ∧ msgReply (msg p.1 p.2) = false) ∧
    (let m := msg 0x01 (5 + 2 ^ 16 + 16 * 2 ^ 32)
     (sm m).spaces.get (leAt m 8 2 % 4096) = none ∧ leAt m 12 4 = 16 ∧ ∀ i, i < 7 → leAt m (16 + 8 * i) 8 = 0) ∧
    ((sm (msg 2 0)).spaces.get 0 = some space0 ∧ space0.gen ≠ 0xFF ∧ ({ sm (msg 2 0) with frames := [], ctxs := [] }).frames = [] ∧ (sm (msg 2 0)).saved = []) ∧
    (let m := msg 0x03 (1 + 0xFFF * 2 ^ 16)
     leAt m 8 1 = 1 ∧ (sm m).mail.get 1 = some { sid := none, queue := [] } ∧ leAt m 10 2 % 4096 = 0xFFF) ∧
    (let m := msg 0x04 (5 * 2 ^ 32 + 64 * 2 ^ 128 + 64 * 2 ^ 192)
     (leAt m 8 2, leAt m 10 1, leAt m 12 3, leAt m 16 8, leAt m 24 8, leAt m 32 4) = (0, 0, 5, 0, 64, 64) ∧
      (sm m).hostRange 0 5 0 64 = none ∧ (sm m).Readable 0 5 0 64 ∧ (sm m).derivedObj 0 5 0 = false ∧ (sm m).markHeld [(0, 5, 0, 64)] = false ∧ leAt (msg 0x04 (2 ^ 16 + 5 * 2 ^ 32 + 64 * 2 ^ 128 + 64 * 2 ^ 192)) 10 1 = 1) ∧
    (let m := msg 0x05 (2 * 2 ^ 16 + 5 * 2 ^ 32 + (1 + 2 ^ 16 + 3 * 2 ^ 32) * 2 ^ 128 + 2 ^ 192)
     (leAt m 10 1, leAt m 12 3, leAt m 16 8, leAt m 24 2, leAt m 26 2, leAt m 28 2, leAt m 32 4) = (2, 5, 0, 1, 1, 3, 1)) ∧
    (let m := msg 0x09 0x10101
     (leAt m 8 1, leAt m 9 1, leAt m 10 1) = (1, 1, 1)) ∧
    (space0.heldOut = [] ∧ leAt (msg 0x0B (2 ^ 32)) 12 4 = 1 ∧ leAt (msg 0x0C 0x201) 8 1 = 1 ∧ leAt (msg 0x0C 0x201) 9 1 = 2 ∧
      leAt (msg 0x0D (64 * 2 ^ 256)) 40 8 = 64) ∧
    ((sm (msg 0x0E 0)).boot.locked = true ∧ isControl (msg 0x0E 0) = true ∧ 0x0D < msgKind (msg 0x0E 0) ∧ msgKind (msg 0 0) = 0 ∧ isControl (msg 0 0) = true ∧ msgSid (msg 0 0) = none) := by
  refine ⟨?_, ?_, ?_, ?_, ⟨?_, ?_, readable_of ?_, ?_, ?_, ?_⟩, ?_, ?_, ?_, ?_⟩ <;> decide +kernel

/-- Job 3 alone, its records dealt; the frame of `f` alone. -/
def skj (w : Nat) : State := { sm (msg 0x06 w) with jobs := [(3, jobD none)], frames := [], ctxs := [], clusters := [] }
def skf (kind w : Nat) : State := { sm (msg kind w) with frames := [((0, 0), frS)], ctxs := [(.ctx c0, xt)] }
def srs6 : State := { skf 0x08 (cap6.toNat * 2 ^ 64) with mem := cells ++ [(2 ^ 40 + 47, 1)] }

theorem wit_ControlMessagesOnWork :
    (asked (skj (5 * 2 ^ 32)) 0x06 (5 * 2 ^ 32) = true ∧ CapF.obj (Card.doneword (jobD none).card) = 5 ∧ CapF.base (Card.doneword (jobD none).card) = 0 ∧
      Card.count (jobD none).card ≤ (jobD none).dealt ∧ (jobD none).chunks = [] ∧ (skj (5 * 2 ^ 32)).saved = [] ∧ (skj (5 * 2 ^ 32)).proxies = []) ∧
    (∀ w ∈ [1, 2], asked (skf 0x06 w) 0x06 w = true ∧ leAt (msg 0x06 w) 8 1 = w ∧ leAt (msg 0x06 w) 24 2 = 0 ∧ leAt (msg 0x06 w) 26 1 = 0) ∧
    (frS.killed = none ∧ frS.group = none ∧ ∀ kd x, (skf 0x06 1).ctxs.get (.ctx ⟨0, 0, kd⟩) = some x → x.held = [] ∧ x.unmarked = []) ∧
    (∀ k ∈ [0x07, 0x08], asked (skf k (cap6.toNat * 2 ^ 64)) k (cap6.toNat * 2 ^ 64) = true ∧ (skf k (cap6.toNat * 2 ^ 64)).pageBusy 2 = false ∧
      capOf ((msg k (cap6.toNat * 2 ^ 64)).drop 16 |>.take 16) true = cap6) ∧
    ((skf 0x07 (cap6.toNat * 2 ^ 64)).saving (0, 0) = false ∧
      (skf 0x07 (cap6.toNat * 2 ^ 64)).areaOr 0 cap6 0 (tdGw frS.tdesc * areaBytes (tdSdem frS.tdesc)) { w := true, l := true } = .inr (.dev 0 6 0)) ∧
    (srs6.areaOr 0 cap6 0 256 { r := true, l := true } = .inr (.dev 0 6 0) ∧ srs6.Readable 0 6 0 256 ∧
      srs6.areaOr 0 cap6 0 (tdGw (srs6.areaType (.dev 0 6 0) (areaHead (srs6.bytesAt (.dev 0 6 0) 256))) *
        areaBytes (tdSdem (srs6.areaType (.dev 0 6 0) (areaHead (srs6.bytesAt (.dev 0 6 0) 256))))) { r := true, l := true } = .inr (.dev 0 6 0) ∧
      srs6.headCause (.dev 0 6 0) (areaHead (srs6.bytesAt (.dev 0 6 0) 256)) 0 = none) := by
  refine ⟨?_, ?_, ⟨rfl, rfl, fun kd x h => by cases kd <;> cases h; exact ⟨rfl, rfl⟩⟩, ?_, ⟨?_, ?_⟩, ?_, readable_of ?_, ?_, ?_⟩ <;> decide +kernel

/-- Links 1 and 2 in training and up; job 3 as a mirror of package 4's job 6 over link 2, or with items owed over it. -/
def mj : Job := { jobD none with mirror := some (4, 6, 2) }
def oj : Job := { jobD none with owed := [(4, 1), (5, 2)] }
def spd (j : Job) : State :=
  { at' xt with
    spaces := [], jobs := [(3, j)], clusters := [], boot := { (at' xt).boot with podSize := 2, tokTime := 0 },
    links := ((at' xt).links.set 1 { (at' xt).links[1] with state := 1 }).set 2 { (at' xt).links[2] with state := 2 } }
/-- Entries: a record and a decrement for cluster 5 from package 4's job 6, and the return of three items of job 3. -/
def entB (kind job : Nat) : BitVec 256 := BitVec.ofNat 256 (kind * 2 ^ 192 + 5 * 2 ^ 208 + job * 2 ^ 216 + 4 * 2 ^ 224 + 3)
def tokB (epoch : Nat) : List Byte := bytesOf 32 (2 + epoch * 2 ^ 16)

/-- An atomic of the context out on link 2, and the reply that its home's filter holds of it. -/
def latom (wants : Bool) : AtomReq := { req 0 (.ctx c0) with link := some 2, wants := wants }
def slk (wants : Bool) : State :=
  { spd mj with
    jobs := [], atoms := [(7, latom wants)], frames := [((0, 0), Frame.whole)],
    replay := [{ home := (spd mj).homeOf (.dev 0 5 128), source := 0, id := 0, reply := 5 }] }

theorem wit_PodEvents :
    ((spd mj).links[1].state = 1 ∧ (spd mj).links[2].state = 2 ∧ (spd mj).spaces = [] ∧ (spd oj).jobs = [(3, oj)] ∧ oj.mirror = none ∧
      ∀ p ∈ oj.owed, p.1 = 2 * 2 ∨ p.1 = 2 * 2 + 1) ∧
    (∀ k ∈ [0, 1], entCluster (entB k 6) < 24 ∧ entKind (entB k 6) = k ∧ entDef (entB k 6) = false ∧ mj.mirror = some (entPkg (entB k 6), entJob (entB k 6), 2)) ∧
    ((spd mj).jobs.get 3 = some mj ∧ ∀ p ∈ (spd mj).jobs, ∀ m, p.2.mirror = some (4, 6, m) → p = (3, mj)) ∧
    ((spd mj).atoms = [] ∧ (slk true).atoms.get 7 = some (latom true) ∧ (latom true).link = some 2 ∧ (latom true).applied = false ∧
      (latom true).wants = true ∧ ((slk true).replay.find? fun e => e.home == (slk true).homeOf (latom true).t && e.source == (latom true).source &&
        e.id == (latom true).rid) = some { home := (slk true).homeOf (.dev 0 5 128), source := 0, id := 0, reply := 5 }) ∧
    ((slk false).spaces = [] ∧ (slk false).jobs = [] ∧ (slk false).atoms = [(7, latom false)] ∧ (slk false).ctxs.get (.ctx c0) = some xt ∧
      (slk false).frameOf c0 = some Frame.whole ∧ xt.ended = false ∧ xt.pend = [] ∧ (slk false).links[2].state = 2) ∧
    (entKind (entB 3 3) = 3 ∧ entJob (entB 3 3) = 3 ∧ oj.owed.get 4 = some 1 ∧ oj.owed.get 5 = some 2 ∧ ((entRec (entB 3 3)).extractLsb' 0 32).toNat = 3) ∧
    ((spd mj).boot.locked = true ∧ (spd mj).boot.podSize.toNat = 2 ∧ (spd mj).boot.ownPkg = 0 ∧ (spd mj).clusters = [] ∧
      ∀ e ∈ [0, 1], tokNpkg (tokB e) = 2 ∧ 16 + 8 * tokNpkg (tokB e) ≤ (tokB e).length ∧ (spd mj).boot.tokEpoch ≤ tokEpochOf (tokB e)) ∧
    tokEpochOf (tokB 0) < ({ (spd mj).boot with tokEpoch := 1 }).tokEpoch ∧
    ((spd mj).clock < (spd mj).boot.tokTime + 1000 * (spd mj).boot.mhz ∧ (spd mj).boot.tokTime + 1000 * (spd mj).boot.mhz ≤ 1050000) := by
  refine ⟨?_, ?_, ⟨rfl, ?_⟩, ⟨rfl, rfl, rfl, rfl, rfl, ?_⟩, ⟨rfl, rfl, rfl, rfl, rfl, rfl, rfl, ?_⟩, ?_, ?_, ?_, ?_⟩
  · decide +kernel
  · decide +kernel
  · intro p hp m _; exact List.mem_singleton.mp hp
  all_goals decide +kernel

/-! ## The whole machine -/

theorem wit_TransfersGoToLegalTargets_next : (3 < 4 ∧ 4095 < 4096) ∧ (4094 < 4095) ∧ (7 < 8 ∧ 0 < 4096) := by decide
theorem wit_AtomicRequestsSentAndApplied_table : 0 < 64 := by decide
theorem wit_UnassignedOpcodesTrap : 0x16 < (opcodeOf 0x0600_0000_0000_0000_0000_0000).toNat % 64 ∧ (at' xt).ctxs.get (at' xt).cur = some xt :=
  ⟨by decide, rfl⟩
theorem wit_PlacementOnChannels :
    ((at' xt).objEntry 0 5).map (fun e => (e.cls, decide (0xFFFF < e.size))) = some (0, true) ∧
    ((at' xt).objEntry 0 7).map (fun e => (e.cls, decide (0xFFFF < e.size))) = some (1, true) ∧ (at' xt).slabHome.get (0, 7, 0xFFFF / 65536) = none := by
  decide +kernel
theorem wit_MatrixStepElements : 31 < 32 ∧ 63 < 64 := by decide
theorem wit_ConstantRegistersAndLocalAddresses : 1151 < 1152 := by decide
theorem wit_EveryEncodingDecodesBack :
    (Instr.add { z with dst := .g 2, sa := .g 2, sb := .imm, mod := 3, imm := 4 }).WellFormed = true ∧
    decode 0x000004027F80000300000004 = .ok (.add { z with dst := .g 2, sa := .g 2, sb := .imm, mod := 3, imm := 4 }) :=
  ⟨by decide +kernel, ok_of (by decide +kernel)⟩
theorem wit_StepKeepsMemoryCanonical : State.reset.CanonicalMemory := canon_of (by decide)

/-- A line with ADD g1 <- g2 + g3 in slot 0 and ST of g3 at g8 in slot 1, issued together where `pair` is 1. -/
def lineP (pair : BitVec 4) : BitVec 512 :=
  let nop : BitVec 96 := 0x220000000000000000000000
  let body : BitVec 480 := nop ++ nop ++ nop ++ encode (.st fs) ++ encode (.add f3)
  ((1#5 ++ pair ++ 0#15 ++ xorBytes (0#32 ++ body) 60 : BitVec 32) ++ body)
/-- The turn of core 0's computer sequencer, whose frame 0 is next. -/
def stp (pair : BitVec 4) : State :=
  { at' xt with agenda := [.issue 0 .computer], clusters := [(0, { Cluster.init with store := [(0, lineP pair)] })] }
/-- The outcome of an instruction, then of another beside it. -/
def retires (o : Host.Outcome State Fault Refusal) : Bool := match o with | .next t => t.last == .retired | _ => false
def andThen (o : Host.Outcome State Fault Refusal) (g : State → Host.Outcome State Fault Refusal) : Host.Outcome State Fault Refusal :=
  match o with | .next t => g t | .fault r => .fault r | .refused r => .refused r

/-- The state in which the pair issues. -/
def sp0 : State := { stp 1 with agenda := [], via := some 0, trans := {}, ctxs := [(.ctx c0, { xt with fresh := false })] }

theorem wit_StepRunsTheDecodedInstruction :
    (∀ p ∈ [(0 : BitVec 4), 1], (stp p).agenda = [.issue 0 .computer] ∧ ((stp p).coreOf 0).lastIssue.toList[ctxNo .computer]? = some ((0 : BitVec 2) - 1) ∧
      (stp p).ctxs.get (.ctx c0) = some xt ∧ (stp p).ready c0 = true ∧ xt.pend = [] ∧ xt.owed = none ∧ xt.wait = .none ∧ pcSlot xt.pc < 5 ∧
      pcLine xt.pc < storeLines (.ctx c0) ∧ lineFault (lineP p) false = none ∧ tgtBit (lineP p) 0 = true ∧ pairBit (lineP p) 0 = (p == 1)) ∧
    (decode (slotWord (lineP 1) 0) = .ok (.add f3) ∧ decode (slotWord (lineP 1) 1) = .ok (.st fs) ∧
      wordWaits { xt with fresh := false } (slotWord (lineP 1) 0) = false ∧ wordWaits { xt with fresh := false } (slotWord (lineP 1) 1) = false ∧
      sp0.pairFault { xt with fresh := false } (slotWord (lineP 1) 0) (slotWord (lineP 1) 1) = none ∧
      sp0.pairFault { xt with fresh := false } (encode (.ld fl)) (encode (.ldg fb)) = some (0x02, 0x100) ∧
      pairClass (opcodeOf (encode (.vadd z))) = .a ∧ sp0.higherWaits { xt with fresh := false } (encode (.vadd { z with dst := .v 6, sa := .v 3, sb := .v 4, mod := 1 })) = none) ∧
    retires (exec (.add f3) { stp 0 with agenda := [] }) = true ∧
    retires (andThen (exec (.add f3) { stp 1 with agenda := [] }) fun t => exec (.st fs) { t with pairView := some { xt with fresh := false } }) = true ∧
    (∀ i ∈ [Instr.tokenTimeout, .jobSweep 3], Instr.isEvent i = true) := by
  refine ⟨?_, ⟨ok_of ?_, ok_of ?_, ?_, ?_, ?_, ?_, ?_, ?_⟩, ?_, ?_, ?_⟩ <;> decide +kernel
end Sys2Proof.Machine.Tests
end

/-! PROOFS. Where an object's bytes lie (R89, R90): the family of spec/05_memory.md. -/

namespace Sys2Proof.Machine

/-! ## A direct object's byte -/

/-- An interleaved or bank-linear object places each offset within its size. -/
theorem State.place_of_direct {s : State} {sid obj off : Nat} {e : ObjEnt} (he : s.objEntry sid obj = some e) (hc : e.cls ≠ 2)
    (hoff : off < e.size) : s.place sid obj off = some (s.placeDirect sid e obj off) := by
  simp [State.place, he, hc, hoff]

/-- The slice that serves a direct object's byte is that of its pseudo-channel (R12). -/
theorem State.placeDirect_slice (s : State) (sid : Nat) (e : ObjEnt) (obj off : Nat) :
    (s.placeDirect sid e obj off).slice = (s.placeDirect sid e obj off).chan / 8 := rfl

theorem State.placeDirect_chan_interleaved (s : State) (sid : Nat) {e : ObjEnt} (obj off : Nat) (hc : e.cls = 0) :
    (s.placeDirect sid e obj off).chan = channelOf obj off := by
  simp [State.placeDirect, hc]

theorem State.placeDirect_chan_bankLinear {s : State} {sid obj off : Nat} {e : ObjEnt} (hc : e.cls = 1)
    (hhome : s.slabHome.get (sid, obj, off / 65536) = none) :
    (s.placeDirect sid e obj off).chan = 8 * e.slice + off / 4096 % 8 := by
  simp [State.placeDirect, hc, hhome]

/-! ## The rotation of a run of granules -/

/-- The rotation that R89 gives the m-th run of 1,280 granules of an object: the same for every granule of the run. -/
def runFold (obj m : Nat) : Nat := Nat.xor (obj * 2531) (m * 753) % 1280

theorem runFold_lt (obj m : Nat) : runFold obj m < 1280 := Nat.mod_lt _ (by decide)

theorem channelOf_eq (obj off : Nat) :
    channelOf obj off = (off / 256 % 1280 + runFold obj (off / 256 / 1280)) % 1280 := rfl

/-- Granule r of run m lies on channel r, rotated by the run's fold. -/
theorem channelOf_granule_of_run (obj m : Nat) {r : Nat} (hr : r < 1280) :
    channelOf obj (256 * (m * 1280 + r)) = (r + runFold obj m) % 1280 := by
  have hoff : 256 * (m * 1280 + r) / 256 = m * 1280 + r := Nat.mul_div_cancel_left _ (by decide)
  have hrun : (m * 1280 + r) / 1280 = m := by omega
  have hpos : (m * 1280 + r) % 1280 = r := by omega
  rw [channelOf_eq, hoff, hrun, hpos]

/-- A rotation of the channels is undone by the rotation back. -/
theorem rotate_eq_iff {r f ch : Nat} (hr : r < 1280) (hf : f < 1280) (hch : ch < 1280) :
    (r + f) % 1280 = ch ↔ r = (ch + 1280 - f) % 1280 := by
  omega

/-- The granule of an object's m-th run that lies on a channel. -/
def granuleOn (obj m ch : Nat) : Nat := m * 1280 + (ch + 1280 - runFold obj m) % 1280

theorem granuleOn_mem_run (obj m ch : Nat) : m * 1280 ≤ granuleOn obj m ch ∧ granuleOn obj m ch < (m + 1) * 1280 := by
  unfold granuleOn
  omega

/-- In a run, `granuleOn` alone lies on the channel. -/
theorem channelOf_eq_iff_granuleOn {obj m ch k : Nat} (hch : ch < 1280) (hlo : m * 1280 ≤ k) (hhi : k < (m + 1) * 1280) :
    channelOf obj (256 * k) = ch ↔ k = granuleOn obj m ch := by
  obtain ⟨r, rfl⟩ := Nat.exists_eq_add_of_le hlo
  have hr : r < 1280 := by omega
  rw [channelOf_granule_of_run obj m hr, rotate_eq_iff hr (runFold_lt obj m) hch, granuleOn, Nat.add_left_cancel_iff]

/-- Settles O55: a direct object's place follows from its class, and a run's channels are its granules rotated by one fold. -/
theorem placementOnChannels : Obligations.PlacementOnChannels := by
  unfold Obligations.PlacementOnChannels
  constructor
  · intro s sid obj off e he hoff
    constructor
    · intro hc
      exact ⟨_, State.place_of_direct he (by omega) hoff, s.placeDirect_chan_interleaved sid obj off hc, s.placeDirect_slice sid e obj off⟩
    · intro hc hhome
      have hchan := State.placeDirect_chan_bankLinear hc hhome
      have hslice : (8 * e.slice + off / 4096 % 8) / 8 = e.slice := by omega
      exact ⟨_, State.place_of_direct he (by omega) hoff, hchan, by rw [State.placeDirect_slice, hchan, hslice]⟩
  · intro obj m ch hch
    obtain ⟨hlo, hhi⟩ := granuleOn_mem_run obj m ch
    exact ⟨granuleOn obj m ch, ⟨hlo, hhi, (channelOf_eq_iff_granuleOn hch hlo hhi).2 rfl⟩,
      fun k hk hk' hon => (channelOf_eq_iff_granuleOn hch hk hk').1 hon⟩

end Sys2Proof.Machine

/-! PROOFS. Opcodes that no row assigns (R186), and the first checks of R184 (R182): the family of spec/10_encoding.md. -/

namespace Sys2Proof

/-! ## Unassigned opcodes (R185, R186) -/

/-- The last assigned index of each group of the opcode map, groups 0x0 to 0xD (R185). -/
def lastIndices : List Nat := [0x16, 0x06, 0x09, 0x18, 0x09, 0x03, 0x0A, 0x0A, 0x0A, 0x08, 0x09, 0x09, 0x03, 0x0E]

theorem opcodeAssigned_eq (opc : BitVec 10) :
    opcodeAssigned opc = (lastIndices[opc.toNat / 64]?).any fun n => decide (opc.toNat % 64 ≤ n) := by
  unfold opcodeAssigned
  generalize opc.toNat / 64 = g
  match g with
  | 0 | 1 | 2 | 3 | 4 | 5 | 6 | 7 | 8 | 9 | 10 | 11 | 12 | 13 => rfl
  | _ + 14 => rfl

theorem opcodeAssigned_eq_false_of_past_groups {opc : BitVec 10} (h : lastIndices[opc.toNat / 64]? = none) : opcodeAssigned opc = false := by
  rw [opcodeAssigned_eq, h, Option.any_none]

theorem opcodeAssigned_eq_false_iff_of_last {opc : BitVec 10} {n : Nat} (h : lastIndices[opc.toNat / 64]? = some n) :
    opcodeAssigned opc = false ↔ n < opc.toNat % 64 := by
  rw [opcodeAssigned_eq, h, Option.any_some, decide_eq_false_iff_not, Nat.not_le]

theorem parse_of_unassigned {w : BitVec 96} (h : opcodeAssigned (opcodeOf w) = false) :
    parse w = some (.unassignedOpcode (opcodeOf w)) := by
  simp [parse, h]

/-- A word of an assigned opcode is read into an instruction that has a word, by its row of the map. -/
theorem shape_of_parse {w : BitVec 96} {i : Instr} (ha : opcodeAssigned (opcodeOf w) = true) (hp : parse w = some i) :
    ∃ p f, i.shape = some (p, f) := by
  rw [parse, if_pos ha] at hp
  split at hp
  next f _ =>
    obtain ⟨p, hs, -⟩ := ofOpcode_holds hp
    exact ⟨p, f, hs⟩
  next => cases hp

/-- What the decoder answers was read from the word. -/
theorem parse_of_decode {w : BitVec 96} {i : Instr} (h : decode w = .ok i) : parse w = some i := by
  unfold decode at h
  split at h
  next => cases h
  next j hp =>
    split at h
    next => cases h; exact hp
    next => cases h
    next => cases h

theorem decode_eq_unassignedOpcode_iff (w : BitVec 96) :
    decode w = .ok (.unassignedOpcode (opcodeOf w)) ↔ opcodeAssigned (opcodeOf w) = false := by
  constructor
  · intro h
    rw [← Bool.not_eq_true]
    intro ha
    obtain ⟨p, f, hs⟩ := shape_of_parse ha (parse_of_decode h)
    cases hs
  · intro h
    rw [decode, parse_of_unassigned h]
    rfl

end Sys2Proof

namespace Sys2Proof.Machine

/-- An unassigned opcode's meaning is its trap alone (R186). -/
theorem unassignedOpcode_faults {s : State} {x : Ctx} (hlive : s.ctxs.get s.cur = some x) (opc : BitVec 10) :
    s.Faults (.unassignedOpcode opc) x 0x01 0 (opc.zeroExtend 32) := by
  have he : exec (.unassignedOpcode opc) s = execUnassignedOpcode opc s := rfl
  rw [State.Faults, he, execUnassignedOpcode]
  simp only [hlive, Ctx.consume_status]
  rfl

/-- Settles O19: the map assigns an opcode exactly up to its group's last index, and the meaning of the others is the trap. -/
theorem unassignedOpcodesTrap : Obligations.UnassignedOpcodesTrap := by
  unfold Obligations.UnassignedOpcodesTrap
  constructor
  · intro w last
    rw [decode_eq_unassignedOpcode_iff]
    cases hlast : last[(opcodeOf w).toNat / 64]? with
    | some n => exact (opcodeAssigned_eq_false_iff_of_last hlast).symm
    | none => exact iff_of_true trivial (opcodeAssigned_eq_false_of_past_groups hlast)
  · intro s x opc hlive
    exact unassignedOpcode_faults hlive opc

/-! ## An instruction that a check of R184 stops -/

@[simp] theorem State.view_sv (s : State) (x : Ctx) : (s.view x).sv = x.sv := by
  unfold State.view
  split <;> rfl

/-- An instruction that executes and fails a check raises that check's cause; its body is not run. -/
theorem issue_of_issueFault {s : State} {x : Ctx} {i : Instr} {sh : Shape} {f : Fld} {p : Pre} {body : Body} {c : Cause} {e : BitVec 32}
    (hlive : s.ctxs.get s.cur = some x) (hshape : i.shape = some (sh, f)) (hfree : waitsForTag (s.view x) i = false)
    (hruns : (s.view x).executes f = true) (hcheck : issueFault s (s.view x) i p = some (c, e)) :
    issue i p body s = .next ((s.begun x).raise c 0 e) := by
  unfold issue
  simp [hlive, hshape, hfree, hruns, hcheck, State.begun]

/-- Rank 0x01: an opcode outside the profile (R181). -/
theorem issueFault_of_not_inProfile {s : State} {y : Ctx} {i : Instr} {sh : Shape} {f : Fld} (p : Pre) (hshape : i.shape = some (sh, f))
    (hprofile : inProfile s.cur y.sv sh.opc = false) : issueFault s y i p = some (0x01, sh.opc.zeroExtend 32) := by
  unfold issueFault
  simp [hshape, hprofile]

/-- Rank 0x08, behind the profile and the features alone (R182, R184). -/
theorem issueFault_of_privilegeFault {s : State} {y : Ctx} {i : Instr} {sh : Shape} {f : Fld} (p : Pre) {e : BitVec 32}
    (hshape : i.shape = some (sh, f)) (hprofile : inProfile s.cur y.sv sh.opc = true)
    (hfeatures : ∀ n ∈ featuresOf sh.opc f.imm, s.feature n = true) (hpriv : privilegeFault y.sv sh.opc f.imm = some e) :
    issueFault s y i p = some (0x08, e) := by
  have hmissing : (featuresOf sh.opc f.imm).any (fun n => ! s.feature n) = false := by
    rw [List.any_eq_false]
    intro n hn
    simp [hfeatures n hn]
  unfold issueFault
  simp [hshape, hprofile, hmissing, hpriv]

/-! ## The supervisor-only instructions (R182) -/

/-- At SV = 0 a supervisor-only opcode is refused; EINFO names it, with the register that a SETS writes above it (R244). -/
theorem privilegeFault_of_supervisorOnly {opc : BitVec 10} (hsup : supervisorOnly opc = true) (imm : BitVec 32) :
    ∃ e : BitVec 32, e.extractLsb' 0 10 = opc ∧ privilegeFault false opc imm = some e := by
  unfold privilegeFault
  simp only [hsup, if_true, Bool.false_eq_true, if_false]
  refine ⟨_, ?_, rfl⟩
  apply BitVec.eq_of_getLsbD_eq
  intro j hj
  have hj' : j < 32 := by omega
  split
  · simp [hj, hj']
  · simp [hj, hj']

/-- The instruction `i` holds the fields `f` under `opc`, and its meaning is the common issue with some checks and body of its own. -/
structure IssuedUnder (i : Instr) (f : Fld) (opc : BitVec 10) : Prop where
  shape : ∃ sh, i.shape = some (sh, f) ∧ sh.opc = opc
  meaning : ∃ p body, ∀ s, exec i s = issue i p body s

/-- An issued instruction faults by a check that it fails whatever it adds to the common checks. -/
theorem IssuedUnder.faults {i : Instr} {f : Fld} {opc : BitVec 10} (hi : IssuedUnder i f opc) {s : State} {x : Ctx} {c : Cause} {e : BitVec 32}
    (hlive : s.ctxs.get s.cur = some x) (hfree : waitsForTag (s.view x) i = false) (hruns : (s.view x).executes f = true)
    (hcheck : ∀ p, issueFault s (s.view x) i p = some (c, e)) : s.Faults i x c 0 e := by
  obtain ⟨sh, hshape, -⟩ := hi.shape
  obtain ⟨p, body, hexec⟩ := hi.meaning
  rw [State.Faults, hexec, issue_of_issueFault hlive hshape hfree hruns (hcheck p), State.begun, Ctx.consume_status]
  rfl

/-- The eight supervisor-only instructions with their opcodes (R182). -/
def supervisorForms (f : Fld) : List (Instr × BitVec 10) :=
  [(.sets f, 0x341), (.xflush f, 0x342), (.slotset f, 0x345), (.fsave f, 0x346), (.frest f, 0x347), (.eret f, 0x348), (.idle f, 0x34A),
    (.xmig f, 0x34D)]

theorem supervisorOnly_of_mem_forms {i : Instr} {f : Fld} {opc : BitVec 10} (h : (i, opc) ∈ supervisorForms f) : supervisorOnly opc = true := by
  have hopcs : ∀ o ∈ (supervisorForms f).map Prod.snd, supervisorOnly o = true := by
    rw [supervisorForms]
    simp only [List.map_cons, List.map_nil]
    decide
  exact hopcs opc (List.mem_map_of_mem (f := Prod.snd) h)

theorem issuedUnder_of_mem_forms {i : Instr} {f : Fld} {opc : BitVec 10} (h : (i, opc) ∈ supervisorForms f) : IssuedUnder i f opc := by
  simp only [supervisorForms, List.mem_cons, Prod.mk.injEq, List.not_mem_nil, or_false] at h
  rcases h with ⟨rfl, rfl⟩ | ⟨rfl, rfl⟩ | ⟨rfl, rfl⟩ | ⟨rfl, rfl⟩ | ⟨rfl, rfl⟩ | ⟨rfl, rfl⟩ | ⟨rfl, rfl⟩ | ⟨rfl, rfl⟩
  all_goals exact ⟨⟨_, rfl, rfl⟩, _, _, fun _ => by unfold exec; rfl⟩

/-- Settles O23: of the checks in rank order (R184), only the profile and the features stand before privilege. -/
theorem firstCheckWins : Obligations.FirstCheckWins := by
  unfold Obligations.FirstCheckWins
  intro s x f i opc hmem hlive hfree hruns hsv
  have hi : IssuedUnder i f opc := issuedUnder_of_mem_forms hmem
  obtain ⟨sh, hshape, rfl⟩ := hi.shape
  have hsv' : (s.view x).sv = false := (s.view_sv x).trans hsv
  constructor
  · intro hprofile
    exact hi.faults hlive hfree hruns fun p => issueFault_of_not_inProfile p hshape (hsv' ▸ hprofile)
  · intro hprofile hfeatures
    obtain ⟨e, heinfo, hpriv⟩ := privilegeFault_of_supervisorOnly (supervisorOnly_of_mem_forms hmem) f.imm
    exact ⟨e, heinfo, hi.faults hlive hfree hruns fun p =>
      issueFault_of_privilegeFault p hshape (hsv' ▸ hprofile) hfeatures (hsv' ▸ hpriv)⟩

end Sys2Proof.Machine

/-! PROOFS. The return from an exception, R239, and the rewriting of EPC before it, R391: the family of spec/14_faults.md. -/

namespace Sys2Proof.Machine

/-! ## A check that stops an instruction whose predicate does not suppress it -/

/-- An ungated instruction that fails a check raises that check's cause, whatever its predicate says; its body is not run. -/
theorem issue_of_issueFault_of_ungated {s : State} {x : Ctx} {i : Instr} {sh : Shape} {f : Fld} {p : Pre} {body : Body} {c : Cause}
    {e : BitVec 32} (hlive : s.ctxs.get s.cur = some x) (hshape : i.shape = some (sh, f)) (hfree : waitsForTag (s.view x) i = false)
    (hgate : p.gated = false) (hcheck : issueFault s (s.view x) i p = some (c, e)) :
    issue i p body s = .next ((s.begun x).raise c 0 e) := by
  unfold issue
  simp [hlive, hshape, hfree, hgate, hcheck, State.begun]

/-- Rank 0x02, behind the profile, the features and privilege (R184): a reserved field. -/
theorem issueFault_of_reserved {s : State} {y : Ctx} {i : Instr} {sh : Shape} {f : Fld} (p : Pre) (hshape : i.shape = some (sh, f))
    (hprofile : inProfile s.cur y.sv sh.opc = true) (hfeatures : featuresOf sh.opc f.imm = [])
    (hpriv : privilegeFault y.sv sh.opc f.imm = none) (hreserved : sh.reservedOk f = false) :
    issueFault s y i p = some (0x02, sh.opc.zeroExtend 32) := by
  have hcheck : sh.check f = some .reserved := by simp [Shape.check, hreserved]
  unfold issueFault
  simp [hshape, hprofile, hfeatures, hpriv, hcheck]

/-! ## An effect on the issuing context and its frame -/

@[simp] theorem State.view_epc (s : State) (x : Ctx) : (s.view x).epc = x.epc := by
  unfold State.view
  split <;> rfl

theorem State.me_setFrame (s : State) (core frm : Nat) (fr : Frame) (g : Ctx → Ctx) :
    (s.setFrame core frm fr).me g = (s.me g).setFrame core frm fr := by
  unfold State.me State.updCtx
  cases h : s.ctxs.get s.cur <;> simp [h, State.setFrame, State.setCtx]

theorem State.updFrame_of_frameOf {s : State} {c : CtxId} {fr : Frame} (h : s.frameOf c = some fr) (g : Frame → Frame) :
    s.updFrame c.core c.frm g = s.setFrame c.core c.frm (g fr) := by
  rw [State.frameOf] at h
  simp [State.updFrame, h]

/-- With no trap after it, a retirement touches no frame. -/
theorem retire_setFrame (s : State) (core frm : Nat) (fr : Frame) (e : PdEntry) (j : Option Pc) (pc : Pc) :
    Eff.retire { s := s.setFrame core frm fr, pd := e, jump := j } pc = (Eff.retire { s := s, pd := e, jump := j } pc).setFrame core frm fr := by
  unfold Eff.retire
  simp only [State.me_setFrame, State.setFrame_cur, State.setFrame_runs]
  split
  · split <;> rfl
  · rfl

/-- A body that changes the issuing context by `g`, makes its frame `fr` and jumps. -/
theorem leavesFrame_jump {s : State} {i : Instr} {p : Pre} {x : Ctx} (h : s.Issues i p x) {body : Body} {g : Ctx → Ctx} {c : CtxId}
    {fr : Frame} {e : PdEntry} {q : Pc} (he : exec i s = issue i p body s)
    (hb : body (s.view x) (s.begun x) = .ok { s := ((s.begun x).me g).setFrame c.core c.frm fr, pd := e, jump := some q }) :
    s.LeavesFrame i c { x.closed (g x.prefixDone) e with pc := q } fr := by
  rw [State.LeavesFrame, he, issue_runs h hb, retire_setFrame, State.me_live (s.begun_live x)]
  exact congrArg (fun t => Host.Outcome.next (t.setFrame c.core c.frm fr)) (retire_jump x _ _ _)

/-! ## ERET (R239, R346) -/

/-- A context past the return from its exception (R239). -/
def Ctx.returned (x : Ctx) : Ctx := { x with status := x.estatus, pc := x.epc.extractLsb' 0 15 }

theorem State.trapReturn_of_frameOf {s : State} {c : CtxId} {fr : Frame} {x : Ctx} (hcur : s.cur = .ctx c)
    (hlive : s.ctxs.get s.cur = some x) (hfr : s.frameOf c = some fr) :
    s.trapReturn = (s.me Ctx.returned).setFrame c.core c.frm { fr with trappedBy := none } := by
  rw [State.me_live hlive, ← State.updFrame_of_frameOf (s := s.setCtx s.cur x.returned) hfr fun f => { f with trappedBy := none }]
  unfold State.trapReturn
  simp only [hcur] at hlive ⊢
  simp only [hlive]
  rfl

/-- The field table of ERET (R346). -/
def eretShape : Shape := { opc := 0x348, dst := [], sa := [], sb := [], sc := [], ok := fun f => f.mod == 0 && f.imm == 0, ctl := .none }

theorem exec_eret (f : Fld) (s : State) : exec (.eret f) s = execEret f s := rfl

theorem eret_shape (f : Fld) : (Instr.eret f).shape = some (eretShape, f) := rfl

/-- The fields of a word whose bits below the opcode are all zero. -/
def zeroFields : Fld :=
  { pk := 0, ps := false, dst := .g 0, sa := .g 0, sb := .g 0, sc := .g 0, talloc := 0, tw0 := 0, tw1 := 0, mod := 0, imm := 0 }

/-- Every field of ERET is reserved. -/
theorem eretShape_reservedOk_iff (f : Fld) : eretShape.reservedOk f = true ↔ f = zeroFields := by
  obtain ⟨pk, ps, dst, sa, sb, sc, talloc, tw0, tw1, mod, imm⟩ := f
  simp only [eretShape, zeroFields, Shape.reservedOk, CtlRule.ok, TagRule.ok, zeroIfUnused, List.isEmpty_nil, Bool.not_true, Bool.false_or,
    Bool.and_eq_true, beq_iff_eq, Bool.not_eq_true', Fld.mk.injEq]
  constructor
  · rintro ⟨⟨⟨⟨⟨⟨⟨⟨⟨htw0, htw1⟩, hpk⟩, hps⟩, htalloc⟩, hdst⟩, hsa⟩, hsb⟩, hsc⟩, hmod, himm⟩
    exact ⟨hpk, hps, hdst, hsa, hsb, hsc, htalloc, htw0, htw1, hmod, himm⟩
  · rintro ⟨hpk, hps, hdst, hsa, hsb, hsc, htalloc, htw0, htw1, hmod, himm⟩
    exact ⟨⟨⟨⟨⟨⟨⟨⟨⟨htw0, htw1⟩, hpk⟩, hps⟩, htalloc⟩, hdst⟩, hsa⟩, hsb⟩, hsc⟩, hmod, himm⟩

theorem reservedOk_of_wellFormed {i : Instr} {sh : Shape} {f : Fld} (hshape : i.shape = some (sh, f)) (h : i.WellFormed = true) :
    sh.reservedOk f = true := by
  rw [Instr.WellFormed, hshape] at h
  cases hr : sh.reservedOk f with
  | true => rfl
  | false => simp [Shape.check, hr] at h

theorem eret_leavesFrame {s : State} {x : Ctx} {f : Fld} {c : CtxId} {fr : Frame} (hcur : s.cur = .ctx c) (hfr : s.frameOf c = some fr)
    (h : s.Issues (.eret f) { gated := false } x) :
    s.LeavesFrame (.eret f) c { x.past .none with status := x.estatus, pc := x.epc.extractLsb' 0 15 } { fr with trappedBy := none } := by
  have hreturn : (s.begun x).trapReturn = ((s.begun x).me Ctx.returned).setFrame c.core c.frm { fr with trappedBy := none } :=
    State.trapReturn_of_frameOf hcur (s.begun_live x) hfr
  exact leavesFrame_jump (g := Ctx.returned) h (exec_eret f s) (by simp only [hreturn, pcIn, State.view_epc])

/-- ERET takes no predicate, so a check that it fails stops it whatever its PK says. -/
theorem eret_faults {s : State} {x : Ctx} {f : Fld} {cause : Cause} {e : BitVec 32} (hlive : s.ctxs.get s.cur = some x)
    (hfree : waitsForTag (s.view x) (.eret f) = false)
    (hcheck : issueFault s (s.view x) (.eret f) { gated := false } = some (cause, e)) : s.Faults (.eret f) x cause 0 e := by
  rw [State.Faults, exec_eret, execEret, issue_of_issueFault_of_ungated hlive (eret_shape f) hfree rfl hcheck, State.begun, Ctx.consume_status]
  rfl

/-- ERET needs no feature (R183). -/
theorem eret_featuresOf (imm : BitVec 32) : featuresOf eretShape.opc imm = [] := by
  simp [featuresOf, eretShape]

/-- Every context has ERET in its profile at supervisor level (R181). -/
theorem eret_inProfile_of_sv (c : CtxId) : inProfile (.ctx c) true eretShape.opc = true := by
  simp [inProfile, eretShape]

theorem eret_privilegeFault (imm : BitVec 32) : privilegeFault false eretShape.opc imm = some 0x348 := by
  simp [privilegeFault, supervisorOnly, eretShape]

/-! ## SETS of EPC (R391) -/

theorem exec_sets (f : Fld) (s : State) : exec (.sets f) s = execSets f s := rfl

/-- SETS keeps the 15 bits of a PC (R169) of what it writes to EPC. -/
theorem and_pcMask (v : Word) : v &&& 0x7FFF = (v.extractLsb' 0 15).zeroExtend 64 := by
  apply BitVec.eq_of_toNat_eq
  have hmod : (v &&& 0x7FFF).toNat = v.toNat % 2 ^ 15 := Nat.and_two_pow_sub_one_eq_mod v.toNat 15
  rw [hmod, BitVec.toNat_setWidth, BitVec.extractLsb'_toNat, Nat.shiftRight_zero]
  omega

/-- A value that names a slot is kept in EPC by its low 15 bits. -/
theorem sets_epc_leaves {s : State} {x : Ctx} {f : Fld} {c : CtxId} (hcur : s.cur = .ctx c) (h : s.Issues (.sets f) {} x)
    (hreg : f.imm = 0x001) (hslot : ((s.src x f f.sa).extractLsb' 12 3).toNat < 5) :
    s.Leaves (.sets f) { x.past .none with epc := ((s.src x f f.sa).extractLsb' 0 15).zeroExtend 64 } := by
  rw [← and_pcMask]
  refine leaves_of (g := fun z => { z with epc := s.src x f f.sa &&& 0x7FFF }) h (exec_sets f s) ?_
  have hslot' : ¬ 5 ≤ ((srcW (s.view x) f s.pairView.isSome f.sa).extractLsb' 12 3).toNat := Nat.not_le.2 hslot
  simp only [State.begun_cur, State.begun_pairView, hcur, hreg]
  exact if_neg hslot'

/-- Settles O21: ERET's checks let only zero fields at SV = 1 pass, its body is the return to EPC, and SETS writes EPC. -/
theorem returnFromException : Obligations.ReturnFromException := by
  unfold Obligations.ReturnFromException
  intro s x f c fr hcur hfr zero
  refine ⟨fun h => ?_, fun hlive hfree hsv hne => ?_, fun hlive hfree hsv hprofile => ?_, sets_epc_leaves hcur⟩
  · exact ⟨(eretShape_reservedOk_iff f).1 (reservedOk_of_wellFormed (eret_shape f) h.formed), eret_leavesFrame hcur hfr h⟩
  · have hsv' : (s.view x).sv = true := (s.view_sv x).trans hsv
    have hprofile : inProfile s.cur (s.view x).sv eretShape.opc = true := by rw [hcur, hsv', eret_inProfile_of_sv]
    have hpriv : privilegeFault (s.view x).sv eretShape.opc f.imm = none := by rw [hsv']; rfl
    have hreserved : eretShape.reservedOk f = false := by rw [← Bool.not_eq_true, eretShape_reservedOk_iff]; exact hne
    exact eret_faults hlive hfree (issueFault_of_reserved _ (eret_shape f) hprofile (eret_featuresOf f.imm) hpriv hreserved)
  · have hsv' : (s.view x).sv = false := (s.view_sv x).trans hsv
    have hfeatures : ∀ n ∈ featuresOf eretShape.opc f.imm, s.feature n = true := by simp [eret_featuresOf]
    have hpriv : privilegeFault (s.view x).sv eretShape.opc f.imm = some 0x348 := by rw [hsv', eret_privilegeFault]
    exact eret_faults hlive hfree (issueFault_of_privilegeFault _ (eret_shape f) (hsv' ▸ hprofile) hfeatures hpriv)

end Sys2Proof.Machine
